-- ==== Sys2Proof/Word.lean ====
section
/-! DEFINITION. The word types of the DQ-40 (00_scope.md R4: a byte is 8 bits, a word 32, a dword 64) and the
identifier types of its units (01_package_and_memory.md R9). -/
namespace Sys2Proof

abbrev Byte := BitVec 8
abbrev Word := BitVec 32
abbrev Dword := BitVec 64
/-- A message slot, an accumulator integer: 128 bits. -/
abbrev Quad := BitVec 128

/-- A general register number g0-g31. -/
abbrev Reg := BitVec 5
/-- A tile identifier: die [7:6], cluster [5:3], tile [2:0] (R9). A Musher thread has the identifier of the tile of
its number: cluster identifier × 8 + thread. -/
abbrev TileId := BitVec 8
/-- A cluster identifier: die [4:3], cluster [2:0] (R9). -/
abbrev ClusterId := BitVec 5
abbrev DieId := BitVec 2
/-- A queue number, 0-1,023 (R47). -/
abbrev QueueId := BitVec 10
/-- A PCIe function: 0 the physical function, 1-63 the virtual functions (R42, R51). -/
abbrev FuncId := BitVec 6
/-- A partition, 0-15 (R66). -/
abbrev PartId := BitVec 4

/-- The die of a tile or thread (R9). -/
def TileId.die (t : TileId) : DieId := t.extractLsb' 6 2
/-- The cluster identifier of a tile or thread (R9). -/
def TileId.cluster (t : TileId) : ClusterId := t.extractLsb' 3 5
/-- The tile-in-cluster, or thread, number (R9). -/
def TileId.num (t : TileId) : BitVec 3 := t.extractLsb' 0 3
/-- The die of a cluster (R9). -/
def ClusterId.die (c : ClusterId) : DieId := c.extractLsb' 3 2
/-- Tile or thread `n` of cluster `c` (R9). -/
def tileOf (c : ClusterId) (n : BitVec 3) : TileId := c ++ n

/-- The engines of a tile by their codes LD 0, MX 1, VX 2, ST 3 (R238). -/
inductive Eng where
  | ld | mx | vx | st
deriving DecidableEq, Repr, Inhabited

def Eng.code : Eng → BitVec 2
  | .ld => 0 | .mx => 1 | .vx => 2 | .st => 3

def Eng.ofCode (c : BitVec 2) : Eng :=
  if c = 0 then .ld else if c = 1 then .mx else if c = 2 then .vx else .st

theorem Eng.ofCode_code (e : Eng) : Eng.ofCode e.code = e := by cases e <;> rfl

end Sys2Proof
end

