-- ==== Sys2Proof/Machine/Bits.lean ====
section
/-! DEFINITION. Bit-field, sign-extension and byte-order helpers (12_isa_formats_and_assembly.md R255, 00_scope.md R4). -/
namespace Sys2Proof.Machine

/-- bits(x, hi, lo) of R255 on an unbounded integer. -/
def bits (x : Int) (hi lo : Nat) : Nat := ((x / 2 ^ lo) % 2 ^ (hi - lo + 1)).toNat

/-- set_bits(y, hi, lo, v) of R255 on a 64-bit pattern. -/
def setBits (y : Dword) (hi lo v : Nat) : Dword :=
  let m := BitVec.ofNat 64 ((2 ^ (hi - lo + 1) - 1) * 2 ^ lo)
  (y &&& ~~~m) ||| (BitVec.ofNat 64 (v * 2 ^ lo) &&& m)

/-- The low `n` bits of `x`, sign-extended to 64 bits. -/
def sextLow (x : Dword) (n : Nat) : Dword := BitVec.ofInt 64 ((BitVec.ofNat n x.toNat).toInt)

/-- The low `n` bits of `x`, zero-extended to 64 bits. -/
def zextLow (x : Dword) (n : Nat) : Dword := BitVec.ofNat 64 (x.toNat % 2 ^ n)

def b2d (b : Bool) : Dword := if b then 1 else 0

def b2n (b : Bool) : Nat := if b then 1 else 0

/-- The bytes of `v`, `n` of them, little-endian (R4). -/
def toBytes (n v : Nat) : List Byte :=
  match n with
  | 0 => []
  | n + 1 => BitVec.ofNat 8 v :: toBytes n (v / 256)

/-- The number whose little-endian bytes these are (R4). -/
def ofBytes : List Byte → Nat
  | [] => 0
  | b :: r => b.toNat + 256 * ofBytes r

/-- ceil(a / b) -/
def cdiv (a b : Nat) : Nat := (a + b - 1) / b

/-- Is bit `n` of `x` set. -/
def tst (x n : Nat) : Bool := x / 2 ^ n % 2 = 1

end Sys2Proof.Machine
end

