-- ==== Sys2Proof/Syntax.lean ====
section
/-! DEFINITION. The instructions and steps of the DQ-40: one constructor of `Instr` per row of
spec/opcode_table.json, with the operand types they use. A Musher instruction carries its register and immediate
fields (12_isa_formats_and_assembly.md R232, R235); a loop-block operator its record (R237-R245); a packet its
header and body (04_queues_and_packets.md R71-R85); a message its header and data slots (02_links.md R26); an
event the unit it concerns and what the outside world brings with it. -/
namespace Sys2Proof

/-- A wait or signal lane of D1 (R239). -/
structure Lane where
  amt : BitVec 4
  sem : BitVec 5
deriving DecidableEq, Repr, Inhabited

/-- An operand descriptor (R241): kind 0 none, 1 window, 2 ring, 3 accumulator tile. -/
structure Operand where
  kind : BitVec 2
  index : BitVec 6
  fmt : Byte
  map : Byte
  opf : Byte
  c0 : BitVec 16
  c1 : BitVec 16
  c2 : BitVec 16
  c3 : BitVec 16
  st0 : BitVec 24
  st1 : BitVec 24
  st2 : BitVec 24
  st3 : BitVec 24
deriving DecidableEq, Repr, Inhabited

/-- A loop-block record less its operation number (R237-R245); the operation is the constructor of `Instr`. -/
structure Block where
  smap : Bool
  sat : Bool
  lvl : BitVec 2
  rm : BitVec 2
  cls : BitVec 4
  ftzo : Bool
  ftzi : Bool
  ma : Bool
  dup : Bool
  ts : Bool
  eng : BitVec 2
  w1 : Lane
  w2 : Lane
  s1 : Lane
  s2 : Lane
  b0 : BitVec 16
  b1 : BitVec 16
  b2 : BitVec 16
  b3 : BitVec 16
  op0 : Operand
  op1 : Operand
  op2 : Operand
  op3 : Operand
  d15 : Dword
deriving DecidableEq, Repr, Inhabited

/-- The header fields of a packet that every type shares (R71). -/
structure PktHdr where
  vec : BitVec 6
  irq : Bool
  rel : BitVec 3
  acq : BitVec 3
  bar : Bool
  csig : BitVec 56
deriving DecidableEq, Repr, Inhabited

/-- The body of a LAUNCH packet (R78). -/
structure LaunchBody where
  kobj : BitVec 56
  count : Word
  first : Word
  lgid : BitVec 16
  sh3 : Byte
  sh2 : Byte
  sh1 : Byte
  sh0 : Byte
  pri : BitVec 3
  fixed : Bool
  team : BitVec 4
  args : BitVec 56
  conf : BitVec 56
  init : BitVec 56
deriving DecidableEq, Repr, Inhabited

/-- The body of a COPY packet (R79). -/
structure CopyBody where
  fill : Bool
  src : Dword
  dst : BitVec 56
  len : BitVec 40
  rows : Word
  sstr : BitVec 40
  dstr : BitVec 40
deriving DecidableEq, Repr, Inhabited

/-- The body of a WAITSIG packet (R80). -/
structure WaitBody where
  sig0 : BitVec 56
  sig1 : BitVec 56
  sig2 : BitVec 56
  sig3 : BitVec 56
  t0 : BitVec 16
  t1 : BitVec 16
  t2 : BitVec 16
  t3 : BitVec 16
  tmo : Word
deriving DecidableEq, Repr, Inhabited

/-- The body of a SIGNAL packet (R81): op 0 DEC, 1 INC, 2 SET. -/
structure SignalBody where
  sig : BitVec 56
  val : Dword
  op : BitVec 2
deriving DecidableEq, Repr, Inhabited

/-- The body of a COND packet (R82). -/
structure CondBody where
  pred : BitVec 56
  cmpv : Dword
  limit : BitVec 16
  n : Byte
  act : BitVec 2
  dword : Bool
  cmp : BitVec 3
deriving DecidableEq, Repr, Inhabited

/-- A message: its header slot (R26) and its data slots. -/
structure Msg where
  addr : BitVec 56
  op : BitVec 6
  tag : BitVec 12
  hops : BitVec 4
  ddie : DieId
  dpkg : BitVec 12
  sdie : DieId
  spkg : BitVec 12
  sagent : BitVec 10
  cls : BitVec 4
  rlen : BitVec 2
  sz : Bool
  data : List Quad
deriving DecidableEq, Repr, Inhabited

/-- A link flit as its receiver reads it (R25); `good` is false where the receiver must handle it as bad. -/
structure Flit where
  crm : Byte
  crg : Byte
  crs : Byte
  crq : Byte
  data : Bool
  ak : BitVec 2
  aseq : BitVec 10
  seq : BitVec 10
  msgs : List Msg
  good : Bool
deriving DecidableEq, Repr, Inhabited

/-- One end of a link: end `up` (the higher-numbered die) or not of UCIe module `idx`, or fabric port `idx`
(die [5:4], port [3:0]; R23, R35). -/
structure LinkEnd where
  fabric : Bool
  idx : BitVec 6
  up : Bool
deriving DecidableEq, Repr, Inhabited

/-- A barrier (R188): a cluster barrier of a slot, a die barrier, a package barrier. -/
inductive BarId where
  | cb (c : ClusterId) (slot : Nat) (n : BitVec 4)
  | db (die : DieId) (n : BitVec 4)
  | pb (n : BitVec 4)
deriving DecidableEq, Repr, Inhabited

/-- The two mailboxes of R53. -/
inductive Mbox where
  | herder | access
deriving DecidableEq, Repr, Inhabited

/-- The unit kinds of a vet-check lease (R113). -/
inductive UnitKind where
  | tile | module | port | channel
deriving DecidableEq, Repr, Inhabited

/-- A unit under lease: its kind, its die and its UNIT number (R114). -/
structure UnitId where
  kind : UnitKind
  die : DieId
  unit : Byte
deriving DecidableEq, Repr, Inhabited

/-- What one pattern run and its repeat showed (R115). -/
inductive RunOutcome where
  | pass
  | marginal (synd : Dword)
  | fail (synd : Dword)
deriving DecidableEq, Repr, Inhabited

/-- What a pre-emption covers: a cluster, or one tile with its thread (R101). -/
inductive PreTarget where
  | cluster (c : ClusterId)
  | tile (t : TileId)
deriving DecidableEq, Repr, Inhabited

/-- A rank: channel of a die and stack ID (R16). -/
structure RankId where
  die : DieId
  ch : BitVec 7
  rank : BitVec 2
deriving DecidableEq, Repr, Inhabited

/-- The apertures of a function (R44). -/
inductive Aperture where
  | a | m | n
deriving DecidableEq, Repr, Inhabited

/-- Registers of a function's PCIe configuration space (R42, R44, R56): the base of a BAR; the MSI-X capability's control word,
and the places it names for the table and the pending bits; the Resizable BAR capability's sizes and its control word (the
physical function's BAR 2); the number of virtual functions that SR-IOV offers; the 10-bit tag support; AER's uncorrectable
status, its mask, and the correctable status. -/
inductive CfgReg where
  | bar (n : BitVec 3)
  | msixControl | msixTable | msixPba
  | rebarSizes | rebarControl
  | sriovTotal
  | deviceCap2
  | aerUncor | aerUncorMask | aerCor
deriving DecidableEq, Repr, Inhabited

/-- A place in a function's apertures (R44). -/
structure HostAt where
  ap : Aperture
  off : Dword
deriving DecidableEq, Repr, Inhabited

/-- A place in aperture N (R49): the page and the offset within it. -/
structure NotifyAt where
  page : QueueId
  off : BitVec 12
deriving DecidableEq, Repr, Inhabited

/-- A configuration request to a function (R43): the register read, or the value written to it. -/
structure CfgRequest where
  f : FuncId
  r : CfgReg
  wr : Option Dword
deriving DecidableEq, Repr, Inhabited

/-- An SRAM word under its code (R13): of a tile store, of an accumulator file (entry and half), its flags (16 entries) or
its contribution counts (2 entries), of a pool, of a kennel slot or of the thread save area. -/
inductive SramWord where
  | store (t : TileId) (w : BitVec 17)
  | acc (t : TileId) (half : BitVec 15)
  | flags (t : TileId) (w : BitVec 10)
  | counts (t : TileId) (w : BitVec 13)
  | cpool (c : ClusterId) (w : BitVec 20)
  | dpool (die : DieId) (w : BitVec 23)
  | kennel (t : TileId) (w : BitVec 18)
  | save (die : DieId) (w : BitVec 12)
deriving DecidableEq, Repr, Inhabited

/-- A firmware image: its bytes with their signature, the security version, the firmware version and the range of
state-table versions it declares (R60, R63). -/
structure FwImage where
  bytes : List Byte
  sig : List Byte
  svn : Word
  fwver : Word
  stLo : Nat
  stHi : Nat
deriving DecidableEq, Repr, Inhabited

/-- One constructor per row of spec/opcode_table.json, in the table's order but for MU_ILLEGAL, which follows the
Musher words. -/
inductive Instr where
  /-- ADD (R264). -/
  | add (d a b : Reg)
  /-- SUB (R264). -/
  | sub (d a b : Reg)
  /-- AND (R264). -/
  | and (d a b : Reg)
  /-- OR (R264). -/
  | or (d a b : Reg)
  /-- XOR (R264). -/
  | xor (d a b : Reg)
  /-- SHL (R264). -/
  | shl (d a b : Reg)
  /-- SHR (R264). -/
  | shr (d a b : Reg)
  /-- SAR (R264). -/
  | sar (d a b : Reg)
  /-- CMPLT (R264). -/
  | cmplt (d a b : Reg)
  /-- CMPLTU (R264). -/
  | cmpltu (d a b : Reg)
  /-- MIN (R264). -/
  | min (d a b : Reg)
  /-- MAX (R264). -/
  | max (d a b : Reg)
  /-- MINU (R264). -/
  | minu (d a b : Reg)
  /-- MAXU (R264). -/
  | maxu (d a b : Reg)
  /-- MUL (R264). -/
  | mul (d a b : Reg)
  /-- MULHI (R264). -/
  | mulhi (d a b : Reg)
  /-- MULHIU (R264). -/
  | mulhiu (d a b : Reg)
  /-- DIV (R264). -/
  | div (d a b : Reg)
  /-- DIVU (R264). -/
  | divu (d a b : Reg)
  /-- REM (R264). -/
  | rem (d a b : Reg)
  /-- REMU (R264). -/
  | remu (d a b : Reg)
  /-- ADD_W (R265). -/
  | addW (d a b : Reg)
  /-- SUB_W (R265). -/
  | subW (d a b : Reg)
  /-- SHL_W (R265). -/
  | shlW (d a b : Reg)
  /-- SHR_W (R265). -/
  | shrW (d a b : Reg)
  /-- SAR_W (R265). -/
  | sarW (d a b : Reg)
  /-- MUL_W (R265). -/
  | mulW (d a b : Reg)
  /-- DIV_W (R265). -/
  | divW (d a b : Reg)
  /-- DIVU_W (R265). -/
  | divuW (d a b : Reg)
  /-- REM_W (R265). -/
  | remW (d a b : Reg)
  /-- REMU_W (R265). -/
  | remuW (d a b : Reg)
  /-- ADDK (R266). -/
  | addk (d a : Reg) (imm : BitVec 16)
  /-- ANDK (R266). -/
  | andk (d a : Reg) (imm : BitVec 16)
  /-- ORK (R266). -/
  | ork (d a : Reg) (imm : BitVec 16)
  /-- XORK (R266). -/
  | xork (d a : Reg) (imm : BitVec 16)
  /-- CMPLTK (R266). -/
  | cmpltk (d a : Reg) (imm : BitVec 16)
  /-- CMPLTUK (R266). -/
  | cmpltuk (d a : Reg) (imm : BitVec 16)
  /-- SHLK (R267). -/
  | shlk (d a : Reg) (sh : BitVec 6)
  /-- SHRK (R267). -/
  | shrk (d a : Reg) (sh : BitVec 6)
  /-- SARK (R267). -/
  | sark (d a : Reg) (sh : BitVec 6)
  /-- HIK (R267). -/
  | hik (d : Reg) (imm : BitVec 16)
  /-- BFX (R269). -/
  | bfx (d a : Reg) (wid off : BitVec 7)
  /-- BFXU (R269). -/
  | bfxu (d a : Reg) (wid off : BitVec 7)
  /-- BFI (R269). -/
  | bfi (d a : Reg) (wid off : BitVec 7)
  /-- LDB (R270). -/
  | ldb (d a : Reg) (cls : BitVec 4) (off : BitVec 12)
  /-- LDBU (R270). -/
  | ldbu (d a : Reg) (cls : BitVec 4) (off : BitVec 12)
  /-- LDH (R270). -/
  | ldh (d a : Reg) (cls : BitVec 4) (off : BitVec 12)
  /-- LDHU (R270). -/
  | ldhu (d a : Reg) (cls : BitVec 4) (off : BitVec 12)
  /-- LDW (R270). -/
  | ldw (d a : Reg) (cls : BitVec 4) (off : BitVec 12)
  /-- LDWU (R270). -/
  | ldwu (d a : Reg) (cls : BitVec 4) (off : BitVec 12)
  /-- LDD (R270). -/
  | ldd (d a : Reg) (cls : BitVec 4) (off : BitVec 12)
  /-- STB (R270). -/
  | stb (src a : Reg) (cls : BitVec 4) (off : BitVec 12)
  /-- STH (R270). -/
  | sth (src a : Reg) (cls : BitVec 4) (off : BitVec 12)
  /-- STW (R270). -/
  | stw (src a : Reg) (cls : BitVec 4) (off : BitVec 12)
  /-- STD (R270). -/
  | std (src a : Reg) (cls : BitVec 4) (off : BitVec 12)
  /-- SAVEM (R273). -/
  | savem (first a : Reg) (cls : BitVec 4) (last : Reg) (off : BitVec 7)
  /-- LOADM (R273). -/
  | loadm (first a : Reg) (cls : BitVec 4) (last : Reg) (off : BitVec 7)
  /-- AMOSWAP_W (R285). -/
  | amoswapW (d a b : Reg) (cls : BitVec 4)
  /-- AMOSWAP_D (R285). -/
  | amoswapD (d a b : Reg) (cls : BitVec 4)
  /-- AMOADD_W (R285). -/
  | amoaddW (d a b : Reg) (cls : BitVec 4)
  /-- AMOADD_D (R285). -/
  | amoaddD (d a b : Reg) (cls : BitVec 4)
  /-- AMOAND_W (R285). -/
  | amoandW (d a b : Reg) (cls : BitVec 4)
  /-- AMOAND_D (R285). -/
  | amoandD (d a b : Reg) (cls : BitVec 4)
  /-- AMOOR_W (R285). -/
  | amoorW (d a b : Reg) (cls : BitVec 4)
  /-- AMOOR_D (R285). -/
  | amoorD (d a b : Reg) (cls : BitVec 4)
  /-- AMOMAX_W (R285). -/
  | amomaxW (d a b : Reg) (cls : BitVec 4)
  /-- AMOMAX_D (R285). -/
  | amomaxD (d a b : Reg) (cls : BitVec 4)
  /-- AMOMIN_W (R285). -/
  | amominW (d a b : Reg) (cls : BitVec 4)
  /-- AMOMIN_D (R285). -/
  | amominD (d a b : Reg) (cls : BitVec 4)
  /-- AMOMAXU_W (R285). -/
  | amomaxuW (d a b : Reg) (cls : BitVec 4)
  /-- AMOMAXU_D (R285). -/
  | amomaxuD (d a b : Reg) (cls : BitVec 4)
  /-- AMOMINU_W (R285). -/
  | amominuW (d a b : Reg) (cls : BitVec 4)
  /-- AMOMINU_D (R285). -/
  | amominuD (d a b : Reg) (cls : BitVec 4)
  /-- AMOCAS_W (R285). -/
  | amocasW (d a b : Reg) (cls : BitVec 4)
  /-- AMOCAS_D (R285). -/
  | amocasD (d a b : Reg) (cls : BitVec 4)
  /-- AQADD (R287). -/
  | aqadd (a b : Reg) (cls : BitVec 4)
  /-- BEQ (R275). -/
  | beq (a b : Reg) (off : BitVec 16)
  /-- BNE (R275). -/
  | bne (a b : Reg) (off : BitVec 16)
  /-- BLT (R275). -/
  | blt (a b : Reg) (off : BitVec 16)
  /-- BGE (R275). -/
  | bge (a b : Reg) (off : BitVec 16)
  /-- BLTU (R275). -/
  | bltu (a b : Reg) (off : BitVec 16)
  /-- BGEU (R275). -/
  | bgeu (a b : Reg) (off : BitVec 16)
  /-- JAL (R276). -/
  | jal (d : Reg) (off : BitVec 21)
  /-- JALR (R277). -/
  | jalr (d a : Reg) (kind : BitVec 2) (off : BitVec 14)
  /-- LAND (R279). -/
  | land (t : Bool) (kind : BitVec 2) (tag : BitVec 16)
  /-- FENCE_X (R289). -/
  | fenceX (scope : BitVec 3) (mask : BitVec 9)
  /-- IINV (R290). -/
  | iinv (a b : Reg) (scope : BitVec 3)
  /-- ISYNC (R291). -/
  | isync
  /-- ARRIVE (R292). -/
  | arrive (bk : BitVec 2) (bn : BitVec 4) (mask : BitVec 9)
  /-- WAITB (R293). -/
  | waitb (bk : BitVec 2) (bn : BitVec 4)
  /-- FORK (R295). -/
  | fork (tmpl : BitVec 4)
  /-- JOIN (R296). -/
  | join (mask : BitVec 4)
  /-- SEMW (R297). -/
  | semw (a : Reg) (sem : BitVec 5)
  /-- SEMR (R297). -/
  | semr (d : Reg) (sem : BitVec 5)
  /-- RCWW (R298). -/
  | rcww (a : Reg) (ring : BitVec 4)
  /-- RCWR (R298). -/
  | rcwr (d : Reg) (ring : BitVec 4)
  /-- LAYW (R299). -/
  | layw (a : Reg) (win : BitVec 6)
  /-- LAYR (R299). -/
  | layr (d : Reg) (win : BitVec 6)
  /-- ACFG (R300). -/
  | acfg (a : Reg) (acc : BitVec 6)
  /-- EVWAIT (R301). -/
  | evwait (d a : Reg)
  /-- GLSET (R302). -/
  | glset (d a : Reg) (hdl : BitVec 3)
  /-- GLCLR (R303). -/
  | glclr (hdl : BitVec 3)
  /-- GLRET (R303). -/
  | glret (a : Reg) (hdl : BitVec 3)
  /-- TKPULL (R304). -/
  | tkpull (d a : Reg)
  /-- TKSTAT (R304). -/
  | tkstat (d a : Reg)
  /-- SIGNOTE (R305). -/
  | signote (a : Reg)
  /-- FADD (R281). -/
  | fadd (d a b : Reg)
  /-- FSUB (R281). -/
  | fsub (d a b : Reg)
  /-- FMUL (R281). -/
  | fmul (d a b : Reg)
  /-- FMIN (R281). -/
  | fmin (d a b : Reg)
  /-- FMAX (R281). -/
  | fmax (d a b : Reg)
  /-- FCMP_EQ (R281). -/
  | fcmpEq (d a b : Reg)
  /-- FCMP_LT (R281). -/
  | fcmpLt (d a b : Reg)
  /-- FCMP_LE (R281). -/
  | fcmpLe (d a b : Reg)
  /-- FCMP_NE (R281). -/
  | fcmpNe (d a b : Reg)
  /-- FCVT_IF (R282). -/
  | fcvtIf (d a : Reg)
  /-- FCVT_FI (R282). -/
  | fcvtFi (d a : Reg)
  /-- SYSR (R306). -/
  | sysr (d : Reg) (k : BitVec 12)
  /-- SYSW (R306). -/
  | sysw (a : Reg) (k : BitVec 12)
  /-- TRAP (R313). -/
  | trap (imm : BitVec 16)
  /-- ERET (R314). -/
  | eret
  /-- WFE (R301). -/
  | wfe
  /-- BRK (R315). -/
  | brk
  /-- LI (R268). -/
  | li (d : Reg) (imm : BitVec 32)
  /-- LIU (R268). -/
  | liu (d : Reg) (imm : BitVec 32)
  /-- LIHI (R268). -/
  | lihi (d : Reg) (imm : BitVec 32)
  /-- LAPC (R268). -/
  | lapc (d : Reg) (imm : BitVec 32)
  /-- FENCE_C (R288). -/
  | fenceC (p q : BitVec 16)
  /-- MU_ILLEGAL (R234). -/
  | muIllegal (w : Word)
  /-- ASYNC_TRAP_DELIVERY (R155). -/
  | asyncTrapDelivery (t : TileId)
  /-- STORE_BUFFER_DRAIN (R272). -/
  | storeBufferDrain (t : TileId) (cls : BitVec 4)
  /-- MUSHER_LOAD_RETURN (R171). -/
  | musherLoadReturn (t : TileId)
  /-- BARRIER_PHASE_COMPLETE (R188). -/
  | barrierPhaseComplete (bar : BarId)
  /-- SQ_NOP (R324). -/
  | sqNop (b : Block)
  /-- SQ_LOOP (R325). -/
  | sqLoop (b : Block)
  /-- SQ_END (R326). -/
  | sqEnd (b : Block)
  /-- SQ_PATCH (R249). -/
  | sqPatch (b : Block)
  /-- SQ_EVENT (R328). -/
  | sqEvent (b : Block)
  /-- LD_COPY (R332). -/
  | ldCopy (b : Block)
  /-- LD_GATHER (R333). -/
  | ldGather (b : Block)
  /-- LD_BCAST (R334). -/
  | ldBcast (b : Block)
  /-- LD_FILL (R335). -/
  | ldFill (b : Block)
  /-- LD_PREF (R336). -/
  | ldPref (b : Block)
  /-- ST_COPY (R332). -/
  | stCopy (b : Block)
  /-- ST_SCATTER (R333). -/
  | stScatter (b : Block)
  /-- ST_REDUCE (R337). -/
  | stReduce (b : Block)
  /-- MX_WLOAD (R345). -/
  | mxWload (b : Block)
  /-- MX_WLOADS (R346). -/
  | mxWloads (b : Block)
  /-- MX_MMA (R349). -/
  | mxMma (b : Block)
  /-- MX_AZERO (R353). -/
  | mxAzero (b : Block)
  /-- MX_AFILL (R354). -/
  | mxAfill (b : Block)
  /-- MX_AREAD (R355). -/
  | mxAread (b : Block)
  /-- MX_ADRAIN (R356). -/
  | mxAdrain (b : Block)
  /-- MX_GLSEND (R357). -/
  | mxGlsend (b : Block)
  /-- MX_AREBASE (R358). -/
  | mxArebase (b : Block)
  /-- VX_ADD (R368). -/
  | vxAdd (b : Block)
  /-- VX_SUB (R368). -/
  | vxSub (b : Block)
  /-- VX_MUL (R368). -/
  | vxMul (b : Block)
  /-- VX_FMA (R368). -/
  | vxFma (b : Block)
  /-- VX_MIN (R368). -/
  | vxMin (b : Block)
  /-- VX_MAX (R368). -/
  | vxMax (b : Block)
  /-- VX_ABS (R368). -/
  | vxAbs (b : Block)
  /-- VX_NEG (R368). -/
  | vxNeg (b : Block)
  /-- VX_CMP (R369). -/
  | vxCmp (b : Block)
  /-- VX_SEL (R370). -/
  | vxSel (b : Block)
  /-- VX_CLAMP (R368). -/
  | vxClamp (b : Block)
  /-- VX_SQRT (R368). -/
  | vxSqrt (b : Block)
  /-- VX_RCPA (R215). -/
  | vxRcpa (b : Block)
  /-- VX_RSQA (R215). -/
  | vxRsqa (b : Block)
  /-- VX_EXP2A (R215). -/
  | vxExp2a (b : Block)
  /-- VX_LOG2A (R215). -/
  | vxLog2a (b : Block)
  /-- VX_IADD (R371). -/
  | vxIadd (b : Block)
  /-- VX_ISUB (R371). -/
  | vxIsub (b : Block)
  /-- VX_IMUL (R371). -/
  | vxImul (b : Block)
  /-- VX_IAND (R371). -/
  | vxIand (b : Block)
  /-- VX_IOR (R371). -/
  | vxIor (b : Block)
  /-- VX_IXOR (R371). -/
  | vxIxor (b : Block)
  /-- VX_ISHL (R371). -/
  | vxIshl (b : Block)
  /-- VX_ISHR (R371). -/
  | vxIshr (b : Block)
  /-- VX_ISAR (R371). -/
  | vxIsar (b : Block)
  /-- VX_IMIN (R371). -/
  | vxImin (b : Block)
  /-- VX_IMAX (R371). -/
  | vxImax (b : Block)
  /-- VX_IOTA (R372). -/
  | vxIota (b : Block)
  /-- VX_CVT (R373). -/
  | vxCvt (b : Block)
  /-- VX_PACK (R374). -/
  | vxPack (b : Block)
  /-- VX_UNPACK (R375). -/
  | vxUnpack (b : Block)
  /-- VX_SCALEFIND (R376). -/
  | vxScalefind (b : Block)
  /-- VX_EXPMAX (R377). -/
  | vxExpmax (b : Block)
  /-- VX_RSUM (R378). -/
  | vxRsum (b : Block)
  /-- VX_RMAX (R378). -/
  | vxRmax (b : Block)
  /-- VX_RMIN (R378). -/
  | vxRmin (b : Block)
  /-- VX_MOVE (R379). -/
  | vxMove (b : Block)
  /-- VX_PERM (R379). -/
  | vxPerm (b : Block)
  /-- VX_ZERO (R379). -/
  | vxZero (b : Block)
  /-- BLOCK_LATCH (R246). -/
  | blockLatch (t : TileId) (e : Eng)
  /-- SEMAPHORE_WAIT_GRANT (R146). -/
  | semaphoreWaitGrant (t : TileId) (e : Eng)
  /-- ITERATION_SIGNAL (R145). -/
  | iterationSignal (t : TileId) (e : Eng)
  /-- ST_WRITE_RESPONSE (R330). -/
  | stWriteResponse (t : TileId)
  /-- NOP (R77). -/
  | nop (h : PktHdr)
  /-- LAUNCH (R78). -/
  | launch (h : PktHdr) (p : LaunchBody)
  /-- COPY (R79). -/
  | copy (h : PktHdr) (p : CopyBody)
  /-- WAITSIG (R80). -/
  | waitsig (h : PktHdr) (p : WaitBody)
  /-- SIGNAL (R81). -/
  | signal (h : PktHdr) (p : SignalBody)
  /-- COND (R82). -/
  | cond (h : PktHdr) (p : CondBody)
  /-- GRAPH (R83). -/
  | graph (h : PktHdr) (gobj param : BitVec 56)
  /-- IINV_PACKET (R84). -/
  | iinvPacket (h : PktHdr) (start : BitVec 56) (len : BitVec 40) (die : DieId) (scope : BitVec 3)
  /-- TIMESTAMP (R85). -/
  | timestamp (h : PktHdr) (dst : BitVec 56)
  /-- DRAIN (R85). -/
  | drain (h : PktHdr) (all : Bool)
  /-- PACKET_FETCH (R70). -/
  | packetFetch (q : QueueId)
  /-- GRAPH_NODE_DISPATCH (R86). -/
  | graphNodeDispatch (inst : BitVec 8)
  /-- PACKET_COMPLETE (R73). -/
  | packetComplete (w : Nat)
  /-- WAITSIG_EVALUATION (R74). -/
  | waitsigEvaluation (w : Nat)
  /-- LAUNCH_CONFIRMED (R124). -/
  | launchConfirmed (lid : Word)
  /-- COPY_ROW_COMPLETE (R340). -/
  | copyRowComplete (die : DieId) (eng : BitVec 2)
  /-- IINV_ACKNOWLEDGE (R84). -/
  | iinvAcknowledge (w : Nat) (die : DieId)
  /-- CREATE (R67). -/
  | create (f : FuncId) (q : QueueId)
  /-- DESTROY (R76). -/
  | destroy (f : FuncId) (q : QueueId)
  /-- RESET (R67). -/
  | reset (f : FuncId) (q : QueueId)
  /-- QUEUE_RETIRED (R67). -/
  | queueRetired (q : QueueId)
  /-- WIDX_WRITE (R49). -/
  | widxWrite (f : FuncId) (place : NotifyAt) (bytes : BitVec 4) (v : Dword)
  /-- ARBITRATION_CLOCK_GATE (R50). -/
  | arbitrationClockGate
  /-- ARBITRATION_POWER_GATE (R50). -/
  | arbitrationPowerGate
  /-- ARBITRATION_WAKE (R50). -/
  | arbitrationWake
  /-- REGISTER_WRITE (R5). -/
  | registerWrite (f : FuncId) (off : BitVec 25) (v : Dword)
  /-- M_BASE_WRITE (R56). -/
  | mBaseWrite (f vf : FuncId) (v : Dword)
  /-- POWER_CAP_WRITE (R20). -/
  | powerCapWrite (f : FuncId) (v : BitVec 16)
  /-- FQTAIL_WRITE (R175). -/
  | fqtailWrite (f : FuncId) (p : PartId) (v : Dword)
  /-- FQRES_RETRY (R175). -/
  | fqresRetry (f : FuncId) (p : PartId) (seq : Word)
  /-- FQRES_ABORT (R175). -/
  | fqresAbort (f : FuncId) (p : PartId) (seq : Word)
  /-- INVCTL_GO (R173). -/
  | invctlGo (f : FuncId) (p : PartId)
  /-- INVALIDATION_DONE (R173). -/
  | invalidationDone (p : PartId)
  /-- FAULT_RECORD_POST (R175). -/
  | faultRecordPost (p : PartId)
  /-- DRSEL_WRITE (R129). -/
  | drselWrite (f : FuncId) (v : Dword)
  /-- DROP_RECORD_READY (R129). -/
  | dropRecordReady
  /-- BIND (R47). -/
  | bind (rq0 : Dword)
  /-- UNBIND (R47). -/
  | unbind (rq0 : Dword)
  /-- PTROOT (R167). -/
  | ptroot (rq0 rq1 : Dword)
  /-- CLUSTER (R92). -/
  | cluster (rq0 rq1 rq2 : Dword)
  /-- LGROUP (R99). -/
  | lgroup (rq0 rq1 rq2 : Dword)
  /-- IMGAREA (R109). -/
  | imgarea (rq0 rq1 rq2 : Dword)
  /-- EXPORT (R110). -/
  | exportPart (rq0 : Dword)
  /-- IMPORT (R110). -/
  | importPart (rq0 rq1 : Dword)
  /-- ROTATION (R113). -/
  | rotation (rq0 rq1 : Dword)
  /-- LEASE (R113). -/
  | lease (rq0 : Dword)
  /-- ROUTE (R36). -/
  | route (rq0 rq1 : Dword)
  /-- CLASS (R51). -/
  | classMap (rq0 rq1 : Dword)
  /-- DIECOUNT (R158). -/
  | diecount (rq0 rq1 : Dword)
  /-- STAGE (R63). -/
  | stage (rq0 rq1 : Dword)
  /-- UPDATE (R63). -/
  | update
  /-- EXTEND (R64). -/
  | extend (rq0 rq1 : Dword)
  /-- GRANT (R55). -/
  | grant (rq0 rq1 : Dword)
  /-- ACCESS_TABLE_READ (R55). -/
  | accessTableRead (rq0 : Dword)
  /-- MAILBOX_COMPLETION (R53). -/
  | mailboxCompletion (m : Mbox)
  /-- QUIESCENT_BOUNDARY (R63). -/
  | quiescentBoundary
  /-- STANDBY_TAKEOVER (R63). -/
  | standbyTakeover
  /-- HOST_MEMORY_READ (R44). -/
  | hostMemoryRead (f : FuncId) (place : HostAt) (bytes : BitVec 13)
  /-- HOST_MEMORY_WRITE (R44). -/
  | hostMemoryWrite (f : FuncId) (off : Dword) (data : List Byte)
  /-- PCIE_CONFIG_REQUEST (R42, R43): a read of a register, or a write. -/
  | pcieConfigRequest (x : CfgRequest)
  /-- PERST_DEASSERT (R43). -/
  | perstDeassert (gen : BitVec 3) (lanes : BitVec 5)
  /-- FUNCTION_LEVEL_RESET (R48). -/
  | functionLevelReset (f : FuncId)
  /-- FLR_TIMEOUT (R48). -/
  | flrTimeout (f : FuncId)
  /-- POWER_ON_BOOT (R60). -/
  | powerOnBoot
  /-- BOOT_COMPLETE (R60). -/
  | bootComplete
  /-- HERDER_STOP (R61). -/
  | herderStop
  /-- THERMAL_TRIP (R21). -/
  | thermalTrip (die : DieId) (temp : Byte)
  /-- REGULATOR_OVERCURRENT (R19). -/
  | regulatorOvercurrent
  /-- JUNCTION_TEMP_ALERT (R19). -/
  | junctionTempAlert (temp : Byte)
  /-- THROTTLE_WINDOW_END (R19). -/
  | throttleWindowEnd (pavg proj : BitVec 16) (temp : Byte)
  /-- SENSOR_READ (R59). -/
  | sensorRead
  /-- MGMT_POWER_CAP_SET (R20). -/
  | mgmtPowerCapSet (v : BitVec 16)
  /-- WARM_RESET (R59). -/
  | warmReset
  /-- COLD_RESET (R59). -/
  | coldReset
  /-- RECOVERY_IMAGE (R62). -/
  | recoveryImage (bank : Option Bool) (img : FwImage)
  /-- FIRMWARE_STAGING (R59). -/
  | firmwareStaging (img : FwImage)
  /-- LEASE_TABLE_READOUT (R59). -/
  | leaseTableReadout (die : DieId)
  /-- KNOWN_BAD_TABLE_WRITE (R16). -/
  | knownBadTableWrite (rank : RankId) (idx : BitVec 4) (v : BitVec 16)
  /-- ROUTING_TABLE_REQUEST (R36). -/
  | routingTableRequest (pkg : BitVec 12) (v : Word)
  /-- MAINTENANCE_WINDOW (R17). -/
  | maintenanceWindow (rank : RankId) (verified : Bool)
  /-- UNIT_RETURN_REQUEST (R123). -/
  | unitReturnRequest (u : UnitId)
  /-- GET_IDENTITY (R65). -/
  | getIdentity (seg : BitVec 16)
  /-- GET_MEASUREMENTS (R65). -/
  | getMeasurements (nonce : BitVec 256) (mask : BitVec 16)
  /-- GET_DROP_RECORD (R65). -/
  | getDropRecord (idx : BitVec 10)
  /-- DATA_FLIT_RECEIVE (R29). -/
  | dataFlitReceive (l : LinkEnd) (f : Flit)
  /-- IDLE_FLIT_RECEIVE (R29). -/
  | idleFlitReceive (l : LinkEnd) (f : Flit)
  /-- FLIT_TRANSMIT (R31). -/
  | flitTransmit (l : LinkEnd)
  /-- ACK_IDLE_TIMER (R28). -/
  | ackIdleTimer (l : LinkEnd)
  /-- REPLAY_TIMER_EXPIRY (R30). -/
  | replayTimerExpiry (l : LinkEnd)
  /-- RETIRE_SEND_TIMER (R410). -/
  | retireSendTimer (l : LinkEnd)
  /-- LANE_LOSS_OF_LOCK (R33). -/
  | laneLossOfLock (l : LinkEnd)
  /-- RETRAIN_COMPLETE (R33). -/
  | retrainComplete (l : LinkEnd) (x64 : Bool)
  /-- RETRAIN_TIMEOUT (R33). -/
  | retrainTimeout (l : LinkEnd)
  /-- LINK_STATE_REPORT (R34). -/
  | linkStateReport (m : Msg)
  /-- FABRIC_PORT_DOWN (R39). -/
  | fabricPortDown (p : BitVec 6)
  /-- FABRIC_PORT_RETURN (R39). -/
  | fabricPortReturn (p : BitVec 6)
  /-- MESSAGE_FORWARD (R37). -/
  | messageForward (die : DieId) (m : Msg)
  /-- READ_REQUEST (R27). -/
  | readRequest (m : Msg)
  /-- WRITE_REQUEST (R27). -/
  | writeRequest (m : Msg)
  /-- AMO_REQUEST (R409). -/
  | amoRequest (m : Msg)
  /-- AQADD_REQUEST (R27). -/
  | aqaddRequest (m : Msg)
  /-- REDUCE_ELEMENT_REQUEST (R337). -/
  | reduceElementRequest (m : Msg)
  /-- GANGLINE_CONTRIBUTION (R226). -/
  | ganglineContribution (m : Msg)
  /-- REPLICATED_PAGE_UPDATE (R41). -/
  | replicatedPageUpdate (m : Msg)
  /-- SEQUENCED_UPDATE (R41). -/
  | sequencedUpdate (m : Msg)
  /-- REPLICA_APPLIED (R41). -/
  | replicaApplied (m : Msg)
  /-- RESPONSE (R32). -/
  | response (m : Msg)
  /-- TAG_RETIRE (R32). -/
  | tagRetire (m : Msg)
  /-- RETIRE_ACKNOWLEDGED (R32). -/
  | retireAcknowledged (m : Msg)
  /-- RESERVATION_COMPLETION (R228). -/
  | reservationCompletion (t : TileId) (hdl : BitVec 3)
  /-- STEAL_REQUEST (R98). -/
  | stealRequest (lgid : BitVec 16) (pkg : BitVec 12)
  /-- TKPULL_ROUND (R97). -/
  | tkpullRound (c : ClusterId) (slot : Nat)
  /-- REMOTE_TEAM_RETIRED (R99). -/
  | remoteTeamRetired (lid : Word) (team : Word) (confirmed : Bool) (faulted : Option Word)
  /-- SLICE_EXPIRY (R93). -/
  | sliceExpiry (c : ClusterId)
  /-- PREEMPT (R101). -/
  | preempt (tgt : PreTarget)
  /-- UNIT_HALTED (R102). -/
  | unitHalted (t : TileId) (u : Option Eng)
  /-- CONTEXT_EXCHANGE (R105). -/
  | contextExchange (tgt : PreTarget)
  /-- EXCHANGE_END (R105). -/
  | exchangeEnd (tgt : PreTarget)
  /-- KENNEL_WRITE_APPLY (R106). -/
  | kennelWriteApply (t : TileId)
  /-- SPILL (R109). -/
  | spill (t : TileId)
  /-- SPILL_RETURN (R109). -/
  | spillReturn (p : PartId) (n : Nat) (t : TileId)
  /-- SLOT_TO_SLOT_COPY (R111). -/
  | slotToSlotCopy (src dst : TileId)
  /-- ROTATION_DUE (R113). -/
  | rotationDue (u : UnitId)
  /-- LEASE_DRAIN_START (R115). -/
  | leaseDrainStart (die : DieId) (n : Byte)
  /-- TILE_DRAIN_GRACE_EXPIRY (R117). -/
  | tileDrainGraceExpiry (die : DieId) (n : Byte)
  /-- LEASE_TESTING_START (R115). -/
  | leaseTestingStart (die : DieId) (n : Byte)
  /-- PATTERN_RUN_COMPLETE (R115). -/
  | patternRunComplete (die : DieId) (n : Byte) (out : RunOutcome) (last : Bool)
  /-- HBM_TEST_SLICE_START (R120). -/
  | hbmTestSliceStart (die : DieId) (n : Byte)
  /-- HBM_TEST_SLICE_END (R120). -/
  | hbmTestSliceEnd (die : DieId) (n : Byte)
  /-- DROP_RECORD_COMMIT (R129). -/
  | dropRecordCommit
  /-- ROTATION_PERIOD_END (R122). -/
  | rotationPeriodEnd (kind : UnitKind)
  /-- SRAM_SCRUB_READ (R136). -/
  | sramScrubRead (w : SramWord)
  /-- HBM_SCRUB_READ (R136). -/
  | hbmScrubRead (die : DieId) (ch : BitVec 7)
  /-- SCRUB_WRITEBACK (R137). -/
  | scrubWriteback
  /-- UNKNOWN_REQUEST_CODE (R54). -/
  | unknownRequestCode (m : Mbox) (code : Byte)
  /-- UNKNOWN_ATTESTATION_CODE (R65). -/
  | unknownAttestationCode (code : Byte) (len : BitVec 16)
  /-- STORE_STATUS_RETURN (R171). -/
  | storeStatusReturn (t : TileId)
  /-- LAUNCH_GROUP_EXCHANGE (R99). -/
  | launchGroupExchange (lgid : BitVec 16) (pkg : BitVec 12) (kobj : BitVec 56) (first count : Word) (team : BitVec 4)
deriving DecidableEq, Repr

end Sys2Proof
end

