-- ==== Sys2Proof/Decode.lean ====
section
/-! DEFINITION. Decoding and encoding: Musher words (12_isa_formats_and_assembly.md R232-R235), loop-block records
(R237-R245, R253), packets (04_queues_and_packets.md R71, R77-R85), messages and flits (02_links.md R25, R26). Decoding
is total: a word that is no instruction is `muIllegal` (R234), every other illegal record is refused by name. -/
namespace Sys2Proof

/-! ### Musher words -/

def wMajor (w : Word) : BitVec 6 := w.extractLsb' 26 6
def wD (w : Word) : Reg := w.extractLsb' 21 5
def wA (w : Word) : Reg := w.extractLsb' 16 5
def wB (w : Word) : Reg := w.extractLsb' 11 5
def wFn (w : Word) : BitVec 11 := w.extractLsb' 0 11
def wImm (w : Word) : BitVec 16 := w.extractLsb' 0 16

/-- A word of format F3 (R232). -/
def f3 (mj : BitVec 6) (d a b : Reg) (fn : BitVec 11) : Word := mj ++ d ++ a ++ b ++ fn
/-- A word of format FI, FM or FB (R232). -/
def fi (mj : BitVec 6) (d a : Reg) (imm : BitVec 16) : Word := mj ++ d ++ a ++ imm

/-- The 64-bit ALU of major 0x01 (R235). -/
def decAlu (fn : BitVec 11) (d a b : Reg) : Option Instr :=
  match fn.toNat with
  | 0x000 => some (.add d a b)
  | 0x001 => some (.sub d a b)
  | 0x002 => some (.and d a b)
  | 0x003 => some (.or d a b)
  | 0x004 => some (.xor d a b)
  | 0x005 => some (.shl d a b)
  | 0x006 => some (.shr d a b)
  | 0x007 => some (.sar d a b)
  | 0x008 => some (.cmplt d a b)
  | 0x009 => some (.cmpltu d a b)
  | 0x00A => some (.min d a b)
  | 0x00B => some (.max d a b)
  | 0x00C => some (.minu d a b)
  | 0x00D => some (.maxu d a b)
  | 0x010 => some (.mul d a b)
  | 0x011 => some (.mulhi d a b)
  | 0x012 => some (.mulhiu d a b)
  | 0x014 => some (.div d a b)
  | 0x015 => some (.divu d a b)
  | 0x016 => some (.rem d a b)
  | 0x017 => some (.remu d a b)
  | _ => none

/-- The word ALU of major 0x02 (R235). -/
def decAluW (fn : BitVec 11) (d a b : Reg) : Option Instr :=
  match fn.toNat with
  | 0x000 => some (.addW d a b)
  | 0x001 => some (.subW d a b)
  | 0x005 => some (.shlW d a b)
  | 0x006 => some (.shrW d a b)
  | 0x007 => some (.sarW d a b)
  | 0x010 => some (.mulW d a b)
  | 0x014 => some (.divW d a b)
  | 0x015 => some (.divuW d a b)
  | 0x016 => some (.remW d a b)
  | 0x017 => some (.remuW d a b)
  | _ => none

/-- The atomics of major 0x1E (R235): CLS [10:7], OP [6:3], SZ [2], zero [1:0]. -/
def decAmo (fn : BitVec 11) (d a b : Reg) : Option Instr :=
  let cls := fn.extractLsb' 7 4
  if fn.extractLsb' 0 2 ≠ 0 then none
  else
    match (fn.extractLsb' 3 4).toNat, fn.getLsbD 2 with
    | 0, false => some (.amoswapW d a b cls)
    | 0, true => some (.amoswapD d a b cls)
    | 1, false => some (.amoaddW d a b cls)
    | 1, true => some (.amoaddD d a b cls)
    | 2, false => some (.amoandW d a b cls)
    | 2, true => some (.amoandD d a b cls)
    | 3, false => some (.amoorW d a b cls)
    | 3, true => some (.amoorD d a b cls)
    | 4, false => some (.amomaxW d a b cls)
    | 4, true => some (.amomaxD d a b cls)
    | 5, false => some (.amominW d a b cls)
    | 5, true => some (.amominD d a b cls)
    | 6, false => some (.amomaxuW d a b cls)
    | 6, true => some (.amomaxuD d a b cls)
    | 7, false => some (.amominuW d a b cls)
    | 7, true => some (.amominuD d a b cls)
    | 8, false => some (.amocasW d a b cls)
    | 8, true => some (.amocasD d a b cls)
    | 9, true => if d = 0 ∧ b.getLsbD 0 = false then some (.aqadd a b cls) else none
    | _, _ => none

/-- Major 0x2A (R235): OP [10:8], zero [7:3], scope [2:0]. -/
def decSync (fn : BitVec 11) (d a b : Reg) : Option Instr :=
  let scope := fn.extractLsb' 0 3
  if d ≠ 0 ∨ fn.extractLsb' 3 5 ≠ 0 then none
  else if fn.extractLsb' 8 3 = 0 then
    (if 2 ≤ scope.toNat ∧ scope.toNat ≤ 5 then some (.iinv a b scope) else none)
  else if fn.extractLsb' 8 3 = 1 then (if scope = 0 ∧ a = 0 ∧ b = 0 then some .isync else none)
  else none

/-- Tile control, major 0x2D (R235): OP [10:6], IDX [5:0]. -/
def decTile (fn : BitVec 11) (d a b : Reg) : Option Instr :=
  let i := fn.extractLsb' 0 6
  let i4 := fn.extractLsb' 0 4
  let i5 := fn.extractLsb' 0 5
  if b ≠ 0 then none
  else
    match (fn.extractLsb' 6 5).toNat with
    | 0 => if d = 0 ∧ a = 0 ∧ i.toNat < 16 then some (.fork i4) else none
    | 1 => if d = 0 ∧ a = 0 ∧ i.toNat < 16 then some (.join i4) else none
    | 2 => if d = 0 ∧ i.toNat < 32 then some (.semw a i5) else none
    | 3 => if a = 0 ∧ i.toNat < 32 then some (.semr d i5) else none
    | 4 => if d = 0 ∧ i.toNat < 16 ∧ a.toNat % 2 = 0 then some (.rcww a i4) else none
    | 5 => if a = 0 ∧ i.toNat < 16 ∧ d.toNat % 2 = 0 ∧ d ≠ 0 then some (.rcwr d i4) else none
    | 6 => if d = 0 ∧ a.toNat % 4 = 0 then some (.layw a i) else none
    | 7 => if a = 0 ∧ d.toNat % 4 = 0 ∧ d ≠ 0 then some (.layr d i) else none
    | 8 => if d = 0 then some (.acfg a i) else none
    | 9 => if i = 0 then some (.evwait d a) else none
    | _ => none

/-- Gangline, tickets, SIGNOTE, major 0x2E (R235). -/
def decGang (fn : BitVec 11) (d a b : Reg) : Option Instr :=
  let i := fn.extractLsb' 0 6
  let h := fn.extractLsb' 0 3
  if b ≠ 0 then none
  else
    match (fn.extractLsb' 6 5).toNat with
    | 0 => if i.toNat < 8 then some (.glset d a h) else none
    | 1 => if d = 0 ∧ a = 0 ∧ i.toNat < 8 then some (.glclr h) else none
    | 2 => if d = 0 ∧ i.toNat < 8 then some (.glret a h) else none
    | 3 => if i = 0 then some (.tkpull d a) else none
    | 4 => if i = 0 then some (.tkstat d a) else none
    | 5 => if d = 0 ∧ i = 0 then some (.signote a) else none
    | _ => none

/-- Scalar FP32, major 0x2F (R235). -/
def decFp (fn : BitVec 11) (d a b : Reg) : Option Instr :=
  match fn.toNat with
  | 0x000 => some (.fadd d a b)
  | 0x001 => some (.fsub d a b)
  | 0x002 => some (.fmul d a b)
  | 0x003 => some (.fmin d a b)
  | 0x004 => some (.fmax d a b)
  | 0x008 => some (.fcmpEq d a b)
  | 0x009 => some (.fcmpLt d a b)
  | 0x00A => some (.fcmpLe d a b)
  | 0x00B => some (.fcmpNe d a b)
  | 0x010 => if b = 0 then some (.fcvtIf d a) else none
  | 0x011 => if b = 0 then some (.fcvtFi d a) else none
  | _ => none

/-- Format FL, major 0x3E (R235): sub in [20:16], zero [15:0], imm32 in the second word. -/
def decFl (sub : Reg) (d : Reg) (imm : BitVec 16) (w2 : Word) : Option Instr :=
  if imm ≠ 0 then none
  else
    match sub.toNat with
    | 0 => some (.li d w2)
    | 1 => some (.liu d w2)
    | 2 => some (.lihi d w2)
    | 3 => some (.lapc d w2)
    | 4 => if d = 0 then some (.fenceC (w2.extractLsb' 16 16) (w2.extractLsb' 0 16)) else none
    | _ => none

/-- The opcode map (R235); `none` is MU.ILLEGAL (R234). -/
def decMap (w w2 : Word) : Option Instr :=
  let d := wD w
  let a := wA w
  let b := wB w
  let fn := wFn w
  let imm := wImm w
  let cls := w.extractLsb' 12 4
  let off12 := w.extractLsb' 0 12
  match (wMajor w).toNat with
  | 0x01 => decAlu fn d a b
  | 0x02 => decAluW fn d a b
  | 0x03 => some (.addk d a imm)
  | 0x04 => some (.andk d a imm)
  | 0x05 => some (.ork d a imm)
  | 0x06 => some (.xork d a imm)
  | 0x07 => some (.cmpltk d a imm)
  | 0x08 => some (.cmpltuk d a imm)
  | 0x09 => if w.extractLsb' 6 10 = 0 then some (.shlk d a (w.extractLsb' 0 6)) else none
  | 0x0A => if w.extractLsb' 6 10 = 0 then some (.shrk d a (w.extractLsb' 0 6)) else none
  | 0x0B => if w.extractLsb' 6 10 = 0 then some (.sark d a (w.extractLsb' 0 6)) else none
  | 0x0C => if a = 0 then some (.hik d imm) else none
  | 0x0D => if w.extractLsb' 14 2 = 0 then some (.bfx d a (w.extractLsb' 7 7) (w.extractLsb' 0 7)) else none
  | 0x0E => if w.extractLsb' 14 2 = 0 then some (.bfxu d a (w.extractLsb' 7 7) (w.extractLsb' 0 7)) else none
  | 0x0F => if w.extractLsb' 14 2 = 0 then some (.bfi d a (w.extractLsb' 7 7) (w.extractLsb' 0 7)) else none
  | 0x10 => some (.ldb d a cls off12)
  | 0x11 => some (.ldbu d a cls off12)
  | 0x12 => some (.ldh d a cls off12)
  | 0x13 => some (.ldhu d a cls off12)
  | 0x14 => some (.ldw d a cls off12)
  | 0x15 => some (.ldwu d a cls off12)
  | 0x16 => some (.ldd d a cls off12)
  | 0x18 => some (.stb d a cls off12)
  | 0x19 => some (.sth d a cls off12)
  | 0x1A => some (.stw d a cls off12)
  | 0x1B => some (.std d a cls off12)
  | 0x1C => some (.savem d a cls (w.extractLsb' 7 5) (w.extractLsb' 0 7))
  | 0x1D => some (.loadm d a cls (w.extractLsb' 7 5) (w.extractLsb' 0 7))
  | 0x1E => decAmo fn d a b
  | 0x20 => some (.beq d a imm)
  | 0x21 => some (.bne d a imm)
  | 0x22 => some (.blt d a imm)
  | 0x23 => some (.bge d a imm)
  | 0x24 => some (.bltu d a imm)
  | 0x25 => some (.bgeu d a imm)
  | 0x26 => some (.jal d (w.extractLsb' 0 21))
  | 0x27 => some (.jalr d a (w.extractLsb' 14 2) (w.extractLsb' 0 14))
  | 0x28 =>
    if w.extractLsb' 19 7 = 0 ∧ w.extractLsb' 16 2 ≠ 3 then
      some (.land (w.getLsbD 18) (w.extractLsb' 16 2) imm)
    else none
  | 0x29 =>
    let sc := w.extractLsb' 13 3
    if d = 0 ∧ a = 0 ∧ w.extractLsb' 9 4 = 0 ∧ 1 ≤ sc.toNat ∧ sc.toNat ≤ 5 then
      some (.fenceX sc (w.extractLsb' 0 9))
    else none
  | 0x2A => decSync fn d a b
  | 0x2B =>
    let bk := w.extractLsb' 14 2
    let bn := w.extractLsb' 10 4
    if d = 0 ∧ a = 0 ∧ bk ≠ 3 ∧ (bk = 2 → bn.toNat ≤ 7) ∧ w.extractLsb' 9 1 = 0 then
      some (.arrive bk bn (w.extractLsb' 0 9))
    else none
  | 0x2C =>
    let bk := w.extractLsb' 14 2
    let bn := w.extractLsb' 10 4
    if d = 0 ∧ a = 0 ∧ bk ≠ 3 ∧ (bk = 2 → bn.toNat ≤ 7) ∧ w.extractLsb' 0 10 = 0 then some (.waitb bk bn) else none
  | 0x2D => decTile fn d a b
  | 0x2E => decGang fn d a b
  | 0x2F => decFp fn d a b
  | 0x30 => if a = 0 ∧ w.extractLsb' 12 4 = 0 then some (.sysr d off12) else none
  | 0x31 => if d = 0 ∧ w.extractLsb' 12 4 = 0 then some (.sysw a off12) else none
  | 0x32 => if d = 0 ∧ a = 0 then some (.trap imm) else none
  | 0x33 =>
    if d = 0 ∧ a = 0 ∧ b = 0 then
      (if fn = 0 then some .eret else if fn = 1 then some .wfe else if fn = 2 then some .brk else none)
    else none
  | 0x3E => decFl a d imm w2
  | _ => none

/-- Every word is an instruction of the map or MU.ILLEGAL (R234). `w2` is the word that follows it. -/
def decodeWord (w w2 : Word) : Instr := (decMap w w2).getD (.muIllegal w)

/-- Does a first word take a second one (R232, R233). -/
def isTwoWord (w : Word) : Bool := wMajor w = 0x3E && wImm w = 0 && (wA w).toNat < 5 && (wA w ≠ 4 || wD w = 0)

/-- The words of a Musher instruction, from the tables of R232 and R235; `none` for a row that is no Musher word. -/
def encodeMusher : Instr → Option (Word × Option Word)
  | .add d a b => some (f3 0x01 d a b 0x000, none)
  | .sub d a b => some (f3 0x01 d a b 0x001, none)
  | .and d a b => some (f3 0x01 d a b 0x002, none)
  | .or d a b => some (f3 0x01 d a b 0x003, none)
  | .xor d a b => some (f3 0x01 d a b 0x004, none)
  | .shl d a b => some (f3 0x01 d a b 0x005, none)
  | .shr d a b => some (f3 0x01 d a b 0x006, none)
  | .sar d a b => some (f3 0x01 d a b 0x007, none)
  | .cmplt d a b => some (f3 0x01 d a b 0x008, none)
  | .cmpltu d a b => some (f3 0x01 d a b 0x009, none)
  | .min d a b => some (f3 0x01 d a b 0x00A, none)
  | .max d a b => some (f3 0x01 d a b 0x00B, none)
  | .minu d a b => some (f3 0x01 d a b 0x00C, none)
  | .maxu d a b => some (f3 0x01 d a b 0x00D, none)
  | .mul d a b => some (f3 0x01 d a b 0x010, none)
  | .mulhi d a b => some (f3 0x01 d a b 0x011, none)
  | .mulhiu d a b => some (f3 0x01 d a b 0x012, none)
  | .div d a b => some (f3 0x01 d a b 0x014, none)
  | .divu d a b => some (f3 0x01 d a b 0x015, none)
  | .rem d a b => some (f3 0x01 d a b 0x016, none)
  | .remu d a b => some (f3 0x01 d a b 0x017, none)
  | .addW d a b => some (f3 0x02 d a b 0x000, none)
  | .subW d a b => some (f3 0x02 d a b 0x001, none)
  | .shlW d a b => some (f3 0x02 d a b 0x005, none)
  | .shrW d a b => some (f3 0x02 d a b 0x006, none)
  | .sarW d a b => some (f3 0x02 d a b 0x007, none)
  | .mulW d a b => some (f3 0x02 d a b 0x010, none)
  | .divW d a b => some (f3 0x02 d a b 0x014, none)
  | .divuW d a b => some (f3 0x02 d a b 0x015, none)
  | .remW d a b => some (f3 0x02 d a b 0x016, none)
  | .remuW d a b => some (f3 0x02 d a b 0x017, none)
  | .addk d a imm => some (fi 0x03 d a imm, none)
  | .andk d a imm => some (fi 0x04 d a imm, none)
  | .ork d a imm => some (fi 0x05 d a imm, none)
  | .xork d a imm => some (fi 0x06 d a imm, none)
  | .cmpltk d a imm => some (fi 0x07 d a imm, none)
  | .cmpltuk d a imm => some (fi 0x08 d a imm, none)
  | .shlk d a sh => some (fi 0x09 d a ((0 : BitVec 10) ++ sh), none)
  | .shrk d a sh => some (fi 0x0A d a ((0 : BitVec 10) ++ sh), none)
  | .sark d a sh => some (fi 0x0B d a ((0 : BitVec 10) ++ sh), none)
  | .hik d imm => some (fi 0x0C d 0 imm, none)
  | .bfx d a wid off => some (fi 0x0D d a ((0 : BitVec 2) ++ wid ++ off), none)
  | .bfxu d a wid off => some (fi 0x0E d a ((0 : BitVec 2) ++ wid ++ off), none)
  | .bfi d a wid off => some (fi 0x0F d a ((0 : BitVec 2) ++ wid ++ off), none)
  | .ldb d a cls off => some (fi 0x10 d a (cls ++ off), none)
  | .ldbu d a cls off => some (fi 0x11 d a (cls ++ off), none)
  | .ldh d a cls off => some (fi 0x12 d a (cls ++ off), none)
  | .ldhu d a cls off => some (fi 0x13 d a (cls ++ off), none)
  | .ldw d a cls off => some (fi 0x14 d a (cls ++ off), none)
  | .ldwu d a cls off => some (fi 0x15 d a (cls ++ off), none)
  | .ldd d a cls off => some (fi 0x16 d a (cls ++ off), none)
  | .stb r a cls off => some (fi 0x18 r a (cls ++ off), none)
  | .sth r a cls off => some (fi 0x19 r a (cls ++ off), none)
  | .stw r a cls off => some (fi 0x1A r a (cls ++ off), none)
  | .std r a cls off => some (fi 0x1B r a (cls ++ off), none)
  | .savem f a cls l off => some (fi 0x1C f a (cls ++ l ++ off), none)
  | .loadm f a cls l off => some (fi 0x1D f a (cls ++ l ++ off), none)
  | .amoswapW d a b cls => some (f3 0x1E d a b (cls ++ (0 : BitVec 4) ++ (0 : BitVec 1) ++ (0 : BitVec 2)), none)
  | .amoswapD d a b cls => some (f3 0x1E d a b (cls ++ (0 : BitVec 4) ++ (1 : BitVec 1) ++ (0 : BitVec 2)), none)
  | .amoaddW d a b cls => some (f3 0x1E d a b (cls ++ (1 : BitVec 4) ++ (0 : BitVec 1) ++ (0 : BitVec 2)), none)
  | .amoaddD d a b cls => some (f3 0x1E d a b (cls ++ (1 : BitVec 4) ++ (1 : BitVec 1) ++ (0 : BitVec 2)), none)
  | .amoandW d a b cls => some (f3 0x1E d a b (cls ++ (2 : BitVec 4) ++ (0 : BitVec 1) ++ (0 : BitVec 2)), none)
  | .amoandD d a b cls => some (f3 0x1E d a b (cls ++ (2 : BitVec 4) ++ (1 : BitVec 1) ++ (0 : BitVec 2)), none)
  | .amoorW d a b cls => some (f3 0x1E d a b (cls ++ (3 : BitVec 4) ++ (0 : BitVec 1) ++ (0 : BitVec 2)), none)
  | .amoorD d a b cls => some (f3 0x1E d a b (cls ++ (3 : BitVec 4) ++ (1 : BitVec 1) ++ (0 : BitVec 2)), none)
  | .amomaxW d a b cls => some (f3 0x1E d a b (cls ++ (4 : BitVec 4) ++ (0 : BitVec 1) ++ (0 : BitVec 2)), none)
  | .amomaxD d a b cls => some (f3 0x1E d a b (cls ++ (4 : BitVec 4) ++ (1 : BitVec 1) ++ (0 : BitVec 2)), none)
  | .amominW d a b cls => some (f3 0x1E d a b (cls ++ (5 : BitVec 4) ++ (0 : BitVec 1) ++ (0 : BitVec 2)), none)
  | .amominD d a b cls => some (f3 0x1E d a b (cls ++ (5 : BitVec 4) ++ (1 : BitVec 1) ++ (0 : BitVec 2)), none)
  | .amomaxuW d a b cls => some (f3 0x1E d a b (cls ++ (6 : BitVec 4) ++ (0 : BitVec 1) ++ (0 : BitVec 2)), none)
  | .amomaxuD d a b cls => some (f3 0x1E d a b (cls ++ (6 : BitVec 4) ++ (1 : BitVec 1) ++ (0 : BitVec 2)), none)
  | .amominuW d a b cls => some (f3 0x1E d a b (cls ++ (7 : BitVec 4) ++ (0 : BitVec 1) ++ (0 : BitVec 2)), none)
  | .amominuD d a b cls => some (f3 0x1E d a b (cls ++ (7 : BitVec 4) ++ (1 : BitVec 1) ++ (0 : BitVec 2)), none)
  | .amocasW d a b cls => some (f3 0x1E d a b (cls ++ (8 : BitVec 4) ++ (0 : BitVec 1) ++ (0 : BitVec 2)), none)
  | .amocasD d a b cls => some (f3 0x1E d a b (cls ++ (8 : BitVec 4) ++ (1 : BitVec 1) ++ (0 : BitVec 2)), none)
  | .aqadd a b cls => some (f3 0x1E 0 a b (cls ++ (9 : BitVec 4) ++ (1 : BitVec 1) ++ (0 : BitVec 2)), none)
  | .beq a b off => some (fi 0x20 a b off, none)
  | .bne a b off => some (fi 0x21 a b off, none)
  | .blt a b off => some (fi 0x22 a b off, none)
  | .bge a b off => some (fi 0x23 a b off, none)
  | .bltu a b off => some (fi 0x24 a b off, none)
  | .bgeu a b off => some (fi 0x25 a b off, none)
  | .fadd d a b => some (f3 0x2F d a b 0x000, none)
  | .fsub d a b => some (f3 0x2F d a b 0x001, none)
  | .fmul d a b => some (f3 0x2F d a b 0x002, none)
  | .fmin d a b => some (f3 0x2F d a b 0x003, none)
  | .fmax d a b => some (f3 0x2F d a b 0x004, none)
  | .fcmpEq d a b => some (f3 0x2F d a b 0x008, none)
  | .fcmpLt d a b => some (f3 0x2F d a b 0x009, none)
  | .fcmpLe d a b => some (f3 0x2F d a b 0x00A, none)
  | .fcmpNe d a b => some (f3 0x2F d a b 0x00B, none)
  | .jal d off => some ((0x26 : BitVec 6) ++ d ++ off, none)
  | .jalr d a k off => some (fi 0x27 d a (k ++ off), none)
  | .land t k tag => some ((0x28 : BitVec 6) ++ (0 : BitVec 7) ++ BitVec.ofBool t ++ k ++ tag, none)
  | .fenceX sc m => some (fi 0x29 0 0 (sc ++ (0 : BitVec 4) ++ m), none)
  | .iinv a b sc => some (f3 0x2A 0 a b ((0 : BitVec 8) ++ sc), none)
  | .isync => some (f3 0x2A 0 0 0 0x100, none)
  | .arrive bk bn m => some (fi 0x2B 0 0 (bk ++ bn ++ (0 : BitVec 1) ++ m), none)
  | .waitb bk bn => some (fi 0x2C 0 0 (bk ++ bn ++ (0 : BitVec 10)), none)
  | .fork t => some (f3 0x2D 0 0 0 ((0 : BitVec 7) ++ t), none)
  | .join e => some (f3 0x2D 0 0 0 ((1 : BitVec 5) ++ (0 : BitVec 2) ++ e), none)
  | .semw a s => some (f3 0x2D 0 a 0 ((2 : BitVec 5) ++ (0 : BitVec 1) ++ s), none)
  | .semr d s => some (f3 0x2D d 0 0 ((3 : BitVec 5) ++ (0 : BitVec 1) ++ s), none)
  | .rcww a q => some (f3 0x2D 0 a 0 ((4 : BitVec 5) ++ (0 : BitVec 2) ++ q), none)
  | .rcwr d q => some (f3 0x2D d 0 0 ((5 : BitVec 5) ++ (0 : BitVec 2) ++ q), none)
  | .layw a n => some (f3 0x2D 0 a 0 ((6 : BitVec 5) ++ n), none)
  | .layr d n => some (f3 0x2D d 0 0 ((7 : BitVec 5) ++ n), none)
  | .acfg a n => some (f3 0x2D 0 a 0 ((8 : BitVec 5) ++ n), none)
  | .evwait d a => some (f3 0x2D d a 0 0x240, none)
  | .glset d a h => some (f3 0x2E d a 0 ((0 : BitVec 8) ++ h), none)
  | .glclr h => some (f3 0x2E 0 0 0 ((1 : BitVec 5) ++ (0 : BitVec 3) ++ h), none)
  | .glret a h => some (f3 0x2E 0 a 0 ((2 : BitVec 5) ++ (0 : BitVec 3) ++ h), none)
  | .tkpull d a => some (f3 0x2E d a 0 0x0C0, none)
  | .tkstat d a => some (f3 0x2E d a 0 0x100, none)
  | .signote a => some (f3 0x2E 0 a 0 0x140, none)
  | .fcvtIf d a => some (f3 0x2F d a 0 0x010, none)
  | .fcvtFi d a => some (f3 0x2F d a 0 0x011, none)
  | .sysr d k => some (fi 0x30 d 0 ((0 : BitVec 4) ++ k), none)
  | .sysw a k => some (fi 0x31 0 a ((0 : BitVec 4) ++ k), none)
  | .trap imm => some (fi 0x32 0 0 imm, none)
  | .eret => some (f3 0x33 0 0 0 0, none)
  | .wfe => some (f3 0x33 0 0 0 1, none)
  | .brk => some (f3 0x33 0 0 0 2, none)
  | .li d i => some (fi 0x3E d 0 0, some i)
  | .liu d i => some (fi 0x3E d 1 0, some i)
  | .lihi d i => some (fi 0x3E d 2 0, some i)
  | .lapc d i => some (fi 0x3E d 3 0, some i)
  | .fenceC p q => some (fi 0x3E 0 4 0, some (p ++ q))
  | _ => none

/-- The encoding rules a Musher instruction's fields must keep (R235): scopes, barrier numbers, register pairs. -/
def musherFieldsOk : Instr → Bool
  | .aqadd _ b _ => !b.getLsbD 0
  | .land _ k _ => k ≠ 3
  | .fenceX sc _ => decide (1 ≤ sc.toNat ∧ sc.toNat ≤ 5)
  | .iinv _ _ sc => decide (2 ≤ sc.toNat ∧ sc.toNat ≤ 5)
  | .arrive bk bn _ => bk ≠ 3 && (bk ≠ 2 || decide (bn.toNat ≤ 7))
  | .waitb bk bn => bk ≠ 3 && (bk ≠ 2 || decide (bn.toNat ≤ 7))
  | .rcww a _ => decide (a.toNat % 2 = 0)
  | .rcwr d _ => decide (d.toNat % 2 = 0 ∧ d ≠ 0)
  | .layw a _ => decide (a.toNat % 4 = 0)
  | .layr d _ => decide (d.toNat % 4 = 0 ∧ d ≠ 0)
  | _ => true

/-! ### Packets -/

/-- Dword `k` of a packet or record. -/
def dwAt (ds : List Dword) (k : Nat) : Dword := ds.getD k 0

/-- Is [63:56] zero: a dword that holds an address (R71). -/
def addrOk (d : Dword) : Bool := d.toNat / 2 ^ 56 = 0
def addrOf (d : Dword) : BitVec 56 := d.extractLsb' 0 56
def aligned (n : Nat) (d : Dword) : Bool := d.toNat % n = 0

def pktHdr (ds : List Dword) : PktHdr :=
  let d0 := dwAt ds 0
  { vec := d0.extractLsb' 16 6, irq := d0.getLsbD 15, rel := d0.extractLsb' 12 3, acq := d0.extractLsb' 9 3,
    bar := d0.getLsbD 8, csig := addrOf (dwAt ds 1) }

def pktType (ds : List Dword) : Nat := (dwAt ds 0).toNat % 256

/-- D0 and D1 alone pass the checks of Q.BADPKT but for TFL (R71). -/
def headerValid (ds : List Dword) : Bool :=
  let d0 := dwAt ds 0
  decide (1 ≤ pktType ds ∧ pktType ds ≤ 0x0A) && d0.extractLsb' 32 32 = 0 && d0.extractLsb' 22 2 = 0 &&
    (d0.extractLsb' 24 8 = 0 || ((pktType ds = 3 || pktType ds = 0x0A) && d0.extractLsb' 25 7 = 0)) &&
    decide ((d0.extractLsb' 12 3).toNat ≤ 5) && decide ((d0.extractLsb' 9 3).toNat ≤ 5) &&
    addrOk (dwAt ds 1) && aligned 8 (dwAt ds 1)

def zeros (ds : List Dword) (ks : List Nat) : Bool := ks.all (fun k => dwAt ds k = 0)

def launchBody (ds : List Dword) : LaunchBody :=
  let d4 := dwAt ds 4
  { kobj := addrOf (dwAt ds 2), count := (dwAt ds 3).extractLsb' 32 32, first := (dwAt ds 3).extractLsb' 0 32,
    lgid := d4.extractLsb' 48 16, sh3 := d4.extractLsb' 32 8, sh2 := d4.extractLsb' 24 8,
    sh1 := d4.extractLsb' 16 8, sh0 := d4.extractLsb' 8 8, pri := d4.extractLsb' 5 3, fixed := d4.getLsbD 4,
    team := d4.extractLsb' 0 4, args := addrOf (dwAt ds 5), conf := addrOf (dwAt ds 6), init := addrOf (dwAt ds 7) }

/-- R78. -/
def launchOk (ds : List Dword) (b : LaunchBody) : Bool :=
  addrOk (dwAt ds 2) && aligned 64 (dwAt ds 2) && (dwAt ds 4).extractLsb' 40 8 = 0 &&
    decide (1 ≤ b.team.toNat ∧ b.team.toNat ≤ 8) && decide (b.first.toNat + b.count.toNat ≤ 2 ^ 32) &&
    addrOk (dwAt ds 5) && addrOk (dwAt ds 6) && aligned 8 (dwAt ds 6) && addrOk (dwAt ds 7) && aligned 64 (dwAt ds 7)

def copyBody (ds : List Dword) : CopyBody :=
  { fill := (dwAt ds 0).getLsbD 24, src := dwAt ds 2, dst := addrOf (dwAt ds 3), len := (dwAt ds 4).extractLsb' 0 40,
    rows := (dwAt ds 5).extractLsb' 0 32, sstr := (dwAt ds 6).extractLsb' 0 40, dstr := (dwAt ds 7).extractLsb' 0 40 }

/-- R79. -/
def copyOk (ds : List Dword) (b : CopyBody) : Bool :=
  (b.fill || addrOk (dwAt ds 2)) && addrOk (dwAt ds 3) && (dwAt ds 4).extractLsb' 40 24 = 0 &&
    (dwAt ds 5).extractLsb' 32 32 = 0 && (dwAt ds 6).extractLsb' 40 24 = 0 && (dwAt ds 7).extractLsb' 40 24 = 0

def waitBody (ds : List Dword) : WaitBody :=
  let d6 := dwAt ds 6
  { sig0 := addrOf (dwAt ds 2), sig1 := addrOf (dwAt ds 3), sig2 := addrOf (dwAt ds 4), sig3 := addrOf (dwAt ds 5),
    t3 := d6.extractLsb' 48 16, t2 := d6.extractLsb' 32 16, t1 := d6.extractLsb' 16 16, t0 := d6.extractLsb' 0 16,
    tmo := (dwAt ds 7).extractLsb' 0 32 }

/-- R80. -/
def waitOk (ds : List Dword) : Bool :=
  [2, 3, 4, 5].all (fun k => addrOk (dwAt ds k) && aligned 8 (dwAt ds k)) &&
    !zeros ds [2, 3, 4, 5] && (dwAt ds 7).extractLsb' 32 32 = 0

def signalBody (ds : List Dword) : SignalBody :=
  { sig := addrOf (dwAt ds 2), val := dwAt ds 3, op := (dwAt ds 4).extractLsb' 0 2 }

/-- R81. -/
def signalOk (ds : List Dword) (b : SignalBody) : Bool :=
  addrOk (dwAt ds 2) && aligned 8 (dwAt ds 2) && (dwAt ds 4).extractLsb' 2 62 = 0 && b.op ≠ 3 &&
    (b.op = 2 || decide (1 ≤ b.val.toNat ∧ b.val.toNat ≤ 2 ^ 32)) && zeros ds [5, 6, 7]

def condBody (ds : List Dword) : CondBody :=
  let d4 := dwAt ds 4
  { pred := addrOf (dwAt ds 2), cmpv := dwAt ds 3, limit := d4.extractLsb' 16 16, n := d4.extractLsb' 8 8,
    act := d4.extractLsb' 4 2, dword := d4.getLsbD 3, cmp := d4.extractLsb' 0 3 }

/-- R82; `node` is the node's index in its graph, absent in a queue. -/
def condOk (ds : List Dword) (b : CondBody) (node : Option Nat) : Bool :=
  addrOk (dwAt ds 2) && aligned (if b.dword then 8 else 4) (dwAt ds 2) && (dwAt ds 4).extractLsb' 32 32 = 0 &&
    (dwAt ds 4).extractLsb' 6 2 = 0 && b.act ≠ 3 && decide (b.cmp.toNat ≤ 5) && zeros ds [5, 6, 7] &&
    (if b.act = 0 then b.n ≠ 0
     else
       match node with
       | none => false
       | some k => if b.act = 1 then b.n = 0 && decide (1 ≤ k) else b.n ≠ 0 && decide (b.n.toNat ≤ k))

/-- A packet's eight dwords as the Herder checks them (R68, R71); `none` is Q.BADPKT. -/
def decodePacket (ds : List Dword) (node : Option Nat) : Option Instr :=
  let h := pktHdr ds
  if !headerValid ds then none
  else
    match pktType ds with
    | 1 => if zeros ds [2, 3, 4, 5, 6, 7] then some (.nop h) else none
    | 2 => if launchOk ds (launchBody ds) then some (.launch h (launchBody ds)) else none
    | 3 => if copyOk ds (copyBody ds) then some (.copy h (copyBody ds)) else none
    | 4 => if waitOk ds then some (.waitsig h (waitBody ds)) else none
    | 5 => if signalOk ds (signalBody ds) then some (.signal h (signalBody ds)) else none
    | 6 => if condOk ds (condBody ds) node then some (.cond h (condBody ds)) else none
    | 7 =>
      if addrOk (dwAt ds 2) && aligned 64 (dwAt ds 2) && addrOk (dwAt ds 3) && aligned 8 (dwAt ds 3) &&
          zeros ds [4, 5, 6, 7] && node.isNone then
        some (.graph h (addrOf (dwAt ds 2)) (addrOf (dwAt ds 3)))
      else none
    | 8 =>
      let sc := (dwAt ds 4).extractLsb' 0 3
      if addrOk (dwAt ds 2) && (dwAt ds 3).extractLsb' 40 24 = 0 && (dwAt ds 4).extractLsb' 5 59 = 0 &&
          decide (3 ≤ sc.toNat ∧ sc.toNat ≤ 5) && zeros ds [5, 6, 7] then
        some (.iinvPacket h (addrOf (dwAt ds 2)) ((dwAt ds 3).extractLsb' 0 40) ((dwAt ds 4).extractLsb' 3 2) sc)
      else none
    | 9 =>
      if addrOk (dwAt ds 2) && aligned 8 (dwAt ds 2) && zeros ds [3, 4, 5, 6, 7] then
        some (.timestamp h (addrOf (dwAt ds 2)))
      else none
    | _ => if zeros ds [2, 3, 4, 5, 6, 7] then some (.drain h ((dwAt ds 0).getLsbD 24)) else none

def zext64 {n : Nat} (x : BitVec n) : Dword := x.setWidth 64

def encHdr (h : PktHdr) (ty tfl : Byte) : Dword :=
  (0 : BitVec 32) ++ tfl ++ (0 : BitVec 2) ++ h.vec ++ BitVec.ofBool h.irq ++ h.rel ++ h.acq ++ BitVec.ofBool h.bar ++ ty

/-- The dwords of a packet (R71, R77-R85). -/
def encodePacket : Instr → Option (List Dword)
  | .nop h => some [encHdr h 1 0, zext64 h.csig, 0, 0, 0, 0, 0, 0]
  | .launch h p => some [encHdr h 2 0, zext64 h.csig, zext64 p.kobj, p.count ++ p.first,
      p.lgid ++ (0 : Byte) ++ p.sh3 ++ p.sh2 ++ p.sh1 ++ p.sh0 ++ p.pri ++ BitVec.ofBool p.fixed ++ p.team,
      zext64 p.args, zext64 p.conf, zext64 p.init]
  | .copy h p => some [encHdr h 3 (if p.fill then 1 else 0), zext64 h.csig, p.src, zext64 p.dst, zext64 p.len,
      zext64 p.rows, zext64 p.sstr, zext64 p.dstr]
  | .waitsig h p => some [encHdr h 4 0, zext64 h.csig, zext64 p.sig0, zext64 p.sig1, zext64 p.sig2, zext64 p.sig3,
      p.t3 ++ p.t2 ++ p.t1 ++ p.t0, zext64 p.tmo]
  | .signal h p => some [encHdr h 5 0, zext64 h.csig, zext64 p.sig, p.val, zext64 p.op, 0, 0, 0]
  | .cond h p => some [encHdr h 6 0, zext64 h.csig, zext64 p.pred, p.cmpv,
      (0 : BitVec 32) ++ p.limit ++ p.n ++ (0 : BitVec 2) ++ p.act ++ BitVec.ofBool p.dword ++ p.cmp, 0, 0, 0]
  | .graph h g p => some [encHdr h 7 0, zext64 h.csig, zext64 g, zext64 p, 0, 0, 0, 0]
  | .iinvPacket h s l d sc => some [encHdr h 8 0, zext64 h.csig, zext64 s, zext64 l, zext64 (d ++ sc), 0, 0, 0]
  | .timestamp h d => some [encHdr h 9 0, zext64 h.csig, zext64 d, 0, 0, 0, 0, 0]
  | .drain h all => some [encHdr h 0x0A (if all then 1 else 0), zext64 h.csig, 0, 0, 0, 0, 0, 0]
  | _ => none

/-- The checks of Q.BADPKT on a packet's fields. -/
def packetFieldsOk (i : Instr) (node : Option Nat) : Bool :=
  match encodePacket i with
  | some ds => (decodePacket ds node).isSome
  | none => true

/-! ### Messages and flits (R25, R26) -/

/-- A message header slot (R26). -/
def encodeMsgHeader (m : Msg) : Quad :=
  m.addr ++ (BitVec.ofNat 4 m.data.length) ++ m.op ++ m.tag ++ m.hops ++ m.ddie ++ m.dpkg ++ m.sdie ++ m.spkg ++ m.sagent ++
    m.cls ++ m.rlen ++ (0 : BitVec 1) ++ BitVec.ofBool m.sz

/-- The fields of a header slot with the LEN slots that follow it. -/
def decodeMsgHeader (q : Quad) (data : List Quad) : Msg :=
  { addr := q.extractLsb' 72 56, op := q.extractLsb' 62 6, tag := q.extractLsb' 50 12, hops := q.extractLsb' 46 4,
    ddie := q.extractLsb' 44 2, dpkg := q.extractLsb' 32 12, sdie := q.extractLsb' 30 2, spkg := q.extractLsb' 18 12,
    sagent := q.extractLsb' 8 10, cls := q.extractLsb' 4 4, rlen := q.extractLsb' 2 2, sz := q.getLsbD 0, data := data }

/-- Messages fill the slots with no gaps (R25); `none` where they do not. -/
def decodeSlots : Nat → List Quad → Option (List Msg)
  | _, [] => some []
  | 0, _ :: _ => none
  | fuel + 1, q :: r =>
    let len := (q.extractLsb' 68 4).toNat
    if r.length < len then none
    else (decodeSlots fuel (r.drop len)).map (fun ms => decodeMsgHeader q (r.take len) :: ms)

/-- CRC-32 of IEEE 802.3, reflected (R25). -/
def crcBit (c : Word) : Word := if c.getLsbD 0 then (c >>> 1) ^^^ 0xEDB88320 else c >>> 1
def crcByte (c : Word) (b : Byte) : Word :=
  (crcBit ∘ crcBit ∘ crcBit ∘ crcBit ∘ crcBit ∘ crcBit ∘ crcBit ∘ crcBit) (c ^^^ b.setWidth 32)
def crc32 (bs : List Byte) : Word := ~~~(bs.foldl crcByte 0xFFFFFFFF)

open Machine in
/-- A flit's bytes as its receiver reads them (R25): 256 of a module, 512 of a fabric port. An IDLE flit with a non-zero SEQ is bad:
R25 has the field zero there and its list of bad flits does not name it (DESIGN CHOICE, log 132). -/
def decodeFlit (bs : List Byte) : Flit :=
  let n := bs.length
  let h := BitVec.ofNat 96 (ofBytes (bs.take 12))
  let nslots := (h.extractLsb' 32 5).toNat
  let slots := (List.range nslots).map (fun k => BitVec.ofNat 128 (ofBytes ((bs.drop (12 + 16 * k)).take 16)))
  let ms := decodeSlots nslots slots
  let ty := h.extractLsb' 28 4
  let ak := h.extractLsb' 22 2
  { crm := h.extractLsb' 88 8, crg := h.extractLsb' 80 8, crs := h.extractLsb' 72 8, crq := h.extractLsb' 64 8,
    data := ty = 1, ak := ak, aseq := h.extractLsb' 12 10, seq := h.extractLsb' 0 10, msgs := ms.getD [],
    good := ofBytes (bs.drop (n - 4)) = (crc32 (bs.take (n - 4))).toNat && decide (ty.toNat ≤ 1) && ak ≠ 3 &&
      h.extractLsb' 37 27 = 0 && h.extractLsb' 24 4 = 0 && h.extractLsb' 10 2 = 0 &&
      decide (nslots ≤ (n - 16) / 16) && ms.isSome && (ty = 1 || (nslots = 0 && h.extractLsb' 0 10 = 0)) }


/-! ### Loop-block records (R237-R245, R253) -/

/-- The operation of a 10-bit code ENG × 256 + OPN (R253); the sequencer operators run on any engine. -/
def mkBlock (code : Nat) (b : Block) : Option Instr :=
  if 0xF0 ≤ code % 256 then
    match code % 256 with
    | 0xf0 => some (.sqNop b)
    | 0xf1 => some (.sqLoop b)
    | 0xf2 => some (.sqEnd b)
    | 0xf3 => some (.sqPatch b)
    | 0xf4 => some (.sqEvent b)
    | _ => none
  else
    match code with
    | 0x1 => some (.ldCopy b)
    | 0x2 => some (.ldGather b)
    | 0x3 => some (.ldBcast b)
    | 0x4 => some (.ldFill b)
    | 0x5 => some (.ldPref b)
    | 0x301 => some (.stCopy b)
    | 0x302 => some (.stScatter b)
    | 0x303 => some (.stReduce b)
    | 0x101 => some (.mxWload b)
    | 0x102 => some (.mxWloads b)
    | 0x103 => some (.mxMma b)
    | 0x104 => some (.mxAzero b)
    | 0x105 => some (.mxAfill b)
    | 0x106 => some (.mxAread b)
    | 0x107 => some (.mxAdrain b)
    | 0x108 => some (.mxGlsend b)
    | 0x109 => some (.mxArebase b)
    | 0x201 => some (.vxAdd b)
    | 0x202 => some (.vxSub b)
    | 0x203 => some (.vxMul b)
    | 0x204 => some (.vxFma b)
    | 0x205 => some (.vxMin b)
    | 0x206 => some (.vxMax b)
    | 0x207 => some (.vxAbs b)
    | 0x208 => some (.vxNeg b)
    | 0x209 => some (.vxCmp b)
    | 0x20a => some (.vxSel b)
    | 0x20b => some (.vxClamp b)
    | 0x20c => some (.vxSqrt b)
    | 0x20d => some (.vxRcpa b)
    | 0x20e => some (.vxRsqa b)
    | 0x20f => some (.vxExp2a b)
    | 0x210 => some (.vxLog2a b)
    | 0x220 => some (.vxIadd b)
    | 0x221 => some (.vxIsub b)
    | 0x222 => some (.vxImul b)
    | 0x223 => some (.vxIand b)
    | 0x224 => some (.vxIor b)
    | 0x225 => some (.vxIxor b)
    | 0x226 => some (.vxIshl b)
    | 0x227 => some (.vxIshr b)
    | 0x228 => some (.vxIsar b)
    | 0x229 => some (.vxImin b)
    | 0x22a => some (.vxImax b)
    | 0x22b => some (.vxIota b)
    | 0x240 => some (.vxCvt b)
    | 0x241 => some (.vxPack b)
    | 0x242 => some (.vxUnpack b)
    | 0x243 => some (.vxScalefind b)
    | 0x244 => some (.vxExpmax b)
    | 0x250 => some (.vxRsum b)
    | 0x251 => some (.vxRmax b)
    | 0x252 => some (.vxRmin b)
    | 0x260 => some (.vxMove b)
    | 0x261 => some (.vxPerm b)
    | 0x262 => some (.vxZero b)
    | _ => none

/-- The OPN-with-engine code and record of a loop-block operator. -/
def Instr.block? : Instr → Option (Nat × Block)
  | .sqNop b => some (b.eng.toNat * 256 + 0xf0, b)
  | .sqLoop b => some (b.eng.toNat * 256 + 0xf1, b)
  | .sqEnd b => some (b.eng.toNat * 256 + 0xf2, b)
  | .sqPatch b => some (b.eng.toNat * 256 + 0xf3, b)
  | .sqEvent b => some (b.eng.toNat * 256 + 0xf4, b)
  | .ldCopy b => some (0x1, b)
  | .ldGather b => some (0x2, b)
  | .ldBcast b => some (0x3, b)
  | .ldFill b => some (0x4, b)
  | .ldPref b => some (0x5, b)
  | .stCopy b => some (0x301, b)
  | .stScatter b => some (0x302, b)
  | .stReduce b => some (0x303, b)
  | .mxWload b => some (0x101, b)
  | .mxWloads b => some (0x102, b)
  | .mxMma b => some (0x103, b)
  | .mxAzero b => some (0x104, b)
  | .mxAfill b => some (0x105, b)
  | .mxAread b => some (0x106, b)
  | .mxAdrain b => some (0x107, b)
  | .mxGlsend b => some (0x108, b)
  | .mxArebase b => some (0x109, b)
  | .vxAdd b => some (0x201, b)
  | .vxSub b => some (0x202, b)
  | .vxMul b => some (0x203, b)
  | .vxFma b => some (0x204, b)
  | .vxMin b => some (0x205, b)
  | .vxMax b => some (0x206, b)
  | .vxAbs b => some (0x207, b)
  | .vxNeg b => some (0x208, b)
  | .vxCmp b => some (0x209, b)
  | .vxSel b => some (0x20a, b)
  | .vxClamp b => some (0x20b, b)
  | .vxSqrt b => some (0x20c, b)
  | .vxRcpa b => some (0x20d, b)
  | .vxRsqa b => some (0x20e, b)
  | .vxExp2a b => some (0x20f, b)
  | .vxLog2a b => some (0x210, b)
  | .vxIadd b => some (0x220, b)
  | .vxIsub b => some (0x221, b)
  | .vxImul b => some (0x222, b)
  | .vxIand b => some (0x223, b)
  | .vxIor b => some (0x224, b)
  | .vxIxor b => some (0x225, b)
  | .vxIshl b => some (0x226, b)
  | .vxIshr b => some (0x227, b)
  | .vxIsar b => some (0x228, b)
  | .vxImin b => some (0x229, b)
  | .vxImax b => some (0x22a, b)
  | .vxIota b => some (0x22b, b)
  | .vxCvt b => some (0x240, b)
  | .vxPack b => some (0x241, b)
  | .vxUnpack b => some (0x242, b)
  | .vxScalefind b => some (0x243, b)
  | .vxExpmax b => some (0x244, b)
  | .vxRsum b => some (0x250, b)
  | .vxRmax b => some (0x251, b)
  | .vxRmin b => some (0x252, b)
  | .vxMove b => some (0x260, b)
  | .vxPerm b => some (0x261, b)
  | .vxZero b => some (0x262, b)
  | _ => none


def laneOf (x : BitVec 16) : Lane := ⟨x.extractLsb' 0 4, x.extractLsb' 4 5⟩
def encLane (l : Lane) : BitVec 16 := (0 : BitVec 7) ++ l.sem ++ l.amt
/-- R239: [15:9] reserved; an unused lane names no semaphore. -/
def laneOk (x : BitVec 16) : Bool := x.extractLsb' 9 7 = 0 && (x.extractLsb' 0 4 ≠ 0 || x.extractLsb' 4 5 = 0)

def operandOf (x0 x1 x2 : Dword) : Operand :=
  { kind := x0.extractLsb' 0 2, index := x0.extractLsb' 2 6, fmt := x0.extractLsb' 8 8, map := x0.extractLsb' 16 8,
    opf := x0.extractLsb' 24 8, c0 := x0.extractLsb' 32 16, c1 := x0.extractLsb' 48 16, c2 := x1.extractLsb' 48 16,
    c3 := x2.extractLsb' 48 16, st0 := x1.extractLsb' 0 24, st1 := x1.extractLsb' 24 24, st2 := x2.extractLsb' 0 24,
    st3 := x2.extractLsb' 24 24 }

def encOperand (o : Operand) : List Dword :=
  [o.c1 ++ o.c0 ++ o.opf ++ o.map ++ o.fmt ++ o.index ++ o.kind, o.c2 ++ o.st1 ++ o.st0, o.c3 ++ o.st3 ++ o.st2]

def Operand.none : Operand := ⟨0, 0, 0, 0, 0, 0, 0, 0, 0, 0, 0, 0, 0⟩

/-- Does a format code name a format (R195, R196). -/
def fmtNamed (c : Byte) : Bool :=
  let cls := c.extractLsb' 6 2
  let p := (c.extractLsb' 0 3).toNat
  if cls = 0 then decide (1 ≤ c.toNat ∧ c.toNat ≤ 8)
  else !c.getLsbD 3 && p ≠ 0 && decide (p ≤ (if cls = 1 then 7 else if cls = 2 then 5 else 3))

/-- The kinds each operator accepts at OP0-OP3, as sets of bits 0 none, 1 window, 2 ring, 3 accumulator tile (R318,
R342, R362). -/
def opKinds (code : Nat) : List Nat :=
  if 0xF0 ≤ code % 256 then if code % 256 = 0xF3 then [1, 15, 1, 1] else [1, 1, 1, 1]
  else
    match code with
    | 0x001 => [6, 6, 1, 1]
    | 0x002 => [6, 2, 2, 1]
    | 0x003 => [2, 2, 1, 1]
    | 0x004 => [6, 1, 1, 1]
    | 0x005 => [2, 2, 1, 1]
    | 0x301 => [2, 6, 1, 1]
    | 0x302 => [2, 6, 2, 1]
    | 0x303 => [2, 6, 1, 1]
    | 0x101 => [1, 2, 3, 1]
    | 0x102 => [1, 2, 2, 3]
    | 0x103 => [8, 4, 5, 1]
    | 0x104 => [8, 1, 1, 1]
    | 0x105 => [8, 6, 1, 1]
    | 0x106 => [2, 8, 1, 1]
    | 0x107 => [6, 8, 3, 3]
    | 0x108 => [1, 8, 1, 1]
    | 0x109 => [8, 1, 1, 1]
    | 0x204 => [6, 6, 6, 6]
    | 0x20A => [6, 6, 6, 6]
    | 0x20B => [6, 6, 6, 6]
    | 0x207 => [6, 6, 1, 1]
    | 0x208 => [6, 6, 1, 1]
    | 0x20C => [6, 6, 1, 1]
    | 0x20D => [6, 6, 1, 1]
    | 0x20E => [6, 6, 1, 1]
    | 0x20F => [6, 6, 1, 1]
    | 0x210 => [6, 6, 1, 1]
    | 0x22B => [6, 1, 1, 1]
    | 0x240 => [6, 6, 1, 1]
    | 0x241 => [6, 6, 3, 1]
    | 0x242 => [6, 6, 3, 1]
    | 0x243 => [2, 6, 1, 1]
    | 0x244 => [2, 6, 1, 1]
    | 0x250 => [2, 6, 1, 1]
    | 0x251 => [2, 6, 1, 1]
    | 0x252 => [2, 6, 1, 1]
    | 0x260 => [6, 6, 1, 1]
    | 0x261 => [6, 2, 2, 1]
    | 0x262 => [6, 1, 1, 1]
    | _ => [6, 6, 6, 1]

/-- Is operand position `k` of an operator written, so that a ring there takes no FMT (R244). -/
def opWritten (k : Nat) : Bool := k = 0

/-- One operand against R242, R244 and the kinds of its position; the drain operators take their conversion format
from OP1 (R355). -/
def operandOk (kinds k : Nat) (o : Operand) : Bool :=
  (kinds / 2 ^ o.kind.toNat % 2 = 1) && (o.fmt = 0 || fmtNamed o.fmt) &&
  (if o.kind = 0 then o = Operand.none
   else if o.kind = 2 then
     decide (o.index.toNat ≤ 15) && o.map = 0 && o.c0 = 0 && o.c1 = 0 && o.c2 = 0 && o.c3 = 0 && o.st0 = 0 &&
       o.st1 = 0 && o.st2 = 0 && o.st3 = 0 && decide (o.opf.toNat ≤ 1) && (!opWritten k || o.fmt = 0)
   else o.opf = 0)

/-- Header bits SMAP, SAT, MA, DUP an operator accepts beside the common ones (R238, R318, R342, R362, R380). -/
def headerBitsOk (code : Nat) (b : Block) : Bool :=
  (!b.dup || code = 0x103) &&
  (!b.ma || (decide (0x201 ≤ code ∧ code < 0x2F0))) &&
  (!b.sat || code = 0x106 || code = 0x107 || code = 0x240 || code = 0x241 || code = 0x242) &&
  (!b.smap || code = 0x106 || code = 0x107)

/-- Bits of D15 that an operator's layout leaves reserved are zero, and fields lie in their ranges (R245, R248, R325,
R333-R337, R343, R363). -/
def d15Ok (code : Nat) (b : Block) : Bool :=
  let d := b.d15
  let z := fun (hi lo : Nat) => Machine.bits d.toNat hi lo = 0
  let f := fun (hi lo : Nat) => Machine.bits d.toNat hi lo
  let opn := code % 256
  if opn = 0xF1 then z 63 32 && z 15 12
  else if opn = 0xF3 then z 31 30 && f 29 28 ≠ 3 && (f 29 28 ≠ 1 || b.op1.kind = 0)
  else if 0xF0 ≤ opn then d = 0
  else
    match code with
    | 0x002 => z 63 3
    | 0x302 => z 63 3
    | 0x003 => z 63 17 && f 7 0 ≠ 0 && (f 16 13 ≠ 0 || f 12 8 = 0)
    | 0x004 => true
    | 0x005 => z 63 1
    | 0x303 => z 63 3 && decide (f 2 0 ≤ 3)
    | 0x101 => z 63 24 && z 7 1 && decide (f 23 16 ≤ 127 ∧ f 15 8 ≤ 127)
    | 0x102 => z 63 24 && z 15 14 && z 7 1 && decide (f 23 16 ≤ 127)
    | 0x103 => z 63 38 && z 31 31 && z 23 18 && z 7 1 && decide (f 17 8 ≤ 511) && (b.dup || f 37 32 = 0)
    | 0x107 => z 31 2 && f 1 0 ≠ 3
    | 0x108 => z 63 3
    | 0x109 => z 63 11
    | 0x209 => z 63 3 && decide (f 2 0 ≤ 5)
    | 0x22B => true
    | 0x243 => z 63 8 && fmtNamed (d.extractLsb' 0 8)
    | _ => d = 0

/-- The bounds an operator requires (R248, R325, R326, R328, R345, R346, R357, R358, R379). -/
def boundsOk (code : Nat) (b : Block) : Bool :=
  let ones := b.b0 = 1 && b.b1 = 1 && b.b2 = 1 && b.b3 = 1
  let f := fun (hi lo : Nat) => Machine.bits b.d15.toNat hi lo
  let opn := code % 256
  if opn = 0xF1 || opn = 0xF2 || opn = 0xF3 || opn = 0xF4 then ones
  else if code = 0x108 || code = 0x109 then ones
  else if code = 0x101 then
    b.b2 = 1 && b.b3 = 1 && decide (f 15 8 + b.b1.toNat ≤ 128 ∧ f 23 16 + b.b0.toNat ≤ 128)
  else if code = 0x102 then
    let n := f 13 8 + 1
    b.b2 = 1 && b.b3 = 1 && decide (b.b0.toNat ≤ 128 - f 23 16) && b.b1.toNat = Nat.min (128 / n) 4 * n
  else if code = 0x261 then decide (b.b0.toNat ≤ 64)
  else true

/-- What a block record decodes to (R246): an operator, LB.ILLEGAL or LB.RESERVED. -/
inductive BlockDec where
  | ok (i : Instr)
  | illegal
  | reserved

/-- The record of sixteen dwords, whatever it holds (R237-R241). -/
def blockOf (ds : List Dword) : Block :=
  let d0 := ds.getD 0 0
  let d1 := ds.getD 1 0
  let d2 := ds.getD 2 0
  let d := fun (k : Nat) => ds.getD k 0
  { smap := d0.getLsbD 25, sat := d0.getLsbD 24, lvl := d0.extractLsb' 22 2, rm := d0.extractLsb' 20 2,
    cls := d0.extractLsb' 16 4, ftzo := d0.getLsbD 14, ftzi := d0.getLsbD 13, ma := d0.getLsbD 12,
    dup := d0.getLsbD 11, ts := d0.getLsbD 10, eng := d0.extractLsb' 8 2,
    w1 := laneOf (d1.extractLsb' 0 16), w2 := laneOf (d1.extractLsb' 16 16), s1 := laneOf (d1.extractLsb' 32 16),
    s2 := laneOf (d1.extractLsb' 48 16),
    b0 := d2.extractLsb' 0 16, b1 := d2.extractLsb' 16 16, b2 := d2.extractLsb' 32 16, b3 := d2.extractLsb' 48 16,
    op0 := operandOf (d 3) (d 4) (d 5), op1 := operandOf (d 6) (d 7) (d 8), op2 := operandOf (d 9) (d 10) (d 11),
    op3 := operandOf (d 12) (d 13) (d 14), d15 := d 15 }

/-- The checks of R246 that need nothing beyond the record: reserved fields and R238-R245. -/
def blockFieldsOk (code : Nat) (b : Block) : Bool :=
  let ks := opKinds code
  headerBitsOk code b && operandOk (ks.getD 0 1) 0 b.op0 && operandOk (ks.getD 1 1) 1 b.op1 &&
    operandOk (ks.getD 2 1) 2 b.op2 && operandOk (ks.getD 3 1) 3 b.op3 && d15Ok code b && boundsOk code b

/-- The lanes of D1 keep R239. -/
def lanesOk (d1 : Dword) : Bool :=
  laneOk (d1.extractLsb' 0 16) && laneOk (d1.extractLsb' 16 16) && laneOk (d1.extractLsb' 32 16) &&
    laneOk (d1.extractLsb' 48 16)

/-- Decode a loop block for the sequencer of engine `eng` (R246): total on any sixteen dwords. -/
def decodeBlock (eng : Eng) (ds : List Dword) : BlockDec :=
  let d0 := ds.getD 0 0
  let b := blockOf ds
  let code := (d0.extractLsb' 0 10).toNat
  if b.eng ≠ eng.code then .illegal
  else
    match mkBlock code b with
    | none => .illegal
    | some i =>
      if d0.extractLsb' 26 38 = 0 && !d0.getLsbD 15 && lanesOk (ds.getD 1 0) && blockFieldsOk code b then .ok i
      else .reserved

def bit (b : Bool) : BitVec 1 := BitVec.ofBool b

/-- The sixteen dwords of a loop block (R237-R241). -/
def encBlock (code : Nat) (b : Block) : List Dword :=
  ((0 : BitVec 38) ++ bit b.smap ++ bit b.sat ++ b.lvl ++ b.rm ++ b.cls ++ (0 : BitVec 1) ++ bit b.ftzo ++ bit b.ftzi ++
      bit b.ma ++ bit b.dup ++ bit b.ts ++ BitVec.ofNat 10 code) ::
    (encLane b.s2 ++ encLane b.s1 ++ encLane b.w2 ++ encLane b.w1) ::
    (b.b3 ++ b.b2 ++ b.b1 ++ b.b0) ::
    (encOperand b.op0 ++ encOperand b.op1 ++ encOperand b.op2 ++ encOperand b.op3 ++ [b.d15])

/-- The record of a loop-block operator. -/
def encodeBlock (i : Instr) : Option (List Dword) := i.block?.map (fun p => encBlock p.1 p.2)

/-! ### The host's question -/

/-- The Musher instruction whose bits are `w`: the first word is bits 31:0, a second word bits 63:32; every bit above
`nbits` is zero. -/
def decodeTableWord (nbits w : Nat) : Option Instr :=
  let w := w % 2 ^ nbits
  some (decodeWord (BitVec.ofNat 32 w) (BitVec.ofNat 32 (w / 2 ^ 32)))

end Sys2Proof
end

