-- ==== Sys2Proof/Config.lean ====
section
/-! DEFINITION. What the manual leaves to the implementation, as constants without a body: nothing can be proved
about their values. Also `Turn`, the plain datum that says which agent moves next (assumption log 3). -/
namespace Sys2Proof

/-- What the next step of the machine is. -/
inductive Act where
  /-- the thread of the turn issues its next instruction, or takes a pending asynchronous trap -/
  | issue
  /-- the chain of the turn's tile and engine moves on by one of its steps -/
  | chain
  /-- the Herder dispatches the fetched packet of the turn's queue -/
  | packet
  /-- the Herder dispatches the read node of the turn's graph instance -/
  | node
  /-- a row of the table happens: an event of the machine or of the outside world -/
  | event (i : Instr)
deriving DecidableEq, Repr, Inhabited

/-- The way by which a request of the outside world comes (R51, R53, R58): its own (a mailbox for the requests of R54 and R55, the
I3C bus for those of R59), the management port's I3C bus, or an MCTP vendor-defined message of a PCIe function. -/
inductive Via where
  | own
  | i3c
  | vdm (f : FuncId)
deriving DecidableEq, Repr, Inhabited

/-- Which agent moves next, and on what. -/
structure Turn where
  act : Act
  /-- the Musher thread concerned -/
  thread : TileId
  /-- the tile and engine concerned -/
  tile : TileId
  eng : Eng
  /-- the queue, or graph instance, whose packet is concerned -/
  queue : QueueId
  inst : BitVec 8
  /-- the way by which a request of the outside world comes -/
  via : Via
deriving DecidableEq, Repr, Inhabited

def Turn.idle : Turn := ⟨.issue, 0, 0, .ld, 0, 0, .own⟩


namespace Config

/-- The agent that moves next, whichever it is (log 3): a free value of the step counter. -/
opaque turn : Nat → Turn
/-- Cycles that pass beside the one a step takes (R417; log 4). -/
opaque elapsed : Nat → Nat
/-- The launch exit address that trap firmware gives in g1 (R96), per item start. -/
opaque exitAddr : Nat → Dword
/-- KTVEC and KSCRATCH as trap firmware sets them when it loads (R307), per thread. -/
opaque ktvec : TileId → Dword
opaque kscratch : TileId → Dword
/-- Fused identity: silicon stepping, serial number, security version (R46). -/
opaque fusedStep : BitVec 16
opaque fusedSerial : Dword
opaque fusedSvn : Word
/-- This package's identifier in its domain, and the peer package, die and port a fabric port trains with, if it has
one (R36, R39). -/
opaque pkgId : BitVec 12
opaque portPeer : BitVec 6 → Option (BitVec 12 × DieId × BitVec 6)
/-- The number of pattern sets of a unit kind, fixed by the running image (R114). -/
opaque nset : UnitKind → Nat
/-- SHAKE256 with a 64-byte output (R60, R64, R65). -/
opaque shake256 : List Byte → BitVec 512
/-- Falcon-1024: does a signature over a digest verify under the Epfora root key (R60). -/
opaque falconVerify : BitVec 512 → List Byte → Bool
/-- Falcon-1024 signature by the device identity key (R64, R65, R128). -/
opaque falconSign : BitVec 512 → List Byte
/-- The public identity key, 1,793 bytes, and the certificate chain that binds a key to a serial number (R64). -/
opaque identityKey : BitVec 14344
opaque certificate : BitVec 14344 → Dword → List Byte
/-- The boot ROM's own digest and the trap firmware's digest (R60). -/
opaque romDigest : BitVec 512
opaque trapDigest : BitVec 512
/-- The state-table version of a running firmware image (R63). -/
opaque stateVersion : Word → Nat
/-- Totals of the counted sources that depend on timing alone (R157, R160), by source and package time. -/
opaque freeTotal : Nat → Nat → Nat
/-- The entry that a full TLB gives up for a new one (R172; log 9). -/
opaque tlbVictim : Nat → Nat
/-- What a read by the Herder, a die scheduler or firmware of a page of another package answers: its STATUS and its
dwords (log 5). -/
opaque awayStatus : Nat → Nat
opaque awayDword : Nat → Dword
/-- The teams another package of the launch group gives up to a steal: first team and count (R98; log 14). -/
opaque stolenTeams : Nat → Nat × Nat
/-- What the bytes of a firmware image declare (R60, R63): the spec gives them no layout (log 28). -/
opaque parseImage : List Byte → FwImage
/-- Where in the die pool of die 0 the versioned state table goes, and its bytes (R63; log 28). -/
opaque stateTable : Nat → Nat × List Byte
/-- The bytes of failing-pattern results in a drop record (R128). -/
opaque patternBytes : Nat → List Byte

end Config

end Sys2Proof
end

