-- ==== Sys2Proof/Machine/Table.lean ====
section
/-! DEFINITION. Sparse tables: how the model holds every large array of the machine (memories, register files of
many units, directories). A table is a list of (key, value) pairs in one canonical form: keys strictly rising, and no
entry equal to the value an unlisted key reads as. -/
namespace Sys2Proof.Machine

abbrev Tbl (α : Type) := List (Nat × α)

/-- What key `k` reads as; `d` where it is not listed. -/
def tget {α : Type} (d : α) : Tbl α → Nat → α
  | [], _ => d
  | (k', v) :: r, k => if k' = k then v else tget d r k

/-- Insert before the first greater key. -/
def tins {α : Type} (k : Nat) (v : α) : Tbl α → Tbl α
  | [] => [(k, v)]
  | (k', v') :: r => if k < k' then (k, v) :: (k', v') :: r else (k', v') :: tins k v r

def tdel {α : Type} (k : Nat) : Tbl α → Tbl α
  | [] => []
  | (k', v') :: r => if k' = k then tdel k r else (k', v') :: tdel k r

/-- Set key `k`; a key set to the unlisted value is dropped, so the form stays canonical. -/
def tput {α : Type} [DecidableEq α] (d : α) (t : Tbl α) (k : Nat) (v : α) : Tbl α :=
  if v = d then tdel k t else tins k v (tdel k t)

/-- The canonical form. -/
abbrev twf {α : Type} (d : α) (t : Tbl α) : Prop :=
  t.Pairwise (fun a b => a.1 < b.1) ∧ ∀ p ∈ t, p.2 ≠ d

/-- Update one key through a function. -/
def tmod {α : Type} [DecidableEq α] (d : α) (t : Tbl α) (k : Nat) (f : α → α) : Tbl α :=
  tput d t k (f (tget d t k))

/-- Apply `f` to every listed value. -/
def tmap {α : Type} [DecidableEq α] (d : α) (f : Nat → α → α) (t : Tbl α) : Tbl α :=
  t.foldr (fun p acc => tput d acc p.1 (f p.1 p.2)) []

/-- Byte-addressed memory: an unlisted byte reads as zero (assumption log 1). -/
abbrev Memory := Tbl Byte

/-- Every byte nothing has written reads as zero: DESIGN CHOICE, log 1. -/
def unwritten : Byte := 0

abbrev Memory.wf (m : Memory) : Prop := twf unwritten m

def Memory.byte (m : Memory) (a : Nat) : Byte := tget unwritten m a

def Memory.setByte (m : Memory) (a : Nat) (b : Byte) : Memory := tput unwritten m a b

/-- `n` bytes from `a` up, as a little-endian number. -/
def Memory.read (m : Memory) (a n : Nat) : Nat :=
  match n with
  | 0 => 0
  | n + 1 => (Memory.byte m a).toNat + 256 * Memory.read m (a + 1) n

def Memory.bytes (m : Memory) (a : Nat) : Nat → List Byte
  | 0 => []
  | n + 1 => Memory.byte m a :: Memory.bytes m (a + 1) n

/-- Write bytes from `a` up. -/
def Memory.writeBytes (m : Memory) (a : Nat) : List Byte → Memory
  | [] => m
  | b :: r => Memory.writeBytes (Memory.setByte m a b) (a + 1) r

/-- Write the low `n` bytes of `v`, little-endian. -/
def Memory.write (m : Memory) (a n v : Nat) : Memory := Memory.writeBytes m a (toBytes n v)

/-- A set of addresses or numbers as a sorted list without repeats. -/
abbrev NSet := List Nat

def nins (k : Nat) : NSet → NSet
  | [] => [k]
  | a :: r => if k < a then k :: a :: r else if k = a then a :: r else a :: nins k r

def ndel (k : Nat) (s : NSet) : NSet := s.filter (fun a => a != k)

def nhas (s : NSet) (k : Nat) : Bool := s.contains k

end Sys2Proof.Machine
end

