-- ==== Sys2Proof/Machine/Parts.lean ====
section
/-! DEFINITION. The plain data of the machine's parts: Musher threads, tiles, the Herder, links, leases. Every field
names the rule of spec/ that gives it. `Machine/State.lean` puts them together. -/
namespace Sys2Proof.Machine

/-- Where a translated access goes (R161, R166, R168): this package's physical memory, the host bus, another
package's physical memory, or a replica set's die-relative frame. -/
inductive Place where
  | here (pa : Nat)
  | host (ba : Nat)
  | away (pkg : BitVec 12) (pa : Nat)
  | repl (set : BitVec 16) (off : Nat)
deriving DecidableEq, Repr, Inhabited

/-- An entry of a TLB (R172): the leaf that a walk ended at, tagged with its partition and its page of the leaf's size. -/
structure TlbEntry where
  part : PartId
  page : Nat
  level : Nat
  raw : Nat
deriving DecidableEq, Repr, Inhabited

/-- Who has an address translated, which says the TLBs that it goes through (R172): a tile's engines, a cluster's Mushers, or a
die's copy engines and the Herder, which walk. -/
inductive Walker where
  | engine (t : TileId)
  | core (c : ClusterId)
  | die (d : DieId)
deriving DecidableEq, Repr, Inhabited

/-- The states of a Musher thread (R151). -/
inductive TState where
  | idle | ready | stalled | waiting | halted
deriving DecidableEq, Repr, Inhabited

/-- A store in a thread's write buffer (R272). `blocks` holds the classes whose accesses FENCE.C holds until this
store has been performed (R181, R288); `sent` and `resp` say whether it has left for its target and how the target
answered (R171). -/
structure WEntry where
  va : Dword
  place : Place
  size : Nat
  data : Dword
  cls : BitVec 4
  blocks : BitVec 16
  sent : Bool
  resp : Option Nat
deriving DecidableEq, Repr, Inhabited

/-- A pending asynchronous trap (R155): cause code, SRC (1 engine chain or gangline), trap value, the kind of the access that was
refused (R176), package time at which it came. -/
structure ATrap where
  code : Byte
  src : Bool
  tval : Dword
  acc : Nat
  time : Dword
deriving DecidableEq, Repr, Inhabited

/-- What the return of an outstanding request completes (R171): a load, an atomic, an AQADD, one dword of a LOADM,
or a fetched line. -/
inductive OFin where
  | load (d : Reg) (size : Nat) (signed : Bool)
  | amo (d : Reg) (word : Bool)
  | aqadd
  | loadm (r last : Reg)
  | fetch (line : Nat)
deriving DecidableEq, Repr, Inhabited

/-- The one outstanding request of a thread and its answer: STATUS and data. -/
structure Outst where
  va : Dword
  place : Place
  /-- the answer is a whole line that fills the data cache (R184) -/
  cache : Bool
  /-- the line it asks for has been written, filled or invalidated at this core since: the answer fills no cache (R179, R193) -/
  stale : Bool
  fin : OFin
  resp : Option (Nat × Nat)
  /-- its instruction was completed at a halt: the answer only writes the register, and a fault is an asynchronous trap (R103, R286) -/
  late : Bool
deriving DecidableEq, Repr, Inhabited

/-- The item a thread supervises (R96, R140): launch, item index, position, slot of its cluster, exit address; `ended` once the
thread has ended its part, `faulted` once the item has faulted (R138). -/
structure Sup where
  lid : Word
  item : Option Word
  pos : Nat
  slot : Nat
  /-- the launch exit address given in g1 -/
  exit : Dword
  ended : Bool
  faulted : Bool
deriving DecidableEq, Repr, Inhabited

/-- The last ARRIVE of a thread on a barrier whose WAITB has not completed (R188, R189). -/
structure Arrival where
  bar : BarId
  phase : Nat
  mask : BitVec 9
deriving DecidableEq, Repr, Inhabited

/-- TKPULL as a thread sees it (R97): not pulling, waiting for its round, or given its value. -/
inductive Pull where
  | none
  | waiting (k : BitVec 4) (d : Reg)
  | given (d : Reg) (v : Dword)
deriving DecidableEq, Repr, Inhabited

/-- A Musher hardware thread (R151, R262, R306-R312). -/
structure Thread where
  /-- g1-g31; g0 reads zero (R262) -/
  g : Tbl Dword
  pc : Dword
  st : TState
  kstat : Dword
  kepc : Dword
  kcause : Dword
  ktval : Dword
  ktvec : Dword
  kscratch : Dword
  kcap : BitVec 4
  kevt : Byte
  ktdbg : Dword
  kbpa : Tbl Dword
  wbuf : List WEntry
  asyncs : List ATrap
  out : Option Outst
  sup : Option Sup
  arrivals : List Arrival
  pull : Pull
  /-- the fault record this thread waits on under trap firmware (R419): SEQ -/
  hold : Option Nat
  /-- SSTEP: the last instruction completed at U and the trap is still to be taken (R312) -/
  stepTrap : Bool
  /-- the FENCE.X it waits in: the mark of what its tile's engines had sent at the cycle of the fence (R183) -/
  fence : Option Nat
  /-- the partition of the thread's previous item, whose debug registers it keeps (R96) -/
  lastPart : Option PartId
deriving DecidableEq, Repr

/-- A line of the data cache: physical line number and bytes (R184); oldest first in its list. -/
structure DLine where
  line : Nat
  data : List Byte
deriving DecidableEq, Repr

/-- A line of the instruction cache, tagged by partition and virtual line (R193, R290). -/
structure ILine where
  part : PartId
  line : Nat
  data : List Byte
  pois : Bool
deriving DecidableEq, Repr

/-- A Musher core: the caches its eight threads share. -/
structure MCore where
  dlines : List DLine
  ilines : List ILine
deriving DecidableEq, Repr

/-- Chain states (R141). -/
inductive ChainSt where
  | idle | running | ended | parked | faulted
deriving DecidableEq, Repr, Inhabited

/-- A counter of `sq.loop` (R325, R418). -/
structure SqCtr where
  active : Bool
  block : BitVec 12
  remaining : BitVec 16
deriving DecidableEq, Repr, Inhabited

/-- Where an engine's chain keeps data: a byte of the tile store, or an accumulator entry. -/
inductive Loc where
  | store (a : Nat)
  | acc (e : Nat)
deriving DecidableEq, Repr, Inhabited

/-- An accumulator entry: I, SPEC, LOSS, RANGE, CNT (R204). -/
structure AqEntry where
  i : Quad
  spec : BitVec 2
  loss : Bool
  range : Bool
  cnt : Word
deriving DecidableEq, Repr, Inhabited

/-- A write of a chain still inside its latency distance (R148, R149), or one of the MX replay window (R134): issue cycle, what
kind of operation wrote, where, the value before, and whether its word or entry was poisoned then (R138). `fresh`: the writing block has not ended, so its last write may still be
to come; `early`: written while KTDBG.EARLY was set (R150); `win`: an accumulator entry written in the replay window. -/
structure Hist where
  issue : Nat
  kind : Nat
  loc : Loc
  oldByte : Byte
  oldAcc : AqEntry
  oldPois : Bool
  fresh : Bool
  early : Bool
  win : Bool
deriving DecidableEq, Repr, Inhabited

/-- An answer a unit holds for a remote access of the step it is about to issue. -/
structure RAns where
  place : Place
  size : Nat
  resp : Option (Nat × Nat)
deriving DecidableEq, Repr, Inhabited

/-- The phase of a latched block: its waits are to be taken, its steps issue, or its iteration's signals are due. -/
inductive Phase where
  | waits | steps | signals
deriving DecidableEq, Repr, Inhabited

/-- The sequencer and chain of one engine (R141, R418). -/
structure Chain where
  st : ChainSt
  cur : Nat
  /-- the latched block; `none` when CUR is still to be latched -/
  latched : Option Instr
  phase : Phase
  cause : Byte
  pseq : Word
  flags : BitVec 16
  issue : Nat
  i0 : Nat
  i1 : Nat
  i2 : Nat
  i3 : Nat
  /-- an iteration of level AT has begun and is not yet over -/
  wtaken : Bool
  /-- iterations of level AT whose signals are due, and the ring signals that are due -/
  due : Nat
  dueSig : List (BitVec 5 × Nat)
  /-- the block's last step has been issued -/
  last : Bool
  /-- earlier blocks whose steps have all been issued and whose accesses have still to land: block and its signals, oldest first
  (R145, R383) -/
  flight : List (Nat × List (BitVec 5 × Nat))
  loops : Tbl SqCtr
  /-- memory writes sent to other dies or packages and not yet answered -/
  outw : Nat
  /-- the first non-zero STATUS (0x100 + GLRES for a gangline message) of such a write, and the block that sent it -/
  outst : Nat × Nat
  answers : List RAns
  hist : List Hist
  /-- the sixteen partial values of a reduction run (R378) -/
  red : Tbl Word
  /-- the send handle latched by the current `mx.glsend`, and the elements of its step already applied (R418) -/
  glh : Dword
  glmask : Dword
  halted : Bool
deriving DecidableEq, Repr

/-- A weight plane of the MX engine (R344-R347). -/
structure Plane where
  /-- format of the weights, 0 for format none -/
  fmt : Byte
  sparse : Bool
  /-- non-zeros per group N of a sparse plane -/
  n : Nat
  /-- the block that loaded it -/
  blk : BitVec 12
  /-- weight codes: dense at row × 128 + column, sparse at column × 128 + entry, whose row plus 1 is then in `rows` -/
  w : Tbl Nat
  rows : Tbl Nat
  /-- scale codes at column × 4 + group; an unlisted one is 128, the code of 1 -/
  scale : Tbl Nat
  /-- signals held until the plane is released, by semaphore: those of iterations before the present replay window, and those of
  iterations in it (R347) -/
  held : List (BitVec 5 × Nat)
  heldWin : List (BitVec 5 × Nat)
deriving DecidableEq, Repr

/-- A place in a chain's execution: block, loop indices and `sq.loop` counters. -/
structure Point where
  cur : Nat
  ix : Nat × Nat × Nat × Nat
  loops : Tbl SqCtr
deriving DecidableEq, Repr, Inhabited

/-- The MX part beyond its sequencer: planes, replay window (R131-R134), DUP record (R351). -/
structure MxExt where
  p0 : Plane
  p1 : Plane
  /-- the planes as they stood at the replay window's start, which a replay starts from again (R134) -/
  winP0 : Plane
  winP1 : Plane
  tsblk : BitVec 12
  win0 : Nat × Nat × Nat × Nat
  /-- issue cycles, loop counters and accumulator configurations at the window's start -/
  winIssue : Nat
  winLoops : Tbl SqCtr
  winAcfg : Tbl Dword
  repl : Bool
  glb : Bool
  writ : NSet
  /-- entries that `mx.azero` and `mx.afill` of the window have written -/
  init : NSet
  defer : Tbl Nat
  ringHeads : Tbl (Nat × Nat)
  /-- by accumulator tile: its last `mx.mma` carried DUP, and its check tile -/
  dup : Tbl (Bool × BitVec 6)
  /-- a replay under way takes no waits and gives no signal up to the first point, and skips drains up to the second -/
  replaying : Option (Point × Option Point)
  /-- signals that a drain gives as it completes (R130, R355) -/
  withheld : List (BitVec 5 × Nat)
  /-- elements the current drain of a DUP tile has written, as bytes of the tile store (R130) -/
  drained : List Nat
  /-- where the latched drain, or its part in the replay window, started, and the tail of the ring it pushes -/
  drainAt : Option (Point × (Nat × Nat))
  /-- `withheld` and `drained` as they stood at the replay window's start (R134) -/
  winWithheld : List (BitVec 5 × Nat)
  winDrained : List Nat
  /-- tile-store words that a mismatch has poisoned and its replay will clear (R130) -/
  dupPois : NSet
deriving DecidableEq, Repr

/-- A ring's control word, positions (slot, element) and bindings (R251, R319, R320). -/
structure Ring where
  d0 : Dword
  d1 : Dword
  head : Nat × Nat
  tail : Nat × Nat
  prod : Option Eng
  cons : Option Eng
deriving DecidableEq, Repr, Inhabited

/-- A layout-table entry: D0-D3 (R163). -/
structure Window where
  d0 : Dword
  d1 : Dword
  d2 : Dword
  d3 : Dword
deriving DecidableEq, Repr, Inhabited

/-- The tile part of a context: everything of a tile that its image carries (R108). -/
structure Ctx where
  store : Memory
  storePois : NSet
  acc : Tbl AqEntry
  /-- poisoned 64-bit halves of accumulator entries: 2 × entry + half -/
  accPois : NSet
  acfg : Tbl Dword
  sems : Tbl (BitVec 16)
  rings : Tbl Ring
  wins : Tbl Window
  hnd : Tbl Dword
  ld : Chain
  mx : Chain
  vx : Chain
  st : Chain
  ext : MxExt
  tec : Tbl Dword
  tes : Tbl Byte
  /-- multiply-accumulates of the item that have not yet made up a count of 1,024 (R157) -/
  macs : Nat
  /-- reservations completed while parked, by handle number: steps 3 and 4 owed at restore (R229) -/
  owed : List (BitVec 3)
deriving DecidableEq, Repr

/-- Who a tile works for (R96): partition, launch, item (absent: the position is past the end), position, slot. -/
structure Bind where
  part : PartId
  lid : Word
  item : Option Word
  pos : Nat
  slot : Nat
deriving DecidableEq, Repr, Inhabited

/-- Service states of a tile: in service, under a lease, retired (R115, R123). -/
inductive Service where
  | inService | leased | retired
deriving DecidableEq, Repr, Inhabited

/-- The registers of a thread that travel in its image (R307), with what a halt leaves of its instructions (R103). -/
structure ThreadImage where
  g : Tbl Dword
  st : TState
  kstat : Dword
  kepc : Dword
  kcause : Dword
  ktval : Dword
  kcap : BitVec 4
  kevt : Byte
  ktdbg : Dword
  kbpa : Tbl Dword
  asyncs : List ATrap
  wbuf : List WEntry
  out : Option Outst
  arrivals : List Arrival
  pull : Pull
  hold : Option Nat
  /-- the trap of a single step is still to be taken (R312) -/
  stepTrap : Bool
  sup : Option Sup
deriving DecidableEq, Repr

/-- A portable context image (R108) as a kennel slot and the thread save area hold it. -/
structure Image where
  level : Byte
  lid : Word
  item : Word
  part : PartId
  pos : Byte
  tile : TileId
  bind : Bind
  complete : Bool
  /-- a capacity change of the cluster while parked (R118) -/
  capEvt : Bool
  ctx : Ctx
  thr : ThreadImage
  parkedAt : Dword
deriving DecidableEq, Repr

/-- A byte written to a tile store after the tile's HALT, which waits in the kennel controller (R106): its address,
the bits written, their value, and poison. -/
structure KWrite where
  addr : Nat
  mask : Nat
  val : Nat
  pois : Bool
deriving DecidableEq, Repr

/-- Where an item's image lies: on a tile, in a kennel slot, spilled. -/
inductive ImagePlace where
  | tile (t : TileId)
  | kennel (t : TileId)
  | spill (p : PartId) (n : Nat)
deriving DecidableEq, Repr

/-- A tile (R11, R96, R142). -/
structure Tile where
  ctx : Ctx
  bind : Option Bind
  service : Service
  /-- a parity error has struck the MX array pipeline or read path and is still to be found (R133) -/
  parity : Bool
  /-- HALT asserted; its chains note their own HALTED (R101) -/
  halting : Bool
  /-- the thread of the tile's number has reported HALTED -/
  thrHalted : Bool
  /-- the tile's part of a context exchange has been made and its end is still to be told (R105) -/
  exchanging : Bool
  kennel : Option Image
  kwrites : List KWrite
  /-- package time at which the tile last became idle (R111) -/
  idleAt : Dword
  /-- the accumulator part that an empty kennel slot still holds (R387): entries, and their poisoned halves -/
  slotAcc : Tbl AqEntry
  slotPois : NSet
  /-- the tile's context was restored from its own slot, and nothing has written the slot since (R107) -/
  slotFrom : Bool
deriving DecidableEq, Repr

/-! ### The Herder -/

/-- Queue states (R66, R67). -/
inductive QState where
  | free | active | error | retiring
deriving DecidableEq, Repr, Inhabited

/-- A queue (R66) with the packet its Herder copy holds (R70) and the indices a COND has it skip (R82). -/
structure Queue where
  owner : FuncId
  base : Dword
  weight : Byte
  part : PartId
  prio : BitVec 3
  log2n : BitVec 5
  cidx : Dword
  latch : Dword
  errcode : Byte
  state : QState
  erridx : Dword
  held : Option Instr
  skip : Nat
  used : Nat
  /-- a checked GRAPH packet waits for the end of this instance, named by its packet's work (R87) -/
  stall : Option Nat
deriving DecidableEq, Repr

/-- Where a packet comes from. -/
inductive Src where
  | queue (q : QueueId)
  | inst (n : Nat)
deriving DecidableEq, Repr, Inhabited

/-- How far the work of a dispatched packet has come. -/
inductive WState where
  /-- still running -/
  | running
  /-- all its work has retired without failure: DEC 1 is due -/
  | done
  /-- all its work has retired; FAIL with this value is due -/
  | failed (v : Dword)
deriving DecidableEq, Repr, Inhabited

/-- A dispatched packet whose completion is not yet written. -/
structure Work where
  src : Src
  idx : Nat
  pkt : Instr
  hdr : PktHdr
  part : PartId
  func : FuncId
  start : Dword
  state : WState
  /-- dies (0-3) still to acknowledge an IINV -/
  acks : List Nat
  /-- a destroy has dropped part of it (R76) -/
  dropped : Bool
  /-- cancelled count of R72: items, nodes or rows completed -/
  count : Nat
  /-- lowest failing item, node or row -/
  low : Option Nat
  /-- memory writes of items that have retired, sent and not yet performed (R70) -/
  out : Nat
deriving DecidableEq, Repr

/-- A running graph instance (R86, R87). -/
structure Inst where
  gobj : BitVec 56
  queue : QueueId
  part : PartId
  work : Nat
  nodes : Nat
  nodea : BitVec 56
  /-- patched dwords: node × 8 + dword -/
  patched : List (Nat × Dword)
  next : Nat
  iters : Tbl Nat
  ended : Bool
  /-- the lowest node that has failed, with its status and queue error code (R72, R87) -/
  fail : Option (Nat × Dword × Byte)
  start : Dword
deriving DecidableEq, Repr

/-- A kernel's chain template (R89). -/
structure Tmpl where
  blka : Nat
  prime : Bool
  eng : BitVec 2
  nblk : Nat
deriving DecidableEq, Repr, Inhabited

/-- A checked kernel object with its set-up block (R89-R91). -/
structure Kernel where
  entry : Dword
  gp : Dword
  charea : Nat
  tmpls : List Tmpl
  sems : Tbl (BitVec 16)
  rings : Tbl Ring
deriving DecidableEq, Repr, Inhabited

/-- A dispatched launch (R78, R94-R99, R124). -/
structure Launch where
  lid : Word
  part : PartId
  func : FuncId
  work : Nat
  queue : QueueId
  /-- index of the packet in its queue or instance, index in the queue, and the GRAPH packet's work for a node -/
  idx : Nat
  qidx : Nat
  graph : Option Nat
  pri : BitVec 3
  fixed : Bool
  team : Nat
  first : Nat
  count : Nat
  args : BitVec 56
  conf : BitVec 56
  lgid : BitVec 16
  kobj : BitVec 56
  kernel : Kernel
  /-- own range of teams -/
  teamLo : Nat
  teamHi : Nat
  /-- ranges of teams that steals from other packages have brought (R98) -/
  took : List (Nat × Nat)
  /-- items of the own range retired, wherever they ran -/
  retired : Nat
  /-- items of the own range in all -/
  total : Nat
  low : Option Nat
  /-- every item has retired -/
  complete : Bool
  /-- tiles that executed items since their last return (R124) -/
  tiles : NSet
  /-- teams stolen by other packages whose retirement, and whose confirmation, are still to be reported (R99, R124) -/
  away : List Nat
  owed : List Nat
  /-- members of the launch group whose four values have not come yet (R99) -/
  await : List (BitVec 12)
  exported : Bool
deriving DecidableEq, Repr

/-- A ticket counter (R95). -/
structure Ticket where
  lid : Word
  next : Nat
  stop : Nat
deriving DecidableEq, Repr, Inhabited

/-- A team slot of a cluster (R96, R97). -/
structure Slot where
  lid : Word
  k : BitVec 4
  tiles : List TileId
  team : Option Nat
  /-- no further team: a thread has ended, the last team was given, or a lease dissolves it -/
  closing : Bool
  /-- positions whose thread has ended -/
  gone : NSet
deriving DecidableEq, Repr

/-- A barrier (R188, R221). -/
structure Bar where
  owner : Word
  owned : Bool
  phase : Nat
  /-- participants, as partKey numbers them: arrived in the phase, taking part from the next one, and arrived in that one -/
  arrived : NSet
  late : NSet
  next : NSet
  /-- registered reservations: participant and handle number -/
  resv : List (Nat × BitVec 3)
  /-- by arrival counted in the phase, and in the next one: the die and the mark of what the arriving thread's tile's engines had
  sent by then (R189), kept when the thread ends -/
  sent : List (DieId × Nat)
  sentNext : List (DieId × Nat)
deriving DecidableEq, Repr, Inhabited

/-- A cluster-table entry (R92) and which partition is resident. -/
structure CluEntry where
  parts : BitVec 16
  valid : BitVec 4
  slice : Nat
  resident : Option PartId
  since : Dword
  /-- a partition switch is ordered to this one (R93) -/
  order : Option PartId
deriving DecidableEq, Repr, Inhabited

/-- A launch-group entry (R99). -/
structure LGroup where
  lgid : BitVec 16
  size : Nat
  rank : Nat
  members : List (BitVec 12)
  /-- KOBJ, FIRST, COUNT and TEAM heard from members whose exchange no dispatched LAUNCH here has yet taken -/
  heard : List (BitVec 12 × BitVec 56 × Word × Word × BitVec 4)
deriving DecidableEq, Repr, Inhabited

/-- A mailbox (R53). -/
structure Mailbox where
  rq : Tbl Dword
  rs : Tbl Dword
  seq : Word
  code : Byte
  dseq : Word
  err : Byte
  state : BitVec 2
  ie : Bool
  vec : BitVec 6
  /-- the Herder has acted on the request: ERR and the results that the completion will write -/
  acted : Option (Byte × List Dword)
deriving DecidableEq, Repr, Inhabited

/-- A copy job (R79, R340). -/
structure CopyJob where
  work : Nat
  part : PartId
  body : CopyBody
  row : Nat
  /-- bytes of the row already copied, in chunks of 4 KiB -/
  pos : Nat
  /-- SEQ of the record it is parked on -/
  parked : Option Nat
  answers : List RAns
deriving DecidableEq, Repr

/-- The source that waits on a fault record (R175). -/
inductive Waiter where
  | none
  | chain (t : TileId) (e : Eng)
  | thread (t : TileId)
  | copy (die : DieId) (e : BitVec 2)
deriving DecidableEq, Repr, Inhabited

/-- A partition's fault queue and invalidation registers (R173, R175): posted records by place (dwords D0-D7), records
held unposted, and the sequence numbers that a source still waits on. -/
structure FQ where
  head : Nat
  tail : Nat
  recs : Tbl (List Dword)
  held : List (List Dword)
  waits : List (Nat × Waiter)
  fqie : Bool
  fqvec : BitVec 6
  invva : Dword
  invlen : Dword
  done : Bool
  /-- the range that the last GO invalidates: INVVA and INVLEN as it found them; the TLBs have dropped it (R173) -/
  goVa : Dword
  goLen : Dword
  dropped : Bool
deriving DecidableEq, Repr

/-- A partition (R47, R109, R110, R167). -/
structure Partition where
  ptroot : Dword
  imgBase : Dword
  imgCount : Nat
  /-- spilled images by place in the image area: as they were spilled; what R108 lays out is read back from memory -/
  spilled : Tbl (Option Image)
  exported : Bool
deriving DecidableEq, Repr, Inhabited

/-- A posted write of a function that waits until its earlier ones have been performed (R192): a value for a queue's wake latch,
or bytes for an offset of aperture M. -/
inductive PostedWr where
  | notify (q : QueueId) (v : Dword)
  | mem (off : Nat) (bs : List Byte)
deriving DecidableEq, Repr

/-- A function's configuration registers that hold what was written to them (R42; log 124). -/
structure PciCfg where
  bars : Tbl Dword
  msixControl : BitVec 16
  aerUncor : Word
  aerUncorMask : Word
  aerCor : Word
deriving DecidableEq, Repr

/-- A PCIe function (R42, R47, R56). -/
structure Func where
  mbase : Dword
  bound : Option PartId
  msixTable : Memory
  msixPending : Dword
  flr : Option Dword
  /-- the queues assigned to a virtual function, in the order of its notify pages (R44; log 17) -/
  queues : List QueueId
  cfg : PciCfg
  /-- aperture M writes sent to other dies and packages and not yet performed, and the posted writes behind them (R192) -/
  owed : Nat
  posted : List PostedWr
deriving DecidableEq, Repr

/-- An entry of the violation log (R55). -/
structure VLog where
  time : Dword
  addr : Dword
  d2 : Dword
deriving DecidableEq, Repr, Inhabited

/-! ### Links -/

/-- Link states: those of a module (R33) and of a port (R35). -/
inductive LinkSt where
  | active | retrain | down | draining | leased | retired
deriving DecidableEq, Repr, Inhabited

/-- One end of a link (R25-R31). -/
structure LEnd where
  txSeq : BitVec 10
  /-- DATA flits sent and not acknowledged, oldest first -/
  held : List Flit
  /-- flits still to be sent again in a replay -/
  resend : List Flit
  replays : Nat
  e : BitVec 10
  nakPending : Bool
  /-- reports still to be sent, oldest first: ACK (1) or NAK (2), with ASEQ (R28, R29) -/
  reports : List (BitVec 2 × BitVec 10)
  /-- trained again, and waiting for the peer's ACK from which it replays (R33, R39) -/
  resuming : Bool
  /-- credits left to send, and credits to return, by channel -/
  credits : Tbl Nat
  give : Tbl Nat
  /-- messages delivered and not yet taken, in arrival order -/
  buf : List Msg
  /-- flits this end of a module has sent that have not reached the other end -/
  wire : List Flit
  /-- package time at which the oldest held flit was sent or sent again (R30), and of the oldest report that waits (R28) -/
  since : Dword
  akSince : Dword
  /-- this end's report of E has been sent, and the peer's has come (R34, R39) -/
  sentReport : Bool
  reported : Bool
deriving DecidableEq, Repr

/-- A link: a UCIe module 0-11 or a fabric port by its identifier. -/
structure Link where
  st : LinkSt
  x32 : Bool
  /-- package time of the entry to RETRAIN (R33) -/
  retrainAt : Dword
  lo : LEnd
  hi : LEnd
  peerPkg : BitVec 12
  peerDie : DieId
  peerPort : BitVec 6
deriving DecidableEq, Repr

/-- An item wherever its image lies: partition, cluster, launch, slot and position (R96, R105). -/
structure ItemRef where
  part : PartId
  clu : ClusterId
  lid : Word
  slot : Nat
  pos : Nat
deriving DecidableEq, Repr, Inhabited

/-- Who waits for the response to a tag (R32). -/
inductive Agent where
  | none
  /-- a thread, its buffer or a chain of an item that has left its tile by a context exchange (R103, R106) -/
  | itemThread (r : ItemRef)
  | itemStore (r : ItemRef)
  | itemW (r : ItemRef) (e : Eng) (blk : Nat)
  | thread (t : TileId)
  | store (t : TileId)
  | eng (t : TileId) (e : Eng)
  | engW (t : TileId) (e : Eng) (blk : Nat)
  | gang (t : TileId) (idx len : Nat)
  | copy (die : DieId) (e : BitVec 2)
  | update (set : BitVec 16) (stamp : Word)
  /-- the TIMESTAMP of a dispatched packet (R85) -/
  | work (w : Nat)
  /-- a write of an item that has retired, of a dispatched packet (R70); its partition, and who sent it -/
  | rel (w : Nat) (p : PartId) (who : Agent)
  /-- an access of a partition that is still to be performed and whose answer completes nothing any longer (R103, R173), and who
  sent it -/
  | dead (p : PartId) (who : Agent)
  /-- an aperture M write of a function (R192) -/
  | host (f : FuncId)
  /-- an FP32 update of a replicated page, carried as compare-and-swaps until one takes (R337; log 21): the agent that waits
  in the end, the last request sent, ROP, RM and the element -/
  | cas (who : Agent) (x : Msg) (rop : Nat) (rm : BitVec 2) (v : Nat)
  /-- a request that a FENCE.X or an ARRIVE waits for (R183, R189), by its mark -/
  | marked (who : Agent) (n : Nat)
deriving DecidableEq, Repr, Inhabited

/-- The agent at the end of a chain of compare-and-swaps and marks. -/
def Agent.root : Agent → Agent
  | .cas w _ _ _ _ => w.root
  | .marked w _ => w.root
  | a => a

def Agent.hasMark (n : Nat) : Agent → Bool
  | .cas w _ _ _ _ => w.hasMark n
  | .marked w k => k = n || w.hasMark n
  | _ => false

/-- A compare-and-swap, which may have to be sent again. -/
def Agent.isCas : Agent → Bool
  | .cas _ _ _ _ _ => true
  | .marked w _ => w.isCas
  | _ => false

/-- The same request for another agent. -/
def Agent.map (f : Agent → Agent) : Agent → Agent
  | .cas w x rop rm v => .cas (w.map f) x rop rm v
  | .marked w n => .marked (w.map f) n
  | a => f a

/-- An outstanding tag (R32): the response is awaited, or OP 0x3A is. -/
structure TagRec where
  dpkg : BitVec 12
  ddie : DieId
  tag : BitVec 12
  agent : Agent
  place : Place
  retiring : Bool
  sagent : BitVec 10
  /-- the fabric port the request left by (R38) -/
  port : Option (BitVec 6)
  /-- bytes of the request's data that are poisoned, counted from its ADDR (R138; log 63) -/
  pois : List Nat
  /-- the request's ordering class (R180) -/
  cls : BitVec 4
deriving DecidableEq, Repr

/-- An entry of the completion table (R32). -/
structure CompRec where
  spkg : BitVec 12
  sdie : DieId
  tag : BitVec 12
  resp : Option Msg
  /-- the fabric port the response left by (R38) -/
  port : Option (BitVec 6)
deriving DecidableEq, Repr

/-- An entry of a die's replica-set table (R40, R41): 1,024 of them, each with up to 256 members. -/
structure RSet where
  valid : Bool
  set : BitVec 16
  pkg : BitVec 12
  die : DieId
  members : List (BitVec 12 × DieId)
  stamp : Word
  /-- unanswered stamps: the members still to answer, and the writer's message -/
  open_ : List (Word × List (BitVec 12 × DieId) × Msg × Nat)
deriving DecidableEq, Repr

/-- A member's side of a set: the next stamp to apply and early arrivals (R41). -/
structure RMem where
  next : Word
  early : List Msg
deriving DecidableEq, Repr, Inhabited

/-- A migration forward (R226, R230): a landing handle of an item that has left tile `src`. -/
structure Fwd where
  src : TileId
  lh : BitVec 3
  epoch : Byte
  item : ItemRef
deriving DecidableEq, Repr, Inhabited

/-- What an export record holds (R110): queues, graph instances, launches with their counters and slots, the packets in
progress, and the image places. -/
structure ExportRec where
  queues : List (Nat × Queue)
  works : List (Nat × Work)
  insts : List (Nat × Inst)
  launches : List Launch
  tickets : List (DieId × Nat × Ticket)
  slots : List (Nat × Slot)
  bars : List (BarId × Bar)
  images : List (Nat × Image)
deriving DecidableEq, Repr

/-! ### Leases and reliability -/

/-- A lease-table entry: D0-D3 of R114. -/
structure LeaseRec where
  d0 : Dword
  tstart : Dword
  tend : Dword
  synd : Dword
deriving DecidableEq, Repr, Inhabited

/-- A score event (R128). -/
structure ScoreEv where
  time : Dword
  event : Byte
  weight : Byte
  after : Byte
deriving DecidableEq, Repr, Inhabited

/-- What the device keeps about a unit under vet checks (R121, R122, R128). -/
structure UnitRec where
  score : Byte
  hist : List Byte
  events : List ScoreEv
  rotations : Nat
  retired : Bool
  /-- a confirmation lease is owed when the running lease ends (R122) -/
  owed : Bool
  /-- one of the unit's leases is SCHEDULED, DRAINING or TESTING: entry number -/
  lease : Option Nat
  /-- package time at which the running lease entered DRAINING (R117), or its last slice ended (R113) -/
  drainAt : Dword
  /-- slices of a channel lease begun (R120), and whether one is under way -/
  slices : Nat
  slicing : Bool
deriving DecidableEq, Repr

/-- A run of the contribution log (R125). -/
structure CRun where
  lid : Word
  tile : TileId
  first : Word
  count : Word
deriving DecidableEq, Repr, Inhabited

/-- What each die keeps (R32, R52, R95, R114, R121, R125, R129, R157, R230). -/
structure Die where
  tickets : Tbl (Option Ticket)
  tags : List TagRec
  /-- requests that wait for a free tag (R32), oldest first -/
  tagq : List (Msg × Agent × Place)
  /-- the tag counter of each destination die: package × 4 + die (R410) -/
  tagNext : Tbl Nat
  comp : List CompRec
  /-- messages this die has to send or pass on, oldest first, and messages for itself that crossed no link -/
  outq : List Msg
  inq : List Msg
  /-- retires among the outgoing messages, and the package time at which each became ready (R410) -/
  retireAt : List (Msg × Dword)
  vlog : Tbl VLog
  logcnt : Nat
  leases : Tbl LeaseRec
  /-- by unit kind: the identifier from which the rotation goes on (R113) -/
  rotNext : Tbl Nat
  /-- by unit kind: package time at which the rotation under way began (R113) -/
  rotAt : Tbl Dword
  clog : List CRun
  whole : List (Word × NSet)
  sramErr : Tbl Dword
  dec : Tbl Dword
  des : Tbl Byte
  copies : Tbl (List CopyJob)
  fwds : List Fwd
  routing : Tbl Word
  /-- the replica-set table (R40), by place 0-1,023 -/
  rsets : Tbl RSet
deriving DecidableEq, Repr

/-- A correction the patrol scrubber has queued (R136, R137): an HBM sector or an SRAM word. -/
inductive Scrub where
  | sector (s : Nat)
  | word (w : SramWord)
deriving DecidableEq, Repr

/-- A drop record still in the Herder work area, or in flash (R128, R129). -/
structure DropRec where
  seq : Nat
  bytes : List Byte
deriving DecidableEq, Repr

/-- What the outside world was answered or told: the last answers to the host and the management port, interrupts
raised, alerts. -/
inductive Answer where
  | data (bytes : List Byte)
  /-- power and cap in W, hottest temperature, throttle step, and the cause of a trip (R20, R21, R59) -/
  | sensors (power cap : BitVec 16) (temp : Byte) (step : BitVec 2) (trip : Option (DieId × Byte))
  | poisoned
  | unsupported
  | retryStatus
  | configDone
  | notReady
  | denied
  | error
  | done
deriving DecidableEq, Repr

/-- Ports of the arbitration logic (R50). -/
inductive ArbSt where
  | running | clockGated | powerGated
deriving DecidableEq, Repr, Inhabited

end Sys2Proof.Machine

namespace Sys2Proof.Config

/-- What vet patterns leave in a tile's store and accumulator file (R116). -/
opaque leftStore : Nat → List (Nat × Byte)
opaque leftAcc : Nat → List (Nat × Sys2Proof.Machine.AqEntry)
/-- The failing symbol positions that patterns found on a channel, by rank (R123). -/
opaque failedSymbols : Nat → List (BitVec 2 × BitVec 16)
/-- The bytes of an export record, and what such bytes say: the spec gives the record no layout (R110; log 25). -/
opaque writeRecord : Sys2Proof.Machine.ExportRec → List Byte
opaque readRecord : List Byte → Option Sys2Proof.Machine.ExportRec

end Sys2Proof.Config
end

