-- ==== Sys2Proof/Machine/State.lean ====
section
/-! DEFINITION. The state of the machine as plain data: everything the spec gives one DQ-40 package, what its links
carry, and the model's own `turn` and `fresh` (assumption logs 3 and 4). `Mach` holds what instructions, engines, the
Herder, links and leases change; `Power` and `Firmware` stand apart because few steps touch them. -/
namespace Sys2Proof.Machine

/-- Power and temperature (R19, R20, R21, R57). -/
structure Power where
  /-- cap in W in force, and the cap that applies from the next window (R20) -/
  pcap : BitVec 16
  capSet : BitVec 16
  /-- throttle step 0-3 and the windows it has been held for (R19) -/
  tstep : BitVec 2
  held : Nat
  pavg : BitVec 16
  tmax : Byte
  /-- main power is off: never turned on, or tripped (R21) -/
  tripped : Bool
  /-- the die that tripped, and its temperature -/
  cause : Option (DieId × Byte)
deriving DecidableEq, Repr

/-- Boot states (R60-R62). -/
inductive BootSt where
  | rom | recovery | booted | ready | stopped
deriving DecidableEq, Repr, Inhabited

/-- A flash bank: an image, or none, and the mark of R62 that it failed. -/
structure Bank where
  img : Option FwImage
  invalid : Bool
deriving DecidableEq, Repr, Inhabited

/-- A live update in progress (R63): asked for, at its quiescent boundary, taken over. -/
inductive UpdSt where
  | none | asked | atBoundary
deriving DecidableEq, Repr, Inhabited

/-- Boot, flash, measurement and the standby domain (R46, R60-R65, R128, R129). -/
structure Firmware where
  boot : BootSt
  bank0 : Bank
  bank1 : Bank
  preferred : Bool
  running : Option FwImage
  fwver : Word
  svn : Word
  slots : Tbl (BitVec 512)
  staged : Bool
  upd : UpdSt
  dropsFlash : Tbl DropRec
  dropsHeld : List DropRec
  dropSeq : Nat
  /-- units retired in flash: kind code × 1024 + die × 256 + unit (R123) -/
  retiredFlash : NSet
  /-- channels to be withheld from the next cold reset on (R123) -/
  withheldFlash : NSet
  alerts : List Byte
  pcieTrained : Option (BitVec 3 × BitVec 5)
deriving DecidableEq, Repr

/-- Everything that Musher threads, engines, the Herder, links, copy engines and leases act on. -/
structure Mach where
  /-- package time (R85) -/
  time : Dword
  /-- this package's identifier (R9, R36) -/
  pkg : BitVec 12
  /-- counter of free values -/
  fresh : Nat
  /-- HBM and pools by physical address (R162) -/
  mem : Memory
  /-- poisoned HBM sectors, by address / 64, and pool words, by address / 8 (R138) -/
  poisS : NSet
  poisW : NSet
  /-- symbols in error of HBM sectors (R15), by address / 64: positions, and what is added to the symbol there -/
  symErr : Tbl (List (BitVec 7 × Byte))
  /-- SRAM words that hold one flipped bit, and that hold an uncorrectable pattern, not yet read (R13) -/
  sram1 : List SramWord
  sram2 : List SramWord
  /-- corrections the scrubber has queued, oldest first, and how many sectors it has read per channel (R136) -/
  scrubs : List Scrub
  scrubPos : Tbl Nat
  /-- known-bad tables (R16): (die × 512 + channel × 4 + rank) × 16 + entry -/
  knownBad : Tbl (BitVec 16)
  /-- channels whose physical range is withheld from the address map (R123): die × 96 + channel -/
  withheld : NSet
  /-- host memory as space H reaches it (R161) -/
  hostMem : Memory
  threads : Tbl Thread
  cores : Tbl MCore
  tiles : Tbl Tile
  slots : Tbl (Option Slot)
  bars : List (BarId × Bar)
  clusters : Tbl CluEntry
  queues : Tbl Queue
  /-- by priority: the queue whose turn ended last (R69) -/
  rr : Tbl QueueId
  works : Tbl (Option Work)
  insts : Tbl (Option Inst)
  /-- by place of an instance: the counters of its nodes as the last instance there left them (R82, R405) -/
  iterLeft : Tbl (Tbl Nat)
  launches : Tbl (Option Launch)
  nextWork : Nat
  nextLid : Word
  /-- the mark that the next FENCE.X or ARRIVE gives the requests it waits for -/
  nextMark : Nat
  groups : Tbl LGroup
  classes : Tbl (BitVec 7)
  /-- access tables (R51): key (target kind × 2^20 + index) × 256 + master, bit 0 read, bit 1 write; listed as the
  difference from the grants of reset and boot -/
  access : Tbl (BitVec 2)
  /-- boot firmware has granted the physical function every target (R51) -/
  pfGranted : Bool
  parts : Tbl Partition
  /-- TLBs (R172), oldest entry first: of tile t under t, of cluster c under 256 + c -/
  tlbs : Tbl (List TlbEntry)
  fqs : Tbl FQ
  funcs : Tbl Func
  herderBox : Mailbox
  accessBox : Mailbox
  drsel : Dword
  /-- size of the physical function's aperture M: 2^30 shifted left by this (R44) -/
  barLog : BitVec 4
  arb : ArbSt
  /-- package time since which the arbitration logic has had nothing to do, or has been in its gated state (R50) -/
  arbSince : Dword
  /-- Herder B, on die 3, is the active Herder; else Herder A, on die 0 (R8, R63) -/
  herderB : Bool
  dies : Tbl Die
  modules : Tbl Link
  ports : Tbl Link
  rmems : Tbl RMem
  units : Tbl UnitRec
  periods : Tbl Nat
  /-- by unit kind: package time at which its last rotation period ended (R122) -/
  periodAt : Tbl Dword
  recalls : Tbl (List Byte)
  nextRecall : Nat
  /-- partitions exported from this package (R226) -/
  exports : NSet
  /-- MSI-X vectors raised: function × 64 + vector, oldest first -/
  irqs : List Nat
  /-- answers given to the host and the management port, newest first -/
  answers : List Answer
  /-- WAITSIG packets to be evaluated after an update by the Herder (R74): work numbers -/
  evalNow : NSet
  /-- WAITSIG packets that a SIGNOTE asks for, and those of them that name its signal (R74, R305) -/
  evalDue : NSet
  noteFirst : NSet
  /-- an error or alert raised on the management port: codes -/
  alerts : List Byte
deriving DecidableEq, Repr

/-- The state of the machine. -/
structure State where
  turn : Turn
  m : Mach
  pwr : Power
  fw : Firmware
deriving DecidableEq, Repr

/-- Reasons a step could stop with a fault. No step of this model does: every condition the spec gives has a state
that follows it, so the type has one reason that nothing raises. Safe. -/
inductive Fault where
  /-- raised by no step; safe -/
  | none
deriving DecidableEq, Repr

/-- Reasons a step could be refused. -/
inductive Refusal where
  /-- raised by an arm of `exec` whose instruction has no meaning yet; safe -/
  | notModelled (mnemonic : String)
deriving DecidableEq, Repr

/-! ### Reset values -/

/-- A thread at reset: KSTAT 0 (R308), KCAP.AVAIL 8 (R311), no item; the registers without a stated reset value
are 0 (log 2). -/
def Thread.reset : Thread :=
  { g := [], pc := 0, st := .idle, kstat := 0, kepc := 0, kcause := 0, ktval := 0, ktvec := 0, kscratch := 0,
    kcap := 8, kevt := 0, ktdbg := 0, kbpa := [], wbuf := [], asyncs := [], out := .none, sup := .none,
    arrivals := [], pull := .none, hold := .none, stepTrap := false, fence := .none, lastPart := .none }

def MCore.reset : MCore := ⟨[], []⟩

def AqEntry.zero : AqEntry := ⟨0, 0, false, false, 0⟩

def SqCtr.off : SqCtr := ⟨false, 0, 0⟩

def Chain.reset : Chain :=
  { st := .idle, cur := 0, latched := .none, phase := .waits, cause := 0, pseq := 0, flags := 0, issue := 0,
    i0 := 0, i1 := 0, i2 := 0, i3 := 0, wtaken := false, due := 0, dueSig := [], last := false, flight := [], loops := [], outw := 0, outst := (0, 0),
    answers := [], hist := [], red := [], glh := 0, glmask := 0, halted := false }

def Plane.none : Plane := ⟨0, false, 0, 0, [], [], [], [], []⟩

def MxExt.reset : MxExt :=
  { p0 := Plane.none, p1 := Plane.none, winP0 := Plane.none, winP1 := Plane.none, tsblk := 0, win0 := (0, 0, 0, 0), winIssue := 0, winLoops := [], winAcfg := [], repl := false, glb := false,
    writ := [], init := [], defer := [], ringHeads := [], dup := [], replaying := Option.none, withheld := [],
    drained := [], drainAt := Option.none, winWithheld := [], winDrained := [], dupPois := [] }

def Ring.off : Ring := ⟨0, 0, (0, 0), (0, 0), .none, .none⟩
def Window.off : Window := ⟨0, 0, 0, 0⟩

def Ctx.reset : Ctx :=
  { store := [], storePois := [], acc := [], accPois := [], acfg := [], sems := [], rings := [], wins := [],
    hnd := [], ld := Chain.reset, mx := Chain.reset, vx := Chain.reset, st := Chain.reset, ext := MxExt.reset,
    tec := [], tes := [], macs := 0, owed := [] }

def Tile.reset : Tile :=
  { ctx := Ctx.reset, bind := none, service := .inService, parity := false, halting := false, thrHalted := false, exchanging := false,
    kennel := none, kwrites := [], idleAt := 0, slotAcc := [], slotPois := [], slotFrom := false }

/-- R66: WEIGHT 1, LOG2N 4, everything else 0. -/
def Queue.reset : Queue :=
  { owner := 0, base := 0, weight := 1, part := 0, prio := 0, log2n := 4, cidx := 0, latch := 0, errcode := 0,
    state := .free, erridx := 0, held := none, skip := 0, used := 0, stall := none }

def Bar.free : Bar := ⟨0, false, 0, [], [], [], [], [], []⟩

/-- R92: no partition listed, the default slice of 2 ms in units of 100 µs. -/
def CluEntry.reset : CluEntry := ⟨0, 0, 20, none, 0, none⟩

def Mailbox.reset : Mailbox := ⟨[], [], 0, 0, 0, 0, 0, false, 0, none⟩

/-- R173, R175: DONE reads 1. -/
def FQ.reset : FQ := ⟨0, 0, [], [], [], false, 0, 0, 0, true, 0, 0, true⟩

def Partition.reset : Partition := ⟨0, 0, 0, [], false⟩

/-- PCIe configuration registers at reset (log 124). -/
def PciCfg.reset : PciCfg := ⟨[], 0, 0, 0, 0⟩

def Func.reset : Func := ⟨0, none, [], 0, none, [], PciCfg.reset, 0, []⟩

/-- A link end at link-up: SEQ 0, E 0 and full credits (R28, R31); the credits are given as what has been spent. -/
def LEnd.reset : LEnd :=
  { txSeq := 0, held := [], resend := [], replays := 0, e := 0, nakPending := false, reports := [], resuming := false,
    credits := [], give := [], buf := [], wire := [], since := 0, akSince := 0, sentReport := false, reported := false }

/-- Links before boot trains them: DOWN (log 2). -/
def Link.reset : Link := ⟨.down, false, 0, LEnd.reset, LEnd.reset, 0, 0, 0⟩

def RSet.reset : RSet := ⟨false, 0, 0, 0, [], 0, []⟩
def RMem.reset : RMem := ⟨0, []⟩

def UnitRec.reset : UnitRec := ⟨0, [], [], 0, false, false, none, 0, 0, false⟩

def LeaseRec.free : LeaseRec := ⟨0, 0, 0, 0⟩

def LGroup.free : LGroup := ⟨0, 0, 0, [], []⟩

def Die.reset : Die :=
  { tickets := [], tags := [], tagq := [], tagNext := [], comp := [], outq := [], inq := [], retireAt := [], vlog := [], logcnt := 0, leases := [], rotNext := [], rotAt := [],
    clog := [], whole := [], sramErr := [], dec := [], des := [], copies := [], fwds := [], routing := [], rsets := [] }

def Mach.reset : Mach :=
  { time := 0, pkg := 0, fresh := 0, mem := [], poisS := [], poisW := [], symErr := [], sram1 := [], sram2 := [], scrubs := [], scrubPos := [],
    knownBad := [], withheld := [], hostMem := [], threads := [], cores := [], tiles := [], slots := [], bars := [], clusters := [],
    queues := [], rr := [], works := [], insts := [], iterLeft := [], launches := [], nextWork := 0, nextLid := 1, nextMark := 0, groups := [],
    classes := [], access := [], pfGranted := false, parts := [], tlbs := [], fqs := [], funcs := [], herderBox := Mailbox.reset,
    accessBox := Mailbox.reset, drsel := 0, barLog := 0, arb := .running, arbSince := 0, herderB := false, dies := [], modules := [], ports := [],
    rmems := [], units := [], periods := [], periodAt := [], recalls := [], nextRecall := 0, exports := [], irqs := [],
    answers := [], evalNow := [], evalDue := [], noteFirst := [], alerts := [] }

/-- R19, R57: step 0, PCAP 2,800. -/
def Power.reset : Power := ⟨2800, 2800, 0, 0, 0, 0, false, none⟩

def Firmware.reset : Firmware :=
  { boot := .rom, bank0 := ⟨none, false⟩, bank1 := ⟨none, false⟩, preferred := false, running := none, fwver := 0,
    svn := Config.fusedSvn, slots := [], staged := false, upd := .none, dropsFlash := [], dropsHeld := [],
    dropSeq := 0, retiredFlash := [], withheldFlash := [], alerts := [], pcieTrained := none }

/-- The machine right after power-on reset, before the boot ROM's first step (R60): every register at the value the
spec gives, the others as assumption log 2 names. -/
def State.reset : State := ⟨Turn.idle, Mach.reset, Power.reset, Firmware.reset⟩

end Sys2Proof.Machine
end

