-- ==== Sys2Proof/Machine/Num.lean ====
section
/-! DEFINITION. Number formats and arithmetic (10_number_formats.md): decoding and encoding of every format, rounding and
conversion (R207, R208), the IEEE operations (R211, R212), the approximations (R215, R216), AQ128 entries (R204-R206) and
integer division (R217). A value is exact: NaN, an infinity, or a sign with m · 2^e. -/
namespace Sys2Proof.Machine

/-- A decoded value: (−1)^neg · m · 2^e. Zero keeps its sign. -/
inductive Val where
  | nan
  | inf (neg : Bool)
  | num (neg : Bool) (m : Nat) (e : Int)
deriving DecidableEq, Repr, Inhabited

/-- A floating-point format: width, sign, trailing bits, bias, infinities, and whether it is one of the standard
formats (R197) or a binaryKpP (R199). -/
structure FFmt where
  k : Nat
  signed : Bool
  t : Nat
  bias : Int
  hasInf : Bool
  std : Bool
deriving DecidableEq, Repr, Inhabited

inductive Fmt where
  | flt (f : FFmt)
  | int (w : Nat) (signed : Bool)
  | aq
deriving DecidableEq, Repr, Inhabited

def fp32 : FFmt := ⟨32, true, 23, 127, true, true⟩
def bf16 : FFmt := ⟨16, true, 7, 127, true, true⟩
def fp16 : FFmt := ⟨16, true, 10, 15, true, true⟩

/-- A binaryKpP format (R199). -/
def kpFmt (k : Nat) (unsigned fin : Bool) (p : Nat) : FFmt :=
  { k := k, signed := !unsigned, t := p - 1, bias := if unsigned then 2 ^ (k - p) else 2 ^ (k - p - 1),
    hasInf := !fin, std := false }

/-- The format a code names (R195, R196). -/
def fmtOf (c : Byte) : Option Fmt :=
  let n := c.toNat
  if n = 1 then some (.flt fp32)
  else if n = 2 then some (.flt bf16)
  else if n = 3 then some (.flt fp16)
  else if n = 4 then some (.int 8 true)
  else if n = 5 then some (.int 8 false)
  else if n = 6 then some (.int 32 true)
  else if n = 7 then some .aq
  else if n = 8 then some (.int 16 true)
  else if n < 0x40 then none
  else
    let p := n % 8
    let k := if n / 64 = 1 then 8 else if n / 64 = 2 then 6 else 4
    let lim := if k = 8 then 7 else if k = 6 then 5 else 3
    if tst n 3 ∨ p = 0 ∨ lim < p then none else some (.flt (kpFmt k (tst n 5) (tst n 4) p))

/-- width(f) of R255. -/
def Fmt.width : Fmt → Nat
  | .flt f => f.k
  | .int w _ => w
  | .aq => 128

/-! ### Exact values -/

def Val.neg' : Val → Val
  | .nan => .nan
  | .inf s => .inf (!s)
  | .num s m e => .num (!s) m e

/-- m · 2^(e − q) as a Nat where e ≥ q. -/
def shl (m : Nat) (e q : Int) : Nat := m * 2 ^ (e - q).toNat

/-- Compare magnitudes m·2^e and m'·2^e'. -/
def magLt (m : Nat) (e : Int) (m' : Nat) (e' : Int) : Bool :=
  let q := min e e'
  decide (shl m e q < shl m' e' q)

def signedInt (s : Bool) (m : Nat) : Int := if s then -(Int.ofNat m) else Int.ofNat m

/-- a < b for values that are not NaN; −0 and +0 are equal. -/
def valLt : Val → Val → Bool
  | .inf s, .inf s' => s && !s'
  | .inf s, .num _ _ _ => s
  | .num _ _ _, .inf s => !s
  | .num s m e, .num s' m' e' =>
    let q := min e e'
    decide (signedInt s (shl m e q) < signedInt s' (shl m' e' q))
  | _, _ => false

def valEq : Val → Val → Bool
  | .inf s, .inf s' => s = s'
  | .num s m e, .num s' m' e' =>
    let q := min e e'
    decide (signedInt s (shl m e q) = signedInt s' (shl m' e' q))
  | _, _ => false

/-! ### Rounding -/

/-- Round n + (r / d) with 0 ≤ r < d to an integer; `neg` the sign of the whole; `even` says which candidate a tie
takes: true keeps n. -/
def roundUp (rm : BitVec 2) (neg : Bool) (r d : Nat) (tieDown : Bool) : Bool :=
  if r = 0 then false
  else if rm = 0 then decide (d < 2 * r) || (decide (2 * r = d) && !tieDown)
  else if rm = 1 then false
  else if rm = 2 then !neg
  else neg

/-- round_int (R204): the magnitude of m · 2^e rounded to an integer, and whether it was exact. -/
def roundInt (rm : BitVec 2) (neg : Bool) (m : Nat) (e : Int) : Nat × Bool :=
  if 0 ≤ e then (m * 2 ^ e.toNat, true)
  else
    let d := 2 ^ (-e).toNat
    let n := m / d
    let r := m % d
    (n + (if roundUp rm neg r d (n % 2 = 0) then 1 else 0), r = 0)

/-- round_grid (R207): the rounded magnitude n · 2^q, and whether it was exact. -/
def roundGrid (f : FFmt) (rm : BitVec 2) (neg : Bool) (m : Nat) (e : Int) : Nat × Int × Bool :=
  if m = 0 then (0, 0, true)
  else
    let top := e + Int.ofNat (Nat.log2 m)
    let q := max (top - f.t) (1 - f.bias - f.t)
    if q ≤ e then (shl m e q, q, true)
    else
      let d := 2 ^ (q - e).toNat
      let n := m / d
      let r := m % d
      let tieDown := if f.t = 0 then (n = 0 || (q + f.bias) % 2 = 0) else n % 2 = 0
      (n + (if roundUp rm neg r d tieDown then 1 else 0), q, r = 0)

/-! ### Codes -/

/-- The code of a magnitude on the grid, without its sign (R197, R199). -/
def encodeMag (f : FFmt) (n : Nat) (q : Int) : Nat :=
  if n = 0 then 0
  else
    let top := q + Int.ofNat (Nat.log2 n)
    if top < 1 - f.bias then shl n q (1 - f.bias - f.t)
    else
      let frac := if f.t ≤ Nat.log2 n then n / 2 ^ (Nat.log2 n - f.t) else n * 2 ^ (f.t - Nat.log2 n)
      (top + f.bias).toNat * 2 ^ f.t + (frac - 2 ^ f.t)

def nanCode (f : FFmt) : Nat :=
  if f.std then (2 ^ (f.k - f.t - 1) - 1) * 2 ^ f.t + 2 ^ (f.t - 1)
  else if f.signed then 2 ^ (f.k - 1) else 2 ^ f.k - 1

def infCode (f : FFmt) (neg : Bool) : Nat :=
  if f.std then (2 ^ (f.k - f.t - 1) - 1) * 2 ^ f.t + (if neg then 2 ^ (f.k - 1) else 0)
  else if f.signed then (if neg then 2 ^ f.k - 1 else 2 ^ (f.k - 1) - 1)
  else 2 ^ f.k - 2

/-- The code of the largest finite magnitude. -/
def maxCode (f : FFmt) : Nat :=
  if f.std then (2 ^ (f.k - f.t - 1) - 1) * 2 ^ f.t - 1
  else if f.signed then (if f.hasInf then 2 ^ (f.k - 1) - 2 else 2 ^ (f.k - 1) - 1)
  else (if f.hasInf then 2 ^ f.k - 3 else 2 ^ f.k - 2)

/-- The magnitude an ordinary code stands for, its sign bit removed (decode_kp of R199, and R197). -/
def magOf (f : FFmt) (c : Nat) : Nat × Int :=
  let t := c % 2 ^ f.t
  let e := c / 2 ^ f.t
  if e = 0 then (t, 1 - f.bias - f.t) else (2 ^ f.t + t, Int.ofNat e - f.bias - f.t)

/-- A code's value (R197, R199). -/
def decodeF (f : FFmt) (c : Nat) : Val :=
  if f.std then
    let neg := tst c (f.k - 1)
    let body := c % 2 ^ (f.k - 1)
    let emax := 2 ^ (f.k - f.t - 1) - 1
    if body / 2 ^ f.t = emax then (if body % 2 ^ f.t = 0 then .inf neg else .nan)
    else
      let (m, e) := magOf f body
      .num neg m e
  else if c = nanCode f then .nan
  else if f.hasInf ∧ c = infCode f false then .inf false
  else if f.hasInf ∧ f.signed ∧ c = infCode f true then .inf true
  else
    let neg := f.signed && tst c (f.k - 1)
    let (m, e) := magOf f (if f.signed then c % 2 ^ (f.k - 1) else c)
    .num neg m e

/-- An element's value under a format; aq128 as the integer (R205). -/
def decodeVal (f : Fmt) (c : Nat) : Val :=
  match f with
  | .flt g => decodeF g c
  | .int w s => if s ∧ tst c (w - 1) then .num true (2 ^ w - c) 0 else .num false c 0
  | .aq => if tst c 127 then .num true (2 ^ 128 - c) 0 else .num false c 0

/-- Sticky flag bits (R210). -/
def flNV : BitVec 16 := 1
def flDZ : BitVec 16 := 2
def flOF : BitVec 16 := 4
def flUF : BitVec 16 := 8
def flNX : BitVec 16 := 16
def flAQLOSS : BitVec 16 := 32
def flAQRANGE : BitVec 16 := 64
def flAQSPEC : BitVec 16 := 128
def flAQOVER : BitVec 16 := 256

def signBit (f : FFmt) (neg : Bool) : Nat := if neg then 2 ^ (f.k - 1) else 0

/-- convert to a floating-point format (R207): code and flags. -/
def convertF (f : FFmt) (x : Val) (rm : BitVec 2) (sat : Bool) : Nat × BitVec 16 :=
  match x with
  | .nan => (nanCode f, 0)
  | .inf neg =>
    if !f.signed && neg then (if sat then 0 else nanCode f, flNV)
    else if f.hasInf then (infCode f neg, 0)
    else (if sat then maxCode f + signBit f neg else nanCode f, flOF)
  | .num neg m e =>
    let (n, q, exact) := roundGrid f rm neg m e
    if !f.signed && neg && m ≠ 0 then
      if n = 0 then (0, flUF ||| flNX) else (if sat then 0 else nanCode f, flNV)
    else
      let (mm, me) := magOf f (maxCode f)
      if magLt mm me n q then
        let fl := flOF ||| flNX
        if sat then (maxCode f + (if f.signed then signBit f neg else 0), fl)
        else if !f.hasInf then (nanCode f, fl)
        else if rm = 0 || (rm = 2 && !neg) || (rm = 3 && neg) then (infCode f neg, fl)
        else (maxCode f + (if f.signed then signBit f neg else 0), fl)
      else
        let tiny := magLt n q 1 (1 - f.bias)
        let fl := if exact then 0 else if tiny then flNX ||| flUF else flNX
        if n = 0 then ((if f.std then signBit f neg else 0), fl)
        else (encodeMag f n q + (if f.signed then signBit f neg else 0), fl)

/-- Conversion to an integer of `w` bits, always saturating (R208): the integer and flags. -/
def convertI (w : Nat) (signed : Bool) (x : Val) (rm : BitVec 2) : Int × BitVec 16 :=
  let lo : Int := if signed then -(2 ^ (w - 1)) else 0
  let hi : Int := if signed then 2 ^ (w - 1) - 1 else 2 ^ w - 1
  match x with
  | .nan => (0, flNV)
  | .inf neg => (if neg then lo else hi, flNV)
  | .num neg m e =>
    let (n, exact) := roundInt rm neg m e
    let v := signedInt neg n
    if v < lo then (lo, flNV) else if hi < v then (hi, flNV) else (v, if exact then 0 else flNX)

/-- convert (R207, R208) to any format but aq128: the element's code and flags. -/
def convert (f : Fmt) (x : Val) (rm : BitVec 2) (sat : Bool) : Nat × BitVec 16 :=
  match f with
  | .flt g => convertF g x rm sat
  | .int w s =>
    let (v, fl) := convertI w s x rm
    ((BitVec.ofInt w v).toNat, fl)
  | .aq =>
    match x with
    | .num neg m e => ((BitVec.ofInt 128 (signedInt neg (roundInt 0 neg m e).1)).toNat, 0)
    | _ => (0, 0)

/-- FTZI on an input of fp32, bf16 or fp16 (R209). -/
def ftzIn (f : Fmt) (on : Bool) (v : Val) : Val :=
  match f, v with
  | .flt g, .num neg m e => if on && g.std && m ≠ 0 && magLt m e 1 (1 - g.bias) then .num neg 0 0 else v
  | _, _ => v

/-- FTZO on a result code of fp32, bf16 or fp16 (R209). -/
def ftzOut (f : Fmt) (on : Bool) (r : Nat × BitVec 16) : Nat × BitVec 16 :=
  match f with
  | .flt g =>
    let body := r.1 % 2 ^ (g.k - 1)
    if on && g.std && body ≠ 0 && body / 2 ^ g.t = 0 then (r.1 - body, r.2 ||| flUF ||| flNX) else r
  | _ => r

/-! ### IEEE operations (R211): exact results before rounding -/

/-- Exact sum; the sign of an exact zero of operands with opposite signs follows the rounding mode. -/
def valAdd (rm : BitVec 2) : Val → Val → Val × BitVec 16
  | .nan, _ => (.nan, 0)
  | _, .nan => (.nan, 0)
  | .inf s, .inf s' => if s = s' then (.inf s, 0) else (.nan, flNV)
  | .inf s, .num _ _ _ => (.inf s, 0)
  | .num _ _ _, .inf s => (.inf s, 0)
  | .num s m e, .num s' m' e' =>
    let q := min e e'
    let v := signedInt s (shl m e q) + signedInt s' (shl m' e' q)
    if v = 0 then (if s = s' then .num s 0 q else .num (rm = 3) 0 q, 0)
    else (.num (v < 0) v.natAbs q, 0)

def valMul : Val → Val → Val × BitVec 16
  | .nan, _ => (.nan, 0)
  | _, .nan => (.nan, 0)
  | .inf s, .inf s' => (.inf (s != s'), 0)
  | .inf s, .num s' m _ => if m = 0 then (.nan, flNV) else (.inf (s != s'), 0)
  | .num s m _, .inf s' => if m = 0 then (.nan, flNV) else (.inf (s != s'), 0)
  | .num s m e, .num s' m' e' => (.num (s != s') (m * m') (e + e'), 0)

/-- fma with one rounding: a product of 0 × ∞ sets NV whatever the addend (R211). -/
def valFma (rm : BitVec 2) (a b c : Val) : Val × BitVec 16 :=
  let (p, fl) := valMul a b
  if fl ≠ 0 then (.nan, fl) else valAdd rm p c

/-- Largest s with s² ≤ n, bit by bit. -/
def isqrtAux (n : Nat) : Nat → Nat → Nat
  | 0, s => s
  | b + 1, s => let s' := s + 2 ^ b; isqrtAux n b (if s' * s' ≤ n then s' else s)
def isqrt (n : Nat) : Nat := isqrtAux n (Nat.log2 n / 2 + 1) 0

/-- Square root with a sticky bit below its last place, enough for any format's rounding. -/
def valSqrt : Val → Val × BitVec 16
  | .nan => (.nan, 0)
  | .inf s => if s then (.nan, flNV) else (.inf false, 0)
  | .num s m e =>
    if m = 0 then (.num s 0 0, 0)
    else if s then (.nan, flNV)
    else
      let (m, e) := if e % 2 = 0 then (m, e) else (m * 2, e - 1)
      let n := m * 2 ^ 80
      let r := isqrt n
      (.num false (2 * r + (if r * r = n then 0 else 1)) (e / 2 - 41), 0)

/-- Round an exact result to fp32 or bf16 with the flags of the operation. -/
def roundTo (f : Fmt) (rm : BitVec 2) (ftzo : Bool) (r : Val × BitVec 16) : Nat × BitVec 16 :=
  let (c, fl) := ftzOut f ftzo (convert f r.1 rm false)
  (c, fl ||| r.2)

/-- fmin, fmax (R212): −0 is less than +0. -/
def valMin (a b : Val) : Val :=
  match a, b with
  | .nan, _ => .nan
  | _, .nan => .nan
  | _, _ =>
    if valLt a b then a else if valLt b a then b
    else match a with
      | .num true _ _ => a
      | _ => b

def valMax (a b : Val) : Val :=
  match a, b with
  | .nan, _ => .nan
  | _, .nan => .nan
  | _, _ =>
    if valLt a b then b else if valLt b a then a
    else match a with
      | .num true _ _ => b
      | _ => a

/-! ### The approximations (R215, R216) -/

/-- Truncate a positive exact magnitude m · 2^e, with `sticky` for a non-zero tail below it, to `p` significant bits, or
where it is below the smallest normal magnitude to the subnormal grid of `f` instead: the code without sign, and flags. -/
def truncTo (f : FFmt) (p m : Nat) (e : Int) (sticky : Bool) : Nat × BitVec 16 :=
  let tiny := magLt m e 1 (1 - f.bias)
  let drop := Nat.log2 m + 1 - p
  let (n, q, exact) := if tiny then roundGrid f 1 false m e else (m / 2 ^ drop, e + drop, decide (m % 2 ^ drop = 0))
  (encodeMag f n q, if sticky || !exact then (if tiny then flNX ||| flUF else flNX) else 0)

/-- Significant bits kept: 12, or 8 for bf16. -/
def approxBits (f : FFmt) : Nat := if f.k = 16 then 8 else 12

def rcpa (f : FFmt) (x : Val) : Nat × BitVec 16 :=
  match x with
  | .nan => (nanCode f, 0)
  | .inf s => (signBit f s, 0)
  | .num s m e =>
    if m = 0 then (infCode f s, flDZ)
    else if !magLt 1 (-128) m e then (infCode f s, flOF ||| flNX)
    else
      let k := Nat.log2 m + 40
      let (c, fl) := truncTo f (approxBits f) (2 ^ k / m) (-(Int.ofNat k) - e) (2 ^ k % m ≠ 0)
      (c + signBit f s, fl)

def rsqa (f : FFmt) (x : Val) : Nat × BitVec 16 :=
  match x with
  | .nan => (nanCode f, 0)
  | .inf s => if s then (nanCode f, flNV) else (0, 0)
  | .num s m e =>
    if m = 0 then (infCode f s, flDZ)
    else if s then (nanCode f, flNV)
    else
      let (m, e) := if e % 2 = 0 then (m, e) else (m * 2, e - 1)
      let k := Nat.log2 m + 60
      let y := 2 ^ (2 * k) / m
      let r := isqrt y
      truncTo f (approxBits f) r (-(Int.ofNat k) - e / 2) (r * r * m ≠ 2 ^ (2 * k))

/-- Greatest n below 2^(b+1) in its top bits with n^(2^k) ≤ 2^c: bits are tried from the highest down. -/
def rootSearch (k c : Nat) : Nat → Nat → Nat
  | 0, n => n
  | b + 1, n => let n' := n + 2 ^ b; rootSearch k c b (if n' ^ (2 ^ k) ≤ 2 ^ c then n' else n)

/-- Bits below 1 that the bounds of 2^x and log2 carry. -/
def guardBits : Nat := 224

/-- Bounds of 2^(p / 2^k), 0 ≤ p < 2^k, scaled by 2^guardBits: the fraction's bits from the highest down, each factor the
square root of the one before (`rlo`, `rhi` its bounds). -/
def powBounds (p : Nat) : Nat → Nat × Nat → Nat × Nat → Nat × Nat
  | 0, _, x => x
  | k + 1, r, x =>
    let g := 2 ^ guardBits
    let r := (isqrt (r.1 * g), isqrt (r.2 * g) + 1)
    powBounds p k r (if tst p k then (x.1 * r.1 / g, x.2 * r.2 / g + 1) else x)

/-- 2^x: with x = i + p / 2^k, the significand 2^(p/2^k) in [1, 2) truncated to 24 bits, as many as a result keeps: by its
bounds, and by exact comparison where they do not settle it. -/
def exp2a (f : FFmt) (x : Val) : Nat × BitVec 16 :=
  match x with
  | .nan => (nanCode f, 0)
  | .inf s => (if s then 0 else infCode f false, 0)
  | .num s m e =>
    if m = 0 then (encodeMag f 1 0, 0)
    else if !s && !magLt m e 1 7 then (infCode f false, flOF ||| flNX)
    else if s && magLt (if f.k = 16 then 133 else 149) 0 m e then (0, flUF ||| flNX)
    else
      let k := if e < 0 then (-e).toNat else 0
      let v := signedInt s (shl m e (-(Int.ofNat k)))
      let i := v / 2 ^ k
      let p := (v % 2 ^ k).toNat
      let b := 24
      let y := powBounds p k (2 * 2 ^ guardBits, 2 * 2 ^ guardBits) (2 ^ guardBits, 2 ^ guardBits)
      let drop := 2 ^ (guardBits + 1 - b)
      let n := if p = 0 then 2 ^ (b - 1)
        else if y.1 / drop = y.2 / drop then y.1 / drop else rootSearch k ((b - 1) * 2 ^ k + p) b 0
      truncTo f (approxBits f) n (i - (Int.ofNat b - 1)) (p ≠ 0)

/-- The greatest n below 2^b with 2^(n / 2^s) at most m / 2^lg, 1 ≤ m / 2^lg < 2, by exact comparison. -/
def logSearch (m lg s : Nat) : Nat → Nat → Nat
  | 0, n => n
  | b + 1, n =>
    let n' := n + 2 ^ b
    logSearch m lg s b (if 2 ^ n' * 2 ^ (lg * 2 ^ s) ≤ m ^ (2 ^ s) then n' else n)

/-- The bits of log2 y for 1 ≤ y < 2 by squaring bounds of y, scaled by 2^guardBits; none where the bounds do not settle a
bit. -/
def logBits : Nat → Nat → Nat → Nat → Option Nat
  | 0, _, _, n => some n
  | s + 1, lo, hi, n =>
    let g := 2 ^ guardBits
    let lo := lo * lo / g
    let hi := hi * hi / g + 1
    if 2 * g ≤ lo then logBits s (lo / 2) (hi / 2 + 1) (2 * n + 1)
    else if hi < 2 * g then logBits s lo hi (2 * n)
    else none

/-- The logarithm of m / 2^lg in [1, 2), truncated to 48 bits below 1. -/
def logFrac (m lg : Nat) : Nat :=
  let y := m * 2 ^ guardBits / 2 ^ lg
  (logBits 48 y (y + 1) 0).getD (logSearch m lg 48 48 0)

def log2a (f : FFmt) (x : Val) : Nat × BitVec 16 :=
  match x with
  | .nan => (nanCode f, 0)
  | .inf s => if s then (nanCode f, flNV) else (infCode f false, 0)
  | .num s m e =>
    if m = 0 then (infCode f true, flDZ)
    else if s then (nanCode f, flNV)
    else if valEq x (.num false 1 0) then (0, 0)
    else
      let lt1 := magLt m e 1 0
      let top := e + Int.ofNat (Nat.log2 m)
      let exact := decide (m = 2 ^ Nat.log2 m)
      let sb := signBit f lt1
      if exact then
        let (c, fl) := truncTo f (approxBits f) top.natAbs 0 false
        (c + sb, fl)
      else
        -- not a power of two: the logarithm is no multiple of 2^-48, and 48 such bits hold the 12 significant ones
        let l := logFrac m (Nat.log2 m)
        let n := if lt1 then top.natAbs * 2 ^ 48 - l - 1 else top.natAbs * 2 ^ 48 + l
        let (c, fl) := truncTo f (approxBits f) n (-48) true
        (c + sb, fl)

/-! ### AQ128 entries (R204-R206) -/

def cntMax : Nat := 2 ^ 31 + 1

/-- aq_product (R204). -/
def aqProduct (a b sa sb : Val) : Val :=
  let vs := [a, b, sa, sb]
  if vs.any (fun v => v = .nan) then .nan
  else
    let isInf := fun (v : Val) => match v with
      | .inf _ => true
      | _ => false
    let isZero := fun (v : Val) => match v with
      | .num _ 0 _ => true
      | _ => false
    let sg := fun (v : Val) => match v with
      | .inf s => s
      | .num s _ _ => s
      | .nan => false
    if vs.any isInf then
      if vs.any isZero then .nan else .inf (sg a != sg b)
    else
      vs.foldl (fun acc v => (valMul acc v).1) (.num false 1 0)

/-- The integer a term adds: rounded at the anchor, clamped to 2^96 − 1, with LOSS and RANGE. -/
def aqTerm (neg : Bool) (m : Nat) (e anchor : Int) : Int × Bool × Bool × Bool :=
  let (t, exact) := roundInt 0 neg m (e - anchor)
  let range := decide (2 ^ 96 ≤ t)
  let t := if range then 2 ^ 96 - 1 else t
  (signedInt neg t, decide (m ≠ 0 ∧ t = 0), range, exact)

/-- aq_accumulate (R204). -/
def aqAccumulate (x : AqEntry) (p : Val) (anchor : Int) : AqEntry :=
  let cnt := BitVec.ofNat 32 (Nat.min (x.cnt.toNat + 1) cntMax)
  match p with
  | .nan => { x with spec := 3, cnt := cnt }
  | .inf s => { x with spec := x.spec ||| (if s then 2 else 1), cnt := cnt }
  | .num neg m e =>
    let (t, loss, range, _) := aqTerm neg m e anchor
    { i := x.i + BitVec.ofInt 128 t, spec := x.spec, loss := x.loss || loss, range := x.range || range, cnt := cnt }

/-- aq_terms (R204). -/
def aqTerms (v : Quad) : Nat := cdiv v.toInt.natAbs (2 ^ 96 - 1)

/-- aq_merge (R204). -/
def aqMerge (x : AqEntry) (i : Quad) (spec : BitVec 2) (loss range : Bool) : AqEntry :=
  { i := x.i + i, spec := x.spec ||| spec, loss := x.loss || loss, range := x.range || range,
    cnt := BitVec.ofNat 32 (Nat.min (x.cnt.toNat + Nat.max 1 (aqTerms i)) cntMax) }

/-- aq_from_value (R206). -/
def aqFromValue (v : Val) (anchor : Int) : AqEntry :=
  match v with
  | .nan => { AqEntry.zero with spec := 3 }
  | .inf s => { AqEntry.zero with spec := if s then 2 else 1 }
  | .num neg m e =>
    let (t, _, range, exact) := aqTerm neg m e anchor
    { i := BitVec.ofInt 128 t, spec := 0, loss := !exact, range := range,
      cnt := BitVec.ofNat 32 (aqTerms (BitVec.ofInt 128 t)) }

/-- aq_rebase (R206). -/
def aqRebase (x : AqEntry) (aOld aNew : Int) : AqEntry :=
  let v := x.i.toInt
  let neg := decide (v < 0)
  let (t, exact) := roundInt 0 neg v.natAbs (aOld - aNew)
  let range := decide (2 ^ 127 - 1 < t)
  let t := signedInt neg (if range then 2 ^ 127 - 1 else t)
  { i := BitVec.ofInt 128 t, spec := x.spec, loss := x.loss || !exact, range := x.range || range,
    cnt := BitVec.ofNat 32 (Nat.min (Nat.max x.cnt.toNat (aqTerms (BitVec.ofInt 128 t))) cntMax) }

/-- The value of an entry for conversion (aq_to_format of R206). -/
def aqValue (x : AqEntry) (anchor : Int) (smap : Bool) : Val :=
  if x.spec = 3 then .nan
  else if x.spec = 1 then (if smap then .inf false else .nan)
  else if x.spec = 2 then (if smap then .inf true else .nan)
  else .num (x.i.toInt < 0) x.i.toInt.natAbs anchor

/-- aq_to_format (R206): the code and the conversion's flags. -/
def aqToFormat (x : AqEntry) (anchor : Int) (f : Fmt) (rm : BitVec 2) (sat smap : Bool) : Nat × BitVec 16 :=
  match f with
  | .aq => (x.i.toNat, 0)
  | _ => convert f (aqValue x anchor smap) rm sat

/-- The sticky flags a moved entry sets (R206). -/
def aqFlags (x : AqEntry) : BitVec 16 :=
  (if x.spec ≠ 0 then flAQSPEC else 0) ||| (if x.loss then flAQLOSS else 0) ||| (if x.range then flAQRANGE else 0) |||
    (if 2 ^ 31 < x.cnt.toNat then flAQOVER else 0)

/-! ### Integer division (R217) -/

def intDiv (a b : Int) (w : Nat) (signed : Bool) : Int :=
  let lo : Int := if signed then -(2 ^ (w - 1)) else 0
  let hi : Int := if signed then 2 ^ (w - 1) - 1 else 2 ^ w - 1
  if b = 0 then (if a < 0 then lo else if a = 0 then 0 else hi)
  else min (max (a.tdiv b) lo) hi

def intRem (a b : Int) : Int := if b = 0 then a else a - b * a.tdiv b

/-! ### Scalar FP32 of the Musher (R213, R281, R282) -/

def fval (x : Dword) : Val := decodeF fp32 (x.toNat % 2 ^ 32)
def fres (r : Val × BitVec 16) : Dword := BitVec.ofNat 64 (convertF fp32 r.1 0 false).1

end Sys2Proof.Machine
end

