-- ==== Sys2Proof/Machine/Flags.lean ====
section
/-! DEFINITION. Values read from and written to elements with their sticky flags: decoding under FTZI, conversion under
FTZO, ring conversion (R207-R212, R320, R323), and the fixed reduction tree (R214). -/
namespace Sys2Proof.Machine

/-- The format a code names; fp32 stands for a code that names none, which no checked block carries. -/
def fmtD (c : Byte) : Fmt := (fmtOf c).getD (.flt fp32)

/-- An element's value after FTZI (R209). -/
def inVal (c : Byte) (ftzi : Bool) (x : Nat) : Val := ftzIn (fmtD c) ftzi (decodeVal (fmtD c) x)

/-- convert with FTZO (R207-R209). -/
def outCode (c : Byte) (rm : BitVec 2) (sat ftzo : Bool) (v : Val) : Nat × BitVec 16 :=
  ftzOut (fmtD c) ftzo (convert (fmtD c) v rm sat)

/-- The result of an operation that carries flags of its own, converted. -/
def outRes (c : Byte) (rm : BitVec 2) (sat ftzo : Bool) (r : Val × BitVec 16) : Nat × BitVec 16 :=
  let (x, f) := outCode c rm sat ftzo r.1
  (x, r.2 ||| f)

/-- A popped ring element in the consumer's format (R320, R323). -/
def popConv (src dst : Byte) (rm : BitVec 2) (sat ftzi ftzo : Bool) (y : Nat) : Nat × BitVec 16 :=
  if src = dst then (y, 0) else outCode dst rm sat ftzo (inVal src ftzi y)

/-- One level of tree_reduce (R214). -/
def treeLevel {α : Type} (op : α → α → α × BitVec 16) : List α → List α × BitVec 16
  | a :: b :: r =>
    let (x, f) := op a b
    let (xs, g) := treeLevel op r
    (x :: xs, f ||| g)
  | l => (l, 0)

/-- tree_reduce (R214) of a non-empty list; `fuel` bounds the rounds. -/
def treeReduce {α : Type} (op : α → α → α × BitVec 16) : Nat → List α → List α × BitVec 16
  | 0, l => (l, 0)
  | n + 1, l =>
    match l with
    | _ :: _ :: _ =>
      let (l', f) := treeLevel op l
      let (r, g) := treeReduce op n l'
      (r, f ||| g)
    | _ => (l, 0)

end Sys2Proof.Machine
end

