-- ==== Sys2Proof/Machine/Ecc.lean ====
section
/-! DEFINITION. The Reed-Solomon code of HBM sectors (R15): the field, the generator, the check symbols, and the decoder with
erasures. A polynomial is a list of coefficients, the constant first. -/
namespace Sys2Proof.Machine

/-- α times an element of GF(2^8) under x^8 + x^4 + x^3 + x^2 + 1. -/
def gfX (a : Byte) : Byte := if a.getLsbD 7 then (a <<< 1) ^^^ 0x1D else a <<< 1

/-- The product of two elements, over the low `n` bits of the second. -/
def gfMulN (a b : Byte) : Nat → Byte
  | 0 => 0
  | n + 1 => (if b.getLsbD 0 then a else 0) ^^^ gfMulN (gfX a) (b >>> 1) n

def gfMul (a b : Byte) : Byte := gfMulN a b 8

def gfPow (a : Byte) : Nat → Byte
  | 0 => 1
  | n + 1 => gfMul a (gfPow a n)

def gfInv (a : Byte) : Byte := gfPow a 254

def gfAlpha : Byte := 2

/-- The power of α at symbol `i`, the coefficient of x^(71 − i). -/
def rsPoint (i : Nat) : Byte := gfPow gfAlpha (71 - i)

def polyAdd : List Byte → List Byte → List Byte
  | [], q => q
  | p, [] => p
  | a :: p, b :: q => (a ^^^ b) :: polyAdd p q

def polyScale (a : Byte) (p : List Byte) : List Byte := p.map (gfMul a)

def polyMul : List Byte → List Byte → List Byte
  | [], _ => []
  | a :: p, q => polyAdd (polyScale a q) (0 :: polyMul p q)

def polyEval (p : List Byte) (x : Byte) : Byte := p.foldr (fun a v => a ^^^ gfMul x v) 0

/-- Without leading zeros: its length is the degree plus 1. -/
def polyTrim (p : List Byte) : List Byte := (p.reverse.dropWhile (· = 0)).reverse

/-- The formal derivative. -/
def polyDeriv (p : List Byte) : List Byte :=
  (p.zipIdx.map (fun x => if x.2 % 2 = 1 then x.1 else 0)).drop 1

/-- Quotient and remainder, in at most `fuel` steps. -/
def polyDivMod : Nat → List Byte → List Byte → List Byte × List Byte
  | 0, p, _ => ([], p)
  | fuel + 1, p, q =>
    let p := polyTrim p
    let q := polyTrim q
    if q = [] ∨ p.length < q.length then ([], p)
    else
      let c := gfMul (p.getLastD 0) (gfInv (q.getLastD 0))
      let t := List.replicate (p.length - q.length) (0 : Byte) ++ [c]
      let (a, r) := polyDivMod fuel (polyAdd p (polyMul t q)) q
      (polyAdd t a, r)

/-- The generator (x − α^0)(x − α^1) … (x − α^7). -/
def rsGenerator : List Byte := (List.range 8).foldl (fun p j => polyMul p [gfPow gfAlpha j, 1]) [1]

/-- The check symbols 64-71 of 64 data bytes: the remainder of data(x) · x^8 by the generator. -/
def rsCheck (data : List Byte) : List Byte :=
  let r := (polyDivMod 72 (List.replicate 8 0 ++ data.reverse) rsGenerator).2
  ((r ++ List.replicate 8 0).take 8).reverse

/-- The eight syndromes of an error pattern: positions and what is added there. -/
def rsSyndromes (errs : List (Nat × Byte)) : List Byte :=
  (List.range 8).map (fun j => errs.foldl (fun s x => s ^^^ gfMul x.2 (gfPow (rsPoint x.1) j)) 0)

/-- The key equation by Euclid's algorithm: locator and evaluator, once the remainder's degree is below `(8 + e) / 2`. -/
def rsEuclid (e : Nat) : Nat → List Byte → List Byte → List Byte → List Byte → List Byte × List Byte
  | 0, _, r1, _, t1 => (t1, r1)
  | fuel + 1, r0, r1, t0, t1 =>
    let r1 := polyTrim r1
    if 2 * r1.length < 8 + e + 2 then (t1, r1)
    else
      let (q, r) := polyDivMod 16 r0 r1
      rsEuclid e fuel r1 r t1 (polyAdd t0 (polyMul q t1))

/-- What a decoder of the code finds: for syndromes and erasures, the one pattern of those syndromes with
2 × unknown errors + erasures at most 8, or none. -/
def rsDecode (er : List Nat) (syn : List Byte) : Option (List (Nat × Byte)) :=
  let gamma := er.foldl (fun p i => polyMul p [1, rsPoint i]) [1]
  let xi := (polyMul syn gamma).take 8
  let (loc, ev) := rsEuclid er.length 9 (List.replicate 8 0 ++ [1]) xi [] [1]
  let psi := polyMul loc gamma
  let pats := (List.range 72).filterMap (fun i =>
    let y := gfInv (rsPoint i)
    if polyEval psi y = 0 then
      let v := gfMul (rsPoint i) (gfMul (polyEval ev y) (gfInv (polyEval (polyDeriv psi) y)))
      if v = 0 then none else some (i, v)
    else none)
  if rsSyndromes pats = syn ∧ 2 * (pats.filter (fun x => !er.contains x.1)).length + er.length ≤ 8 then some pats else none

end Sys2Proof.Machine
end

