-- ==== Sys2Proof/Machine/Ops.lean ====
section
/-! DEFINITION. Named operations on the machine: registers of threads, tiles and units; fault records; the fault of an
item; taking a trap (R154, R155, R419) and returning from one. -/
namespace Sys2Proof.Machine

/-! ### Accessors -/

def Mach.thr (m : Mach) (t : TileId) : Thread := tget Thread.reset m.threads t.toNat
def Mach.setThr (m : Mach) (t : TileId) (th : Thread) : Mach :=
  { m with threads := tput Thread.reset m.threads t.toNat th }
def Mach.modThr (m : Mach) (t : TileId) (f : Thread → Thread) : Mach := m.setThr t (f (m.thr t))

def Mach.core (m : Mach) (c : ClusterId) : MCore := tget MCore.reset m.cores c.toNat
def Mach.setCore (m : Mach) (c : ClusterId) (x : MCore) : Mach :=
  { m with cores := tput MCore.reset m.cores c.toNat x }

def Mach.tile (m : Mach) (t : TileId) : Tile := tget Tile.reset m.tiles t.toNat
def Mach.setTile (m : Mach) (t : TileId) (x : Tile) : Mach :=
  { m with tiles := tput Tile.reset m.tiles t.toNat x }
def Mach.modTile (m : Mach) (t : TileId) (f : Tile → Tile) : Mach := m.setTile t (f (m.tile t))
def Mach.ctx (m : Mach) (t : TileId) : Ctx := (m.tile t).ctx
def Mach.modCtx (m : Mach) (t : TileId) (f : Ctx → Ctx) : Mach :=
  m.modTile t (fun x => { x with ctx := f x.ctx })

/-- What a tile's kennel slot holds of an accumulator file, under an image or since the last one left it (R387). -/
def Tile.slotPart (x : Tile) : Tbl AqEntry × NSet :=
  match x.kennel with
  | some im => (im.ctx.acc, im.ctx.accPois)
  | none => (x.slotAcc, x.slotPois)

/-- A kennel slot without an image keeps its bytes. -/
def Tile.emptySlot (x : Tile) : Tile := { x with kennel := none, slotAcc := x.slotPart.1, slotPois := x.slotPart.2 }

/-- The tiles of a cluster. -/
def tilesOf (c : ClusterId) : List TileId := (List.range 8).map (fun k => tileOf c (BitVec.ofNat 3 k))

def Ctx.chain (c : Ctx) : Eng → Chain
  | .ld => c.ld
  | .mx => c.mx
  | .vx => c.vx
  | .st => c.st

def Ctx.setChain (c : Ctx) (e : Eng) (x : Chain) : Ctx :=
  match e with
  | .ld => { c with ld := x }
  | .mx => { c with mx := x }
  | .vx => { c with vx := x }
  | .st => { c with st := x }

def Ctx.modChain (c : Ctx) (e : Eng) (f : Chain → Chain) : Ctx := c.setChain e (f (c.chain e))

def Mach.modChain (m : Mach) (t : TileId) (e : Eng) (f : Chain → Chain) : Mach :=
  m.modCtx t (fun c => c.modChain e f)

def Ctx.sem (c : Ctx) (n : BitVec 5) : BitVec 16 := tget 0 c.sems n.toNat
def Ctx.setSem (c : Ctx) (n : BitVec 5) (v : BitVec 16) : Ctx := { c with sems := tput 0 c.sems n.toNat v }
def Ctx.ring (c : Ctx) (n : Nat) : Ring := tget Ring.off c.rings n
def Ctx.setRing (c : Ctx) (n : Nat) (r : Ring) : Ctx := { c with rings := tput Ring.off c.rings n r }
def Ctx.win (c : Ctx) (n : Nat) : Window := tget Window.off c.wins n
def Ctx.accCfg (c : Ctx) (n : Nat) : Dword := tget 0 c.acfg n
def Ctx.handle (c : Ctx) (n : BitVec 3) : Dword := tget 0 c.hnd n.toNat
def Ctx.setHandle (c : Ctx) (n : BitVec 3) (v : Dword) : Ctx := { c with hnd := tput 0 c.hnd n.toNat v }

def Mach.die (m : Mach) (d : DieId) : Die := tget Die.reset m.dies d.toNat
def Mach.modDie (m : Mach) (d : DieId) (f : Die → Die) : Mach :=
  { m with dies := tmod Die.reset m.dies d.toNat f }

def Mach.queue (m : Mach) (q : QueueId) : Queue := tget Queue.reset m.queues q.toNat
def Mach.modQueue (m : Mach) (q : QueueId) (f : Queue → Queue) : Mach :=
  { m with queues := tmod Queue.reset m.queues q.toNat f }

def Mach.work (m : Mach) (w : Nat) : Option Work := tget none m.works w
def Mach.setWork (m : Mach) (w : Nat) (x : Option Work) : Mach := { m with works := tput none m.works w x }
def Mach.modWork (m : Mach) (w : Nat) (f : Work → Work) : Mach := m.setWork w ((m.work w).map f)

def Mach.inst (m : Mach) (n : Nat) : Option Inst := tget none m.insts n
def Mach.setInst (m : Mach) (n : Nat) (x : Option Inst) : Mach := { m with insts := tput none m.insts n x }

def Mach.launch (m : Mach) (l : Word) : Option Launch := tget none m.launches l.toNat
def Mach.setLaunch (m : Mach) (l : Word) (x : Option Launch) : Mach :=
  { m with launches := tput none m.launches l.toNat x }
def Mach.modLaunch (m : Mach) (l : Word) (f : Launch → Launch) : Mach := m.setLaunch l ((m.launch l).map f)

def Mach.part (m : Mach) (p : PartId) : Partition := tget Partition.reset m.parts p.toNat
def Mach.modPart (m : Mach) (p : PartId) (f : Partition → Partition) : Mach :=
  { m with parts := tmod Partition.reset m.parts p.toNat f }

def Mach.fq (m : Mach) (p : PartId) : FQ := tget FQ.reset m.fqs p.toNat
def Mach.modFq (m : Mach) (p : PartId) (f : FQ → FQ) : Mach := { m with fqs := tmod FQ.reset m.fqs p.toNat f }

def Mach.func (m : Mach) (f : FuncId) : Func := tget Func.reset m.funcs f.toNat
def Mach.modFunc (m : Mach) (f : FuncId) (g : Func → Func) : Mach :=
  { m with funcs := tmod Func.reset m.funcs f.toNat g }

/-- The die of the active Herder (R8). -/
def Mach.herderDie (m : Mach) : DieId := if m.herderB then 3 else 0

def Mach.clu (m : Mach) (c : ClusterId) : CluEntry := tget CluEntry.reset m.clusters c.toNat
def Mach.modClu (m : Mach) (c : ClusterId) (f : CluEntry → CluEntry) : Mach :=
  { m with clusters := tmod CluEntry.reset m.clusters c.toNat f }

/-- Slots are numbered within their cluster: key cluster × 64 + number. -/
def Mach.slot (m : Mach) (c : ClusterId) (n : Nat) : Option Slot := tget none m.slots (c.toNat * 64 + n)
def Mach.setSlot (m : Mach) (c : ClusterId) (n : Nat) (x : Option Slot) : Mach :=
  { m with slots := tput none m.slots (c.toNat * 64 + n) x }

/-- A participant of a barrier: cluster, slot and position, which stay with an item wherever it runs (R188). -/
def partKey (c : ClusterId) (slot pos : Nat) : Nat := c.toNat * 512 + slot * 8 + pos

def Mach.bar (m : Mach) (b : BarId) : Bar := ((m.bars.find? (fun p => p.1 = b)).map (·.2)).getD Bar.free
def Mach.setBar (m : Mach) (b : BarId) (x : Bar) : Mach :=
  let rest := m.bars.filter (fun p => p.1 ≠ b)
  { m with bars := if x = Bar.free then rest else (b, x) :: rest }

/-- The key of a unit under vet checks: kind, die, unit (R114). -/
def unitKey (u : UnitId) : Nat :=
  (match u.kind with | .tile => 0 | .module => 1 | .port => 2 | .channel => 3) * 1024 + u.die.toNat * 256 + u.unit.toNat

def Mach.unit (m : Mach) (u : UnitId) : UnitRec := tget UnitRec.reset m.units (unitKey u)
def Mach.modUnit (m : Mach) (u : UnitId) (f : UnitRec → UnitRec) : Mach :=
  { m with units := tmod UnitRec.reset m.units (unitKey u) f }

/-! ### General registers and the end of an instruction -/

/-- R262: g0 reads as zero. -/
def Thread.rd (th : Thread) (r : Reg) : Dword := if r = 0 then 0 else tget 0 th.g r.toNat

/-- R262: a write to g0 is discarded. -/
def Thread.wr (th : Thread) (r : Reg) (v : Dword) : Thread :=
  if r = 0 then th else { th with g := tput 0 th.g r.toNat v }

/-- KSTAT.PL: 0 U, 1 S, 2 F (R308). -/
def Thread.pl (th : Thread) : BitVec 2 := th.kstat.extractLsb' 0 2
def Thread.tip (th : Thread) : Bool := th.kstat.getLsbD 8
def Thread.mprog (th : Thread) : BitVec 6 := th.kstat.extractLsb' 10 6
def Thread.setMprog (th : Thread) (v : BitVec 6) : Thread := { th with kstat := setBits th.kstat 15 10 v.toNat }

/-- An instruction completes: pc moves on, the thread can issue, and SSTEP asks for its trap at U (R312). -/
def Thread.finish (th : Thread) (pc : Dword) : Thread :=
  { th with pc := pc, st := .ready, stepTrap := th.pl == 0 && th.ktdbg.getLsbD 1 }

/-- The instruction does not complete yet and issues again later: an interlock or a full buffer (R151). -/
def Thread.stall (th : Thread) : Thread := { th with st := .stalled }

/-- The instruction waits for an event (R151). -/
def Thread.wait (th : Thread) : Thread := { th with st := .waiting }

/-! ### Free values, interrupts, alerts -/

/-- A fresh index for a free value. -/
def Mach.bump (m : Mach) : Mach := { m with fresh := m.fresh + 1 }

/-- The function that owns a partition: the one bound to it, else the physical function (R47). -/
def Mach.ownerOf (m : Mach) (p : PartId) : FuncId :=
  ((m.funcs.find? (fun x => x.2.bound = some p)).map (fun x => BitVec.ofNat 6 x.1)).getD 0

/-- The partition's MSI-X table byte: unlisted bytes read zero, but an entry's vector control masks it at reset, as the
PCIe specification has it (R56; log 11). -/
def Func.msix (f : Func) (a : Nat) : Byte := Memory.byte f.msixTable a ^^^ (if a % 16 = 12 then 1 else 0)

/-- Raise a vector of a function: sent, or kept pending while its table entry is masked (R56, R71). -/
def Mach.irq (m : Mach) (f : FuncId) (v : BitVec 6) : Mach :=
  if (m.func f).msix (16 * v.toNat + 12) &&& 1 = 1 then
    m.modFunc f (fun x => { x with msixPending := x.msixPending ||| (1 <<< v.toNat) })
  else { m with irqs := m.irqs ++ [f.toNat * 64 + v.toNat] }

def Mach.answer (m : Mach) (a : Answer) : Mach := { m with answers := a :: m.answers }
def Mach.alert (m : Mach) (c : Byte) : Mach := { m with alerts := m.alerts ++ [c] }

/-! ### Fault records (R175, R176) -/

/-- The fields of a record that vary. -/
structure RecArgs where
  va : Nat := 0
  lid : Nat := 0
  item : Nat := 0
  code : Nat := 0
  qerr : Nat := 0
  tile : Nat := 0
  thread : Nat := 0
  src : Nat := 0
  eng : Nat := 0
  acc : Nat := 0
  block : Nat := 0
  reason : Nat := 0
  level : Nat := 0
  info : Bool := false
  aux : Nat := 0
  /-- package time of the fault where it is not the present one -/
  time : Option Dword := none
deriving DecidableEq, Repr

/-- A record's eight dwords (R176). -/
def mkRec (a : RecArgs) (p : PartId) (seq : Nat) (time : Dword) : List Dword :=
  [ BitVec.ofNat 64 (a.va % 2 ^ 56),
    BitVec.ofNat 64 (a.lid * 2 ^ 32 + a.item),
    BitVec.ofNat 64 (a.code * 2 ^ 40 + a.qerr * 2 ^ 32 + a.tile * 2 ^ 24 + a.thread * 2 ^ 21 + a.src * 2 ^ 19 +
      a.eng * 2 ^ 17 + a.acc * 2 ^ 15 + a.block),
    BitVec.ofNat 64 (a.reason * 2 ^ 60 + a.level * 2 ^ 58 + p.toNat * 2 ^ 54 + b2n a.info * 2 ^ 53),
    BitVec.ofNat 64 seq, time, BitVec.ofNat 64 a.aux, 0 ]

/-- The sequence number the next record of partition `p` gets: records are posted in order of fault (R175). -/
def Mach.nextSeq (m : Mach) (p : PartId) : Nat := (m.fq p).head + (m.fq p).held.length

/-- Post the oldest held record if the queue has space (R175). -/
def Mach.postHeld (m : Mach) (p : PartId) : Mach :=
  let q := m.fq p
  match q.held with
  | [] => m
  | r :: rest =>
    if q.head - q.tail = 256 then m
    else
      let m := m.modFq p (fun q => { q with recs := tput [] q.recs (q.head % 256) r, head := q.head + 1, held := rest })
      if q.fqie then m.irq (m.ownerOf p) q.fqvec else m

/-- A fault is recorded: posted at once if the queue has space, else held (R175). -/
def Mach.post (m : Mach) (p : PartId) (a : RecArgs) (w : Waiter) : Mach :=
  let seq := m.nextSeq p
  let m := m.modFq p (fun q =>
    { q with held := q.held ++ [mkRec a p seq (a.time.getD m.time)],
             waits := if w = .none then q.waits else q.waits ++ [(seq, w)] })
  m.postHeld p

/-! ### The fault of an item (R138) -/

/-- The partition that a thread or tile works for: its item's, else the resident one of its cluster. -/
def Mach.partOf (m : Mach) (t : TileId) : PartId :=
  match (m.tile t).bind with
  | some b => b.part
  | none => ((m.clu t.cluster).resident).getD 0

/-- The chains of a tile stop: their units drop what they were doing (R138, R141). -/
def Ctx.stopChains (c : Ctx) : Ctx :=
  let f := fun (x : Chain) => if x.st = .running || x.st = .parked then { x with st := .faulted } else x
  { c with ld := f c.ld, mx := f c.mx, vx := f c.vx, st := f c.st }

/-- The item on tile `t` faults: its chains stop and its thread's part in the launch ends once its buffer has drained
(R138, R419). -/
def Mach.faultItem (m : Mach) (t : TileId) : Mach :=
  let m := m.modCtx t Ctx.stopChains
  m.modThr t (fun th =>
    { th with sup := th.sup.map (fun s => { s with ended := true, faulted := true }), st := .idle, hold := none,
              arrivals := [], pull := .none })

/-! ### Traps -/

/-- Cause codes (R156). -/
inductive Cause where
  | illegal | priv | cfi | align | page | fetch | access | poison | arg | busy | trap | brk
  | badop | noroute | hoplimit
  | lbIllegal | lbReserved | lbRange | lbEarly | lbPage | lbAccess | lbPoison | lbSemovf | lbRing | lbPatch
  | vxAlign | vxFmt
  | mxAcfg | mxFmtmix | mxSpmeta | mxDupmismatch | mxDuptarget | mxParity
  | glAnchor | glAbsent | glNores | glHandle
deriving DecidableEq, Repr, Inhabited

def Cause.code : Cause → Byte
  | .illegal => 0x01 | .priv => 0x02 | .cfi => 0x03 | .align => 0x04 | .page => 0x05 | .fetch => 0x06
  | .access => 0x07 | .poison => 0x08 | .arg => 0x09 | .busy => 0x0A | .trap => 0x0B | .brk => 0x0C
  | .badop => 0x10 | .noroute => 0x11 | .hoplimit => 0x12
  | .lbIllegal => 0x20 | .lbReserved => 0x21 | .lbRange => 0x22 | .lbEarly => 0x23 | .lbPage => 0x24
  | .lbAccess => 0x25 | .lbPoison => 0x26 | .lbSemovf => 0x27 | .lbRing => 0x28 | .lbPatch => 0x29
  | .vxAlign => 0x30 | .vxFmt => 0x31
  | .mxAcfg => 0x38 | .mxFmtmix => 0x39 | .mxSpmeta => 0x3A | .mxDupmismatch => 0x3B | .mxDuptarget => 0x3C
  | .mxParity => 0x3D
  | .glAnchor => 0x48 | .glAbsent => 0x49 | .glNores => 0x4A | .glHandle => 0x4B

/-- Does R156 give KTVAL of this code as an address. -/
def tvalIsAddr (code : Byte) : Bool :=
  code ∈ [0x03, 0x04, 0x05, 0x06, 0x07, 0x08, 0x0C, 0x10, 0x11, 0x12]

/-- Trap entry (R154): KEPC, KCAUSE, KTVAL and KSTAT.PPL are saved, PL becomes F, TIP 1, pc KTVEC. -/
def Thread.enter (th : Thread) (code : Byte) (src async : Bool) (tval kepc : Dword) : Thread :=
  let ks := setBits (setBits (setBits th.kstat 5 4 th.pl.toNat) 1 0 2) 8 8 1
  { th with kepc := kepc &&& ~~~3,
            kcause := BitVec.ofNat 64 (b2n async * 2 ^ 15 + b2n src * 2 ^ 8 + code.toNat),
            ktval := tval, kstat := ks, pc := th.ktvec &&& ~~~3, st := .ready, stepTrap := false, fence := none }

/-- The failed walk a page fault reports. -/
structure WalkFail where
  reason : Nat
  level : Nat
  aux : Nat
  acc : Nat
deriving DecidableEq, Repr, Inhabited

/-- No failed walk: only the kind of the access that was refused (R176). -/
def noWalk (acc : Nat) : WalkFail := ⟨0, 0, 0, acc⟩

/-- What trap firmware does for a thread that supervises an item (R419); a chain fault that a waiting thread takes at once carries
the time of the fault (R155, R392). -/
def Mach.report (m : Mach) (t : TileId) (code : Byte) (src : Bool) (tval : Dword) (w : WalkFail) (time : Option Dword := none) : Mach :=
  match (m.thr t).sup with
  | none => m
  | some s =>
    let p := m.partOf t
    let base : RecArgs :=
      if src then
        { lid := s.lid.toNat, item := (s.item.getD 0).toNat, code := code.toNat, tile := t.toNat,
          thread := t.num.toNat, eng := bits tval.toNat 17 16, block := bits tval.toNat 14 0, src := 0, time := time }
      else
        { lid := s.lid.toNat, item := (s.item.getD 0).toNat, code := code.toNat, tile := t.cluster.toNat,
          thread := t.num.toNat, src := 1, va := if tvalIsAddr code then tval.toNat else 0, aux := tval.toNat,
          acc := w.acc }
    if !src && (code = 0x05 || code = 0x06) then
      let seq := m.nextSeq p
      let m := m.modThr t (fun th => { th with st := .waiting, hold := some seq })
      m.post p { base with reason := w.reason, level := w.level } (.thread t)
    else if !src && (code = 0x0B || code = 0x0C) then
      let seq := m.nextSeq p
      let m := m.modThr t (fun th => { th with st := .waiting, hold := some seq })
      m.post p { base with reason := 6 } (.thread t)
    else (m.post p { base with reason := 5, info := true } .none).faultItem t

/-- take_trap (R154). With TIP already set the thread halts, its item faults and a firmware error is logged; else the
entry, and for a thread that supervises an item what trap firmware then does (R419). -/
def Mach.takeTrap (m : Mach) (t : TileId) (code : Byte) (src async : Bool) (tval kepc : Dword) (w : WalkFail)
    (time : Option Dword := none) : Mach :=
  let th := m.thr t
  if th.tip then ((m.faultItem t).modThr t (fun th => { th with st := .halted })).alert 0x01
  else (m.setThr t (th.enter code src async tval kepc)).report t code src tval w time

/-- A precise trap of the instruction at pc; `acc` is the kind of the access it refuses (R176). -/
def Mach.trapAt (m : Mach) (t : TileId) (c : Cause) (tval : Dword) (acc : Nat := 0) : Mach :=
  m.takeTrap t c.code false false tval (m.thr t).pc (noWalk acc)

/-- ERET (R154, R314): pc := KEPC, PL := PPL, TIP := 0; no landing-pad check. -/
def Thread.eret (th : Thread) : Thread :=
  let ks := setBits (setBits th.kstat 1 0 (bits th.kstat.toNat 5 4)) 8 8 0
  { th with pc := th.kepc, kstat := ks, st := .ready, stepTrap := false }

/-! ### The whole state -/

def State.onM (s : State) (f : Mach → Mach) : State := { s with m := f s.m }

/-- A meaning that acts on the issuing thread alone. -/
def State.onThread (s : State) (f : Thread → Thread) : State := { s with m := s.m.modThr s.turn.thread f }

end Sys2Proof.Machine
end

