-- ==== Sys2Proof/Machine/Phys.lean ====
section
/-! DEFINITION. Physical memory of the package: the address map (R162), access tables and the violation log
(R51, R52, R55), error correction and suspicion scores (R13, R15, R16, R121, R122), poison (R138), and reads and
writes of the memory ports. -/
namespace Sys2Proof.Machine

/-! ### The address map (R162) -/

def hbmSize : Nat := 144000000000

/-- The region of a physical address: PA[51:48]. -/
def paRegion (pa : Nat) : Nat := pa / 2 ^ 48

/-- Does one physical byte exist. -/
def paMapped (pa : Nat) : Bool :=
  if paRegion pa = 0 then decide (pa < 4 * 2 ^ 38 ∧ pa % 2 ^ 38 < hbmSize)
  else if paRegion pa = 1 then decide (pa - 2 ^ 48 < 32 * 2 ^ 23)
  else if paRegion pa = 2 then decide (pa - 2 * 2 ^ 48 < 4 * 2 ^ 26)
  else false

/-- The die that owns a physical address. -/
def paDie (pa : Nat) : DieId :=
  if paRegion pa = 0 then BitVec.ofNat 2 (pa / 2 ^ 38)
  else if paRegion pa = 1 then BitVec.ofNat 2 ((pa - 2 ^ 48) / 2 ^ 26)
  else BitVec.ofNat 2 ((pa - 2 * 2 ^ 48) / 2 ^ 26)

/-- Every byte of [pa, pa + n) exists, all in one region (R170). -/
def rangeMapped (pa n : Nat) : Bool :=
  paMapped pa && paMapped (pa + (n - 1)) && decide (paRegion pa = paRegion (pa + (n - 1))) &&
    (paRegion pa ≠ 0 || paDie pa = paDie (pa + (n - 1)))

/-- Cluster pool byte, die pool byte. -/
def cpoolPa (c : ClusterId) (off : Nat) : Nat := 2 ^ 48 + c.toNat * 2 ^ 23 + off
def dpoolPa (d : DieId) (off : Nat) : Nat := 2 * 2 ^ 48 + d.toNat * 2 ^ 26 + off
def hbmPa (d : DieId) (off : Nat) : Nat := d.toNat * 2 ^ 38 + off

/-- Channel of the die (0-95), pseudo-channel and rank of an HBM offset (R162). -/
def hbmChannel (o : Nat) : Nat := 32 * (o / 256 % 96 % 3) + o / 256 % 96 / 3
def hbmPc (o : Nat) : Nat := o / 256 / 96 % 2
def hbmRank (o : Nat) : Nat := (o / 256 / 96 * 256 + o % 256) / 375000000

/-- Bytes of [pa, pa + n) lie on a channel that is withheld from the address map (R123). -/
def Mach.held (m : Mach) (pa n : Nat) : Bool :=
  !m.withheld.isEmpty && paRegion pa = 0 &&
    (List.range ((pa + n - 1) / 256 + 1 - pa / 256)).any (fun k =>
      let a := (pa / 256 + k) * 256
      nhas m.withheld ((paDie a).toNat * 96 + hbmChannel (a % 2 ^ 38)))

/-- Every byte of [pa, pa + n) exists on this device, all in one region (R123, R162, R170). -/
def Mach.mapped (m : Mach) (pa n : Nat) : Bool := rangeMapped pa n && !m.held pa n

/-! ### Access tables (R51, R52, R55) -/

/-- Table target of a physical address: kind and index. -/
def paTarget (pa : Nat) : Nat × Nat :=
  if paRegion pa = 0 then (2, pa / 2 ^ 30)
  else if paRegion pa = 1 then (0, (pa - 2 ^ 48) / 2 ^ 23)
  else (1, (pa - 2 * 2 ^ 48) / 2 ^ 26)

/-- What reset and boot firmware grant (R51): read and write to master 128, read to 129 on register blocks, and once
booted read and write to the physical function. -/
def Mach.grantBase (m : Mach) (kind master : Nat) : BitVec 2 :=
  if master = 128 then 3
  else if master = 129 ∧ kind = 3 then 1
  else if master = 0 ∧ m.pfGranted then 3
  else 0

/-- The two bits of a target's table for a master: bit 0 read, bit 1 write. -/
def Mach.grants (m : Mach) (kind idx master : Nat) : BitVec 2 :=
  tget 0 m.access ((kind * 2 ^ 20 + idx) * 256 + master) ^^^ m.grantBase kind master

def Mach.setGrants (m : Mach) (kind idx master : Nat) (v : BitVec 2) : Mach :=
  { m with access := tput 0 m.access ((kind * 2 ^ 20 + idx) * 256 + master) (v ^^^ m.grantBase kind master) }

/-- Access kinds (R176 ACC). -/
inductive Acc where
  | read | write | atomic | fetch
deriving DecidableEq, Repr, Inhabited

def Acc.code : Acc → Nat
  | .read => 0 | .write => 1 | .atomic => 2 | .fetch => 3

/-- Does a table entry grant an access (R170): read, write, or both for atomics. -/
def grantOk (g : BitVec 2) : Acc → Bool
  | .read => g.getLsbD 0
  | .fetch => g.getLsbD 0
  | .write => g.getLsbD 1
  | .atomic => g = 3

/-- An entry of a die's violation log (R55); of a longer block number its 20 lowest bits (DEDUCED, log 147). -/
def Mach.violation (m : Mach) (d : DieId) (addr kind idx master : Nat) (wr ext : Bool) : Mach :=
  m.modDie d (fun x =>
    { x with
      vlog := tput ⟨0, 0, 0⟩ x.vlog (x.logcnt % 256)
        ⟨m.time, BitVec.ofNat 64 addr,
         BitVec.ofNat 64 (b2n ext * 2 ^ 33 + b2n wr * 2 ^ 32 + idx % 2 ^ 20 * 2 ^ 12 + kind * 2 ^ 8 + master)⟩,
      logcnt := x.logcnt + 1 })

/-- The check of an access at its target (R52); a refusal is logged. -/
def Mach.checkGrant (m : Mach) (pa master : Nat) (acc : Acc) (ext : Bool) : Bool × Mach :=
  let (k, i) := paTarget pa
  if grantOk (m.grants k i master) acc then (true, m)
  else (false, m.violation (paDie pa) pa k i master (acc = .write || acc = .atomic) ext)

/-- Master numbers (R51). -/
def masterEngine (p : PartId) : Nat := 64 + p.toNat
def masterMusher (c : ClusterId) : Nat := 80 + c.toNat
def masterCopy (d : DieId) (e : BitVec 2) : Nat := 112 + 4 * d.toNat + e.toNat
def masterHerder : Nat := 128

/-! ### Suspicion scores (R121, R122) -/

/-- Key of the rotation defaults of R113 in ms. -/
def UnitKind.defaultPeriod : UnitKind → Nat
  | .tile => 1000 | .module => 10000 | .port => 10000 | .channel => 60000

def kindCode : UnitKind → Nat
  | .tile => 0 | .module => 1 | .port => 2 | .channel => 3

/-- A module's unit is kept under die 0 of its key whatever the die (one module, one score). -/
def moduleUnit (n : Nat) : UnitId := ⟨.module, 0, BitVec.ofNat 8 n⟩

/-- The die whose scheduler runs a unit's leases: of a module the lower-numbered of its pair (R113). -/
def unitDie (u : UnitId) : DieId :=
  match u.kind with
  | .module => if u.unit.toNat / 2 < 3 then 0 else if u.unit.toNat / 2 < 5 then 1 else 2
  | .tile => u.unit.extractLsb' 6 2
  | _ => u.die

/-- Find an entry for a new lease: a FREE one, else the RETURNED or RETIRED one with the oldest TEND (R114). -/
def leaseState (r : LeaseRec) : Nat := bits r.d0.toNat 3 0

def freeLease (t : Tbl LeaseRec) : Nat → Option Nat
  | 0 => none
  | n + 1 =>
    match freeLease t n with
    | some k => some k
    | none => if leaseState (tget LeaseRec.free t n) = 0 then some n else none

def oldestLease (t : Tbl LeaseRec) : Option Nat :=
  (t.foldl (fun (acc : Option (Nat × Nat)) p =>
    if leaseState p.2 = 7 ∨ leaseState p.2 = 8 then
      match acc with
      | none => some (p.1, p.2.tend.toNat)
      | some (_, e) => if p.2.tend.toNat < e then some (p.1, p.2.tend.toNat) else acc
    else acc) none).map (·.1)

/-- Schedule a lease (R114, R115): KIND, UNIT, CAUSE, SCORE and PSET recorded, STATE SCHEDULED. -/
def Mach.schedule (m : Mach) (u : UnitId) (cause : Nat) : Option Nat × Mach :=
  let d := unitDie u
  let x := m.die d
  match (freeLease x.leases 256).orElse (fun _ => oldestLease x.leases) with
  | none => (none, m)
  | some n =>
    let r := m.unit u
    let ns := Config.nset u.kind
    let pset := if cause = 0 then r.rotations % ns % 256 else 0xFF
    let d0 := BitVec.ofNat 64 (r.score.toNat * 2 ^ 32 + pset * 2 ^ 24 + cause * 2 ^ 16 + u.unit.toNat * 2 ^ 8 +
      kindCode u.kind * 2 ^ 4 + 1)
    let m := m.modDie d (fun x => { x with leases := tput LeaseRec.free x.leases n ⟨d0, 0, 0, 0⟩ })
    (some n, m.modUnit u (fun r =>
      { r with lease := some n, rotations := if cause = 0 then r.rotations + 1 else r.rotations }))

/-- The thresholds of R122, taken when an event raises a score. -/
def Mach.threshold (m : Mach) (u : UnitId) : Mach :=
  let r := m.unit u
  let st := r.lease.map (fun n => leaseState (tget LeaseRec.free (m.die (unitDie u)).leases n))
  let conf := r.lease.map (fun n => bits (tget LeaseRec.free (m.die (unitDie u)).leases n).d0.toNat 17 16)
  if r.retired then m
  else if 192 ≤ r.score.toNat then
    match st with
    | some 1 =>
      match r.lease with
      | some n =>
        let up := fun (l : LeaseRec) =>
          if bits l.d0.toNat 17 16 = 2 then l
          else { l with d0 := setBits (setBits (setBits l.d0 17 16 2) 31 24 0xFF) 39 32 r.score.toNat }
        m.modDie (unitDie u) (fun x => { x with leases := tmod LeaseRec.free x.leases n up })
      | none => m
    | some 2 => if conf = some 2 then m else m.modUnit u (fun r => { r with owed := true })
    | some 3 => if conf = some 2 then m else m.modUnit u (fun r => { r with owed := true })
    | _ => (m.schedule u 2).2
  else if 64 ≤ r.score.toNat then
    match st with
    | some 1 => m
    | some 2 => m
    | some 3 => m
    | _ => (m.schedule u 1).2
  else m

/-- An event of R121 charges a unit: saturating at 255, recorded among its last 32 events (R128), of weight 0 too. -/
def Mach.charge (m : Mach) (u : UnitId) (event weight : Nat) : Mach :=
  let m := m.modUnit u (fun r =>
    let s := BitVec.ofNat 8 (Nat.min 255 (r.score.toNat + weight))
    let ev : ScoreEv := ⟨m.time, BitVec.ofNat 8 event, BitVec.ofNat 8 weight, s⟩
    { r with score := s, events := List.drop (r.events.length + 1 - 32) (r.events ++ [ev]) })
  if weight = 0 then m else m.threshold u

/-- A counter of the die counts events of a source (R157). -/
def Mach.counts (m : Mach) (d : DieId) (src : Nat) : Bool := (m.die d).des.any (fun p => p.2.toNat = src)

/-- A counted event of a die's event counters (R157). -/
def Mach.dieEvent (m : Mach) (d : DieId) (src : Nat) (n : Nat) : Mach :=
  if m.counts d src then
    m.modDie d (fun x =>
      { x with dec := x.des.foldl (fun dec p =>
          if p.2.toNat = src then tput 0 dec p.1 (tget 0 dec p.1 + BitVec.ofNat 64 n) else dec) x.dec })
  else m

/-- A counted event of a tile's event counters (R157). -/
def Ctx.tileEvent (c : Ctx) (src n : Nat) : Ctx :=
  { c with tec := c.tes.foldl (fun tec p =>
      if p.2.toNat = src then tput 0 tec p.1 (tget 0 tec p.1 + BitVec.ofNat 64 n) else tec) c.tec }

def Mach.tileEvent (m : Mach) (t : TileId) (src n : Nat) : Mach :=
  if (m.ctx t).tes.any (fun p => p.2.toNat = src) then m.modCtx t (fun c => c.tileEvent src n) else m

/-! ### Error correction -/

/-- The erasure positions of a sector (R16): those of the first eight valid entries of its rank's table whose PC matches. -/
def Mach.erasures (m : Mach) (d : DieId) (o : Nat) : List Nat :=
  let base := (d.toNat * 512 + hbmChannel o * 4 + hbmRank o) * 16
  let es := (List.range 16).map (fun i => tget 0 m.knownBad (base + i))
  let hit := es.filter (fun e => e.getLsbD 15 && bits e.toNat 7 7 == hbmPc o)
  ((hit.take 8).map (fun e => bits e.toNat 6 0)).eraseDups

/-- What the wrong correction of an error pattern leaves in the data symbols: where, and what is added. -/
def misread (errs fix : List (Nat × Byte)) : List (Nat × Byte) :=
  (List.range 64).filterMap (fun i =>
    let v := (errs ++ fix).foldl (fun v x => if x.1 = i then v ^^^ x.2 else v) 0
    if v = 0 then none else some (i, v))

/-- The decoder reads one HBM sector (R15, R16, R121): corrected and written back, or poisoned. An error pattern beyond the
correcting power fails to decode, unless it lies within it of another codeword, which the decoder then takes (log 123). A
sector stored as poisoned is found before any correction (R138). -/
def Mach.decodeSector (m : Mach) (sec : Nat) : Mach :=
  let errs := tget [] m.symErr sec
  if errs = [] ∨ nhas m.poisS sec then m
  else
    let pa := sec * 64
    let d := paDie pa
    let er := m.erasures d (pa % 2 ^ 38)
    let unknown := errs.filter (fun p => !er.contains p.1.toNat)
    let u : UnitId := ⟨.channel, d, BitVec.ofNat 8 (hbmChannel (pa % 2 ^ 38))⟩
    let m := { m with symErr := tput [] m.symErr sec [] }
    if 2 * unknown.length + er.length ≤ 8 then (if unknown = [] then m.charge u 7 0 else m.charge u 6 1)
    else
      let pat := errs.map (fun p => (p.1.toNat, p.2))
      match rsDecode er (rsSyndromes pat) with
      | some fix =>
        { m with mem := (misread pat fix).foldl (fun (t : Memory) (x : Nat × Byte) => Memory.setByte t (pa + x.1) (Memory.byte t (pa + x.1) ^^^ x.2)) m.mem }.charge u 6 1
      | none => { m with poisS := nins sec m.poisS }.charge u 8 32

/-- The SRAM word of a pool that holds a physical byte. -/
def poolWord (pa : Nat) : SramWord :=
  if paRegion pa = 1 then
    .cpool (BitVec.ofNat 5 ((pa - 2 ^ 48) / 2 ^ 23)) (BitVec.ofNat 20 (pa / 8))
  else .dpool (paDie pa) (BitVec.ofNat 23 (pa / 8))

/-- SRAM words written whole hold no error of before. -/
def Mach.dropMarks (m : Mach) (p : SramWord → Bool) : Mach :=
  if m.sram1 = [] ∧ m.sram2 = [] then m
  else { m with sram1 := m.sram1.filter (fun w => !p w), sram2 := m.sram2.filter (fun w => !p w) }

/-- A counter of pool, kennel or save-area errors (R121): by offset / 8 in the die's block. -/
def Mach.countSram (m : Mach) (d : DieId) (n : Nat) : Mach :=
  m.modDie d (fun x => { x with sramErr := tput 0 x.sramErr n (tget 0 x.sramErr n + 1) })

/-- A pool word is read (R13): one bit corrected, more poison the word. -/
def Mach.decodePool (m : Mach) (pa : Nat) : Mach :=
  let w := poolWord pa
  let k := if paRegion pa = 1 then 0 else 2
  if m.sram2.contains w then
    ({ m with sram2 := m.sram2.filter (· ≠ w), sram1 := m.sram1.filter (· ≠ w),
              poisW := nins (pa / 8) m.poisW }).countSram (paDie pa) (k + 1)
  else if m.sram1.contains w then
    (({ m with sram1 := m.sram1.filter (· ≠ w) }).countSram (paDie pa) k).dieEvent (paDie pa) 0x0F 1
  else m

/-- The decoders read every word of [pa, pa + n) before the data is used. -/
def Mach.decodeRange (m : Mach) (pa n : Nat) : Mach :=
  if paRegion pa = 0 then
    if m.symErr = [] then m
    else (List.range ((pa + n - 1) / 64 + 1 - pa / 64)).foldl (fun m i => m.decodeSector (pa / 64 + i)) m
  else if m.sram1 = [] ∧ m.sram2 = [] then m
  else (List.range ((pa + n - 1) / 8 + 1 - pa / 8)).foldl (fun m i => m.decodePool ((pa / 8 + i) * 8)) m

/-- Sectors of HBM in [pa, pa + n) are counted as events of their die (R157). -/
def Mach.countSectors (m : Mach) (src pa n : Nat) : Mach :=
  if paRegion pa = 0 then m.dieEvent (paDie pa) src ((pa + n - 1) / 64 + 1 - pa / 64) else m

/-- The words of [pa, pa + n) are read: their decoders run (R13, R15), and sectors count (R157). -/
def Mach.readPort (m : Mach) (pa n : Nat) : Mach := (m.countSectors 0x20 pa n).decodeRange pa n

/-! ### Reads and writes at the memory ports -/

/-- Does [pa, pa + n) hold poison (R138): per sector in HBM, per 64-bit word in a pool. -/
def Mach.poisoned (m : Mach) (pa n : Nat) : Bool :=
  if paRegion pa = 0 then m.poisS.any (fun s => decide (pa / 64 ≤ s ∧ s ≤ (pa + n - 1) / 64))
  else m.poisW.any (fun w => decide (pa / 8 ≤ w ∧ w ≤ (pa + n - 1) / 8))

/-- The decoders would find [pa, pa + n) poisoned. -/
def Mach.unreadable (m : Mach) (pa n : Nat) : Bool :=
  m.poisoned pa n || (!(m.symErr.isEmpty && m.sram1.isEmpty && m.sram2.isEmpty) && (m.decodeRange pa n).poisoned pa n)

/-- Read `n` bytes: the value little-endian, poison, and the machine after the decoders have run. -/
def Mach.readPa (m : Mach) (pa n : Nat) : Nat × Bool × Mach :=
  let m := m.readPort pa n
  (Memory.read m.mem pa n, m.poisoned pa n, m)

/-- Units wholly inside [pa, pa + n) of size `u`, from the first to before the last. -/
def wholeUnits (pa n u : Nat) : Nat × Nat := ((pa + u - 1) / u, (pa + n) / u)

/-- A write of whole words or sectors clears poison; a partial write keeps it (R138). -/
def Mach.clearPoison (m : Mach) (pa n : Nat) : Mach :=
  if paRegion pa = 0 then
    if m.poisS = [] ∧ m.symErr = [] then m
    else
      let (a, b) := wholeUnits pa n 64
      { m with poisS := m.poisS.filter (fun s => !decide (a ≤ s ∧ s < b)),
               symErr := m.symErr.filter (fun p => !decide (a ≤ p.1 ∧ p.1 < b)) }
  else
    let (a, b) := wholeUnits pa n 8
    let m := m.dropMarks (fun w => (List.range (b - a)).any (fun k => w = poolWord (8 * (a + k))))
    if m.poisW = [] then m else { m with poisW := m.poisW.filter (fun w => !decide (a ≤ w ∧ w < b)) }

/-- Write bytes: a partial write first reads through the decoder (R137). -/
def Mach.putPa (m : Mach) (pa : Nat) (bs : List Byte) : Mach :=
  let m := (m.clearPoison pa bs.length).decodeRange pa bs.length
  { m with mem := Memory.writeBytes m.mem pa bs }

/-- The sectors that a write of [pa, pa + n) writes count, and as read those that it writes in part (R137, R157). -/
def Mach.countWrite (m : Mach) (pa n : Nat) : Mach :=
  let whole := (wholeUnits pa n 64).2 - (wholeUnits pa n 64).1
  let part := (pa + n - 1) / 64 + 1 - pa / 64 - whole
  let m := if paRegion pa = 0 ∧ 0 < part then m.dieEvent (paDie pa) 0x20 part else m
  m.countSectors 0x21 pa n

/-- Write bytes at a memory port. -/
def Mach.writePa (m : Mach) (pa : Nat) (bs : List Byte) : Mach := (m.countWrite pa bs.length).putPa pa bs

/-- Mark the words or sectors of a range poisoned: poison that moves with the data (R138). -/
def Mach.poison (m : Mach) (pa n : Nat) : Mach :=
  if paRegion pa = 0 then
    { m with poisS := (List.range ((pa + n - 1) / 64 + 1 - pa / 64)).foldl (fun s i => nins (pa / 64 + i) s) m.poisS }
  else
    { m with poisW := (List.range ((pa + n - 1) / 8 + 1 - pa / 8)).foldl (fun s i => nins (pa / 8 + i) s) m.poisW }

/-! ### Atomic updates at memory (R190, R285, R287) -/

/-- The new value of an AMO on `n` bits, or none where AMOCAS writes nothing (R285). -/
def amoNew (op n : Nat) (old b d : Nat) : Option Nat :=
  let M := 2 ^ n
  let s := fun (x : Nat) => (BitVec.ofNat n x).toInt
  let old := old % M
  let b := b % M
  match op with
  | 0 => some b
  | 1 => some ((old + b) % M)
  | 2 => some (old &&& b)
  | 3 => some (old ||| b)
  | 4 => some (if s old < s b then b else old)
  | 5 => some (if s b < s old then b else old)
  | 6 => some (Nat.max old b)
  | 7 => some (Nat.min old b)
  | _ => if old = d % M then some b else none

/-- One atomic at memory: the old value and the machine; the caller has checked grants and poison. -/
def Mach.amoPa (m : Mach) (pa op : Nat) (dword : Bool) (b d : Nat) : Nat × Mach :=
  let n := if dword then 8 else 4
  let old := Memory.read m.mem pa n
  match amoNew op (8 * n) old b d with
  | some v => (old, m.writePa pa (toBytes n v))
  | none => (old, m)

/-- AQADD at memory (R287): a wrapping 128-bit addition. -/
def Mach.aqaddPa (m : Mach) (pa v : Nat) : Mach :=
  m.writePa pa (toBytes 16 (Memory.read m.mem pa 16 + v))

/-! ### Signals (R72, R73) -/

inductive SigOp where
  | dec (x : Nat) | inc (x : Nat) | set (x : Dword) | fail (x : Dword)
deriving DecidableEq, Repr

/-- The value of a signal after an update (R73). -/
def sigNew (v : Dword) : SigOp → Dword
  | .dec x => if 0 ≤ v.toInt then (if x ≤ v.toNat then v - BitVec.ofNat 64 x else BitVec.ofInt 64 (-(6 * 2 ^ 40))) else v
  | .inc x =>
    if 0 ≤ v.toInt then (if v.toNat + x ≤ 2 ^ 63 - 1 then v + BitVec.ofNat 64 x else BitVec.ofInt 64 (-(7 * 2 ^ 40)))
    else v
  | .set x => x
  | .fail x => if 0 ≤ v.toInt then x else v

/-- A status value: −(CODE × 2^40 + DETAIL) (R72). -/
def statusVal (code detail : Nat) : Dword := BitVec.ofInt 64 (-(Int.ofNat (code * 2 ^ 40 + detail)))

end Sys2Proof.Machine
end

