-- ==== Sys2Proof/Machine/Xlate.lean ====
section
/-! DEFINITION. Page tables, TLBs and translation (R167-R172). -/
namespace Sys2Proof.Machine

/-- A decoded leaf (R168). -/
structure Leaf where
  raw : Nat
  level : Nat
  repl : Bool
  rem : Bool
  host : Bool
  pkg : BitVec 12
  set : BitVec 16
  frame : Nat
  x : Bool
  w : Bool
  rd : Bool
  u : Bool
deriving DecidableEq, Repr

inductive Walk where
  | leaf (l : Leaf)
  | fail (reason level aux : Nat)
deriving DecidableEq, Repr

/-- Bytes a leaf of a level maps: 64 KiB, 64 MiB, 64 GiB. -/
def pageSize (level : Nat) : Nat := 2 ^ (16 + 10 * level)

/-- Is a leaf entry misformed (R168). -/
def leafBad (e level : Nat) : Bool :=
  let repl := tst e 13
  let rem := tst e 15
  let host := tst e 14
  let frame := if repl then bits e 37 16 * 2 ^ 16 else bits e 51 16 * 2 ^ 16
  decide (3 ≤ level) || bits e 3 2 ≠ 0 || bits e 12 8 ≠ 0 ||
    (repl && (rem || host || bits e 47 38 ≠ 0)) ||
    (rem && host) || (tst e 6 && !tst e 5) || frame % pageSize level ≠ 0 ||
    (!repl && !rem && !host && !paMapped frame)

def leafOf (e level : Nat) : Leaf :=
  let repl := tst e 13
  { raw := e, level := level, repl := repl, rem := tst e 15, host := tst e 14,
    pkg := BitVec.ofNat 12 (bits e 63 52), set := BitVec.ofNat 16 (bits e 63 48),
    frame := if repl then bits e 37 16 * 2 ^ 16 else bits e 51 16 * 2 ^ 16,
    x := tst e 7, w := tst e 6, rd := tst e 5, u := tst e 4 }

/-- Is a pointer entry misformed (R168): a reserved bit, a table outside region 0x0, or a pointer at level 0. -/
def ptrBad (e level : Nat) : Bool :=
  level = 0 || e / 2 ^ 52 ≠ 0 || bits e 12 2 ≠ 0 || paRegion (bits e 51 13 * 2 ^ 13) ≠ 0

/-- A local leaf whose FRAME lies on a withheld channel (R123, R168). -/
def Mach.leafHeld (m : Mach) (e : Nat) : Bool :=
  !(tst e 13 || tst e 14 || tst e 15) && m.held (bits e 51 16 * 2 ^ 16) 1

/-- The walk from `table` at `level` (R167, R170): NOTPRESENT 0, MISFORMED 2, WALKERR 3. -/
def Mach.walk (m : Mach) (table va : Nat) : Nat → Walk
  | 0 =>
    let a := table + 8 * bits va 25 16
    if !m.mapped a 8 || m.unreadable a 8 then .fail 3 0 0
    else
      let e := Memory.read m.mem a 8
      if !tst e 0 then .fail 0 0 e
      else if !tst e 1 then .fail 2 0 e
      else if leafBad e 0 || m.leafHeld e then .fail 2 0 e
      else .leaf (leafOf e 0)
  | level + 1 =>
    let a := table + 8 * bits va (35 + 10 * level) (26 + 10 * level)
    if !m.mapped a 8 || m.unreadable a 8 then .fail 3 (level + 1) 0
    else
      let e := Memory.read m.mem a 8
      if !tst e 0 then .fail 0 (level + 1) e
      else if tst e 1 then
        if leafBad e (level + 1) || m.leafHeld e then .fail 2 (level + 1) e else .leaf (leafOf e (level + 1))
      else if ptrBad e (level + 1) then .fail 2 (level + 1) e
      else m.walk (bits e 51 13 * 2 ^ 13) va level

/-- A walk reads entries from a level's table on: their sectors count, and their decoders run (R13, R15, R157, R170). -/
def Mach.walkReads (m : Mach) (table va : Nat) : Nat → Mach
  | 0 => m.readPort (table + 8 * bits va 25 16) 8
  | level + 1 =>
    let a := table + 8 * bits va (35 + 10 * level) (26 + 10 * level)
    let m := m.readPort a 8
    let e := Memory.read m.mem a 8
    if !m.mapped a 8 || m.poisoned a 8 || tst e 1 || !tst e 0 then m else m.walkReads (bits e 51 13 * 2 ^ 13) va level

/-! ### TLBs (R172) -/

def Walker.of : Walker → DieId
  | .engine t => t.die
  | .core c => c.die
  | .die d => d

def tlbTile (t : TileId) : Nat := t.toNat
def tlbCluster (c : ClusterId) : Nat := 256 + c.toNat

def TlbEntry.covers (e : TlbEntry) (p : PartId) (va : Nat) : Bool := e.part = p && e.page = va / pageSize e.level

/-- The entry of a TLB for an address; one whose frame has been withheld since is walked again (R123). -/
def Mach.tlbFind (m : Mach) (k : Nat) (p : PartId) (va : Nat) : Option TlbEntry :=
  (tget [] m.tlbs k).find? (fun e => e.covers p va && !m.leafHeld e.raw)

/-- The entry that a translation finds (R172): a tile's engines look in its TLB, then in the cluster's. -/
def Mach.tlbHit (m : Mach) (w : Walker) (p : PartId) (va : Nat) : Option TlbEntry :=
  match w with
  | .engine t => (m.tlbFind (tlbTile t) p va).orElse (fun _ => m.tlbFind (tlbCluster t.cluster) p va)
  | .core c => m.tlbFind (tlbCluster c) p va
  | .die _ => none

/-- Put an entry into a TLB of `cap` entries; a full one loses the entry that a free value picks (R172; log 9). -/
def Mach.tlbFill (m : Mach) (k cap : Nat) (e : TlbEntry) : Mach :=
  let l := tget [] m.tlbs k
  let l := if l.length < cap then l else l.eraseIdx (Config.tlbVictim m.fresh % cap)
  { m with tlbs := tput [] m.tlbs k (l ++ [e]) }

/-- TLBs lose the entries of a partition that a test picks. -/
def Mach.tlbDrop (m : Mach) (p : PartId) (gone : TlbEntry → Bool) : Mach :=
  { m with tlbs := tmap [] (fun _ l => l.filter (fun e => !(e.part = p && gone e))) m.tlbs }

/-- A tile's TLB is emptied, and the cluster's of a partition's entries: a restored item starts so (R172). -/
def Mach.tlbStart (m : Mach) (t : TileId) (p : PartId) : Mach :=
  { m with tlbs := tmod [] (tput [] m.tlbs (tlbTile t) []) (tlbCluster t.cluster) (fun l => l.filter (fun e => e.part ≠ p)) }

/-- The walk of a partition's page table from its root (R167). -/
def Mach.walkRoot (m : Mach) (p : PartId) (va : Nat) : Walk := m.walk (m.part p).ptroot.toNat va 3

/-- What a walk found as the TLBs keep it. -/
def Walk.entry (x : Walk) (p : PartId) (va : Nat) : Option TlbEntry :=
  match x with
  | .leaf l => some ⟨p, va / pageSize l.level, l.level, l.raw⟩
  | .fail _ _ _ => none

/-- The machine after a translation has looked in its TLBs and, where they do not have it, walked: misses and walks count,
the entries that were read are decoded, and the TLBs take the leaf (R157, R172). -/
def Mach.walked (m : Mach) (w : Walker) (p : PartId) (va : Nat) : Mach :=
  if 2 ^ 56 ≤ va then m
  else
    let walk := fun (m : Mach) => (m.dieEvent w.of 0x22 1).walkReads (m.part p).ptroot.toNat va 3
    let fill := fun (m : Mach) (k cap : Nat) => ((m.walkRoot p va).entry p va).elim m (m.tlbFill k cap)
    let viaCluster := fun (m : Mach) (c : ClusterId) =>
      if (m.tlbFind (tlbCluster c) p va).isSome then m
      else fill (walk (m.dieEvent w.of 0x0E 1)) (tlbCluster c) 1024
    match w with
    | .die _ => walk m
    | .core c => viaCluster m c
    | .engine t =>
      if (m.tlbFind (tlbTile t) p va).isSome then m
      else
        let m := viaCluster (m.tileEvent t 0x0E 1) t.cluster
        match m.tlbFind (tlbCluster t.cluster) p va with
        | some e => m.tlbFill (tlbTile t) 64 e
        | none => m

/-- The result of translating an access: its place and whether a Musher load of it may fill a cache line (R184), or
the failure. -/
inductive Xl where
  | ok (p : Place) (cacheable : Bool)
  | bad (w : WalkFail)
deriving DecidableEq, Repr

def permOk (l : Leaf) : Acc → Bool
  | .read => l.rd
  | .write => l.w
  | .atomic => l.rd && l.w
  | .fetch => l.x

/-- The leaf for an address, from a TLB or by a walk (R172). -/
def Mach.leafFor (m : Mach) (w : Walker) (p : PartId) (va : Nat) : Walk :=
  match m.tlbHit w p va with
  | some e => .leaf (leafOf e.raw e.level)
  | none => m.walkRoot p va

/-- Translate an access of `n` bytes at `va` (R170, R172): canonical form, walk, existence, permission. `user`: U must be
set (engines, copy engines and threads at U). A REM page that names the own package is here where it exists; elsewhere the
request goes to the target die, which answers STATUS 4 (R27). -/
def Mach.translate (m : Mach) (w : Walker) (p : PartId) (va n : Nat) (acc : Acc) (user : Bool) : Xl :=
  if 2 ^ 56 ≤ va then .bad ⟨4, 3, 0, acc.code⟩
  else
    match m.leafFor w p va with
    | .fail r l a => .bad ⟨r, l, a, acc.code⟩
    | .leaf l =>
      let off := va % pageSize l.level
      let pa := l.frame + off
      let own := l.rem && l.pkg = m.pkg && m.mapped pa n
      if !l.repl && !l.rem && !l.host && !m.mapped pa n then .bad ⟨2, l.level, l.raw, acc.code⟩
      else if l.repl && hbmSize < pa + n then .bad ⟨2, l.level, l.raw, acc.code⟩
      else if !permOk l acc || (user && !l.u) then .bad ⟨1, l.level, l.raw, acc.code⟩
      else if l.repl then .ok (.repl l.set pa) false
      else if l.host then .ok (.host pa) false
      else if own then .ok (.here pa) false
      else if l.rem then .ok (.away l.pkg pa) false
      else .ok (.here pa) true

/-- Where a byte of a partition's memory lies in this package, as firmware reaches it; none where it does not. -/
def Mach.vaPa (m : Mach) (p : PartId) (va : Nat) (acc : Acc) : Option Nat :=
  match m.translate (.die 0) p va 1 acc false with
  | .ok (.here pa) _ => some pa
  | _ => none

/-- `n` bytes of a partition's memory from `va` up, as the Herder reads an image area (R109); a byte that is not mapped
reads as zero (log 13). -/
def Mach.readVa (m : Mach) (p : PartId) (va : Nat) : Nat → List Byte
  | 0 => []
  | n + 1 =>
    (match m.vaPa p va .read with
      | some pa => Memory.byte m.mem pa
      | none => 0) :: m.readVa p (va + 1) n

/-- Where the sectors of [va, va + n) begin and end in it: a sector lies on one page. -/
def sectorSpans (va n : Nat) : List (Nat × Nat) :=
  (List.range ((va + n + 63) / 64 - va / 64)).map (fun k => (Nat.max va ((va / 64 + k) * 64), Nat.min (va + n) ((va / 64 + k + 1) * 64)))

/-- Write bytes of a partition's memory from `va` up, sector by sector; those that are not mapped are dropped (log 13). -/
def Mach.putVa (m : Mach) (p : PartId) (va : Nat) (bs : List Byte) : Mach :=
  ((sectorSpans va bs.length).foldl (fun (acc : Mach × List Byte) x =>
    let n := x.2 - x.1
    (match acc.1.vaPa p x.1 .write with
      | some pa => acc.1.putPa pa (acc.2.take n)
      | none => acc.1, acc.2.drop n)) (m, bs)).1

/-- The decoders read [va, va + n) of a partition's memory (R13, R15). -/
def Mach.decodeVa (m : Mach) (p : PartId) (va n : Nat) : Mach :=
  if m.symErr = [] ∧ m.sram1 = [] ∧ m.sram2 = [] then m
  else (sectorSpans va n).foldl (fun (m : Mach) x =>
    match m.vaPa p x.1 .read with
    | some pa => m.decodeRange pa (x.2 - x.1)
    | none => m) m

/-- The sectors of `n` bytes of a partition's memory from `va` up count (R157). -/
def Mach.countVa (m : Mach) (src : Nat) (p : PartId) (va n : Nat) : Mach :=
  let one := fun (m : Mach) (k : Nat) =>
    match m.vaPa p ((va / 64 + k) * 64) .read with
    | some pa => m.countSectors src pa 1
    | none => m
  if ([0, 1, 2, 3] : List DieId).any (fun d => m.counts d src) then (List.range ((va + n + 63) / 64 - va / 64)).foldl one m else m

/-- The words of [va, va + n) of a partition's memory are read: their sectors count, and their decoders run. -/
def Mach.portVa (m : Mach) (p : PartId) (va n : Nat) : Mach := (m.countVa 0x20 p va n).decodeVa p va n

def Mach.writeVa (m : Mach) (p : PartId) (va : Nat) (bs : List Byte) : Mach :=
  (m.putVa p va bs).countVa 0x21 p va bs.length

/-- Bytes of an access that lie on one page: the access is split where it crosses (R164 elements, copy rows). -/
def pageLeft (va : Nat) : Nat := 2 ^ 16 - va % 2 ^ 16

end Sys2Proof.Machine
end

