-- ==== Sys2Proof/Machine/Send.lean ====
section
/-! DEFINITION. Messages between dies and packages as their senders make them: agent numbers (R408), tags (R32, R410),
requests and responses (R26, R27), and what a response does to the agent that waits for it. -/
namespace Sys2Proof.Machine

/-! ### Message kinds (R26) -/

def opRead : Nat := 0x01
def opWrite : Nat := 0x02
def opAmo : Nat := 0x10
def opAqadd : Nat := 0x19
def opReduce : Nat := 0x1A
def opGang : Nat := 0x20
def opUpdate : Nat := 0x30
def opSeqUpdate : Nat := 0x31
def opApplied : Nat := 0x32
def opResponse : Nat := 0x38
def opRetire : Nat := 0x39
def opRetireAck : Nat := 0x3A
def opReport : Nat := 0x3B

/-- The virtual channel of a message (R26, R31): 0 request, 1 response, 2 gangline, 3 multicast. -/
def msgChannel (m : Msg) : Nat :=
  let o := m.op.toNat
  if o = opGang then 2 else if o = opSeqUpdate then 3
  else if 0x32 ≤ o ∧ o ≠ opUpdate then 1 else 0

/-- Slots a message occupies. -/
def msgSlots (m : Msg) : Nat := 1 + m.data.length

/-- Is OP known and LEN in its range (R26). -/
def msgFormOk (op len : Nat) : Bool :=
  if op = 0x01 then len = 0
  else if op = 0x02 ∨ op = 0x1A then decide (2 ≤ len ∧ len ≤ 5)
  else if 0x10 ≤ op ∧ op ≤ 0x19 then len = 1
  else if op = 0x20 then decide (1 ≤ len ∧ len ≤ 4)
  else if op = 0x30 ∨ op = 0x31 then decide (2 ≤ len ∧ len ≤ 6)
  else if op = 0x32 ∨ op = 0x39 ∨ op = 0x3A then len = 0
  else if op = 0x38 then decide (len ≤ 4)
  else if op = 0x3B then len = 1
  else false

/-! ### Source agents (R408) -/

def sagentEngine (t : TileId) (e : Eng) : BitVec 10 := BitVec.ofNat 10 (4 * (t.toNat % 64) + e.code.toNat)
def sagentGang (t : TileId) : BitVec 10 := BitVec.ofNat 10 (0x100 + t.toNat % 64)
def sagentMusher (t : TileId) : BitVec 10 := BitVec.ofNat 10 (0x200 + 8 * t.num.toNat + t.cluster.toNat % 8)
def sagentCopy (e : BitVec 2) : BitVec 10 := BitVec.ofNat 10 (0x300 + e.toNat)
def sagentDie : BitVec 10 := 0x380
def sagentHerder : BitVec 10 := 0x381

/-! ### Tags and sending -/

/-- The first tag from `n` on that is not outstanding to a die (R32, R410). -/
def firstTag (tags : List TagRec) (dpkg : BitVec 12) (ddie : DieId) : Nat → Nat → Option (BitVec 12)
  | 0, _ => none
  | fuel + 1, n =>
    if tags.any (fun t => t.dpkg = dpkg && t.ddie = ddie && t.tag = BitVec.ofNat 12 n) then
      firstTag tags dpkg ddie fuel (n + 1)
    else some (BitVec.ofNat 12 n)

/-- A message joins a die's outgoing messages; of a retire the time is noted (R410). -/
def Mach.queueOut (m : Mach) (d : DieId) (x : Msg) : Mach :=
  m.modDie d (fun y => { y with
    outq := y.outq ++ [x], retireAt := if x.op = 0x39 ∨ x.op = 0x3A then y.retireAt ++ [(x, m.time)] else y.retireAt })

/-- A message joins its die's outgoing messages, or its own die's incoming ones (R23). -/
def Mach.emit (m : Mach) (d : DieId) (x : Msg) : Mach :=
  if x.dpkg = m.pkg ∧ x.ddie = d then m.modDie d (fun y => { y with inq := y.inq ++ [x] }) else m.queueOut d x

/-- The routing entry of a package on a die: V set (R36, R37). -/
def Mach.routed (m : Mach) (d : DieId) (pkg : BitVec 12) : Bool :=
  pkg = m.pkg || tst (tget (0 : Word) (m.die d).routing pkg.toNat).toNat 31

/-- Tags of die `d` outstanding to a die (R32). -/
def Mach.tagsTo (m : Mach) (d : DieId) (q : BitVec 12 × DieId) : Nat :=
  ((m.die d).tags.filter (fun t => t.dpkg = q.1 && t.ddie = q.2)).length

/-- Die `d` has a tag for each of the requests to the dies of a list: 4,096 to each die (R32). -/
def Mach.tagRoom (m : Mach) (d : DieId) (l : List (BitVec 12 × DieId)) : Bool :=
  l.all (fun q => decide (m.tagsTo d q + l.count q ≤ 4096))

/-- Send a tagged request from an agent of die `d` (R32, R410); no state where the tags are exhausted. `pois`: which bytes of
its data, from ADDR on, are poisoned (R138; log 63). -/
def Mach.request (m : Mach) (d : DieId) (x : Msg) (who : Agent) (place : Place) (pois : List Nat := []) : Option Mach :=
  let y := m.die d
  let key := x.dpkg.toNat * 4 + x.ddie.toNat
  match firstTag y.tags x.dpkg x.ddie (y.tags.length + 1) (tget 0 y.tagNext key) with
  | none => none
  | some tag =>
    if 4096 ≤ m.tagsTo d (x.dpkg, x.ddie) then none
    else
      let m := m.modDie d (fun y =>
        { y with tags := y.tags ++ [⟨x.dpkg, x.ddie, tag, who, place, false, x.sagent, none, pois, x.cls⟩],
                 tagNext := tput 0 y.tagNext key ((tag.toNat + 1) % 4096) })
      some (m.emit d { x with tag := tag, hops := 15, sdie := d, spkg := m.pkg })

/-- Send a tagged request, now or once a tag is free (R32). -/
def Mach.requestOrWait (m : Mach) (d : DieId) (x : Msg) (who : Agent) (place : Place) : Mach :=
  (m.request d x who place).getD (m.modDie d (fun y => { y with tagq := y.tagq ++ [(x, who, place)] }))

/-- The requests that wait for a tag are sent in turn while one is free. -/
def Mach.sendWaiting (m : Mach) (d : DieId) : Mach :=
  let q := (m.die d).tagq
  q.foldl (fun (m : Mach) z => m.requestOrWait d z.1 z.2.1 z.2.2) (if q.isEmpty then m else m.modDie d (fun y => { y with tagq := [] }))

/-- ADDR of a request: physical address and partition (R27). -/
def reqAddr (pa : Nat) (p : PartId) : BitVec 56 := BitVec.ofNat 56 (p.toNat * 2 ^ 52 + pa % 2 ^ 52)

def blankMsg : Msg :=
  { addr := 0, op := 0, tag := 0, hops := 15, ddie := 0, dpkg := 0, sdie := 0, spkg := 0, sagent := 0, cls := 0,
    rlen := 0, sz := false, data := [] }

/-- A read of `n` bytes that lie in one 64-byte line (R27): the 16-byte slots that hold them. -/
def readMsg (pkg : BitVec 12) (pa n : Nat) (p : PartId) (ag : BitVec 10) (cls : BitVec 4) : Msg :=
  let a := pa / 16 * 16
  { blankMsg with op := 0x01, addr := reqAddr a p, dpkg := pkg, ddie := paDie pa, sagent := ag, cls := cls,
                  rlen := BitVec.ofNat 2 ((pa + n - 1) / 16 - pa / 16) }

def slotOf (bs : List Byte) : Quad := BitVec.ofNat 128 (ofBytes bs)

/-- Data slots and mask slot of a write of `bs` at `pa`, all within one 64-byte line (R27). -/
def writeSlots (pa : Nat) (bs : List Byte) : List Quad :=
  let lead := pa % 16
  let all := List.replicate lead (0 : Byte) ++ bs
  let n := cdiv all.length 16
  let slots := (List.range n).map (fun k => slotOf ((all.drop (16 * k)).take 16))
  slots ++ [BitVec.ofNat 128 ((2 ^ bs.length - 1) * 2 ^ lead)]

def writeMsg (pkg : BitVec 12) (pa : Nat) (bs : List Byte) (p : PartId) (ag : BitVec 10) (cls : BitVec 4) : Msg :=
  { blankMsg with op := 0x02, addr := reqAddr (pa / 16 * 16) p, dpkg := pkg, ddie := paDie pa, sagent := ag,
                  cls := cls, data := writeSlots pa bs }

def amoMsg (pkg : BitVec 12) (pa op : Nat) (dword : Bool) (b d : Nat) (p : PartId) (ag : BitVec 10)
    (cls : BitVec 4) : Msg :=
  let k := if dword then 64 else 32
  let cmp := if op = 8 then d % 2 ^ k else 0
  { blankMsg with op := BitVec.ofNat 6 (0x10 + op), addr := reqAddr pa p, dpkg := pkg, ddie := paDie pa, sagent := ag,
                  cls := cls, sz := dword, data := [BitVec.ofNat 128 (b % 2 ^ k + cmp * 2 ^ 64)] }

def aqaddMsg (pkg : BitVec 12) (pa v : Nat) (p : PartId) (ag : BitVec 10) (cls : BitVec 4) : Msg :=
  { blankMsg with op := 0x19, addr := reqAddr pa p, dpkg := pkg, ddie := paDie pa, sagent := ag, cls := cls,
                  data := [BitVec.ofNat 128 v] }

/-- The response to a request (R409): its STATUS and data slots. -/
def respMsg (m : Mach) (d : DieId) (req : Msg) (status : Nat) (data : List Quad) : Msg :=
  { req with op := 0x38, addr := BitVec.ofNat 56 status, ddie := req.sdie, dpkg := req.spkg, sdie := d,
             spkg := m.pkg, rlen := 0, hops := 15, data := if status = 0 then data else [] }

/-! ### The entry of a replica set a die can see (R40) -/

/-- The dies that hold a replica: at most 256 (R40). -/
def RSet.replicas (r : RSet) : List (BitVec 12 × DieId) := r.members.take 256

/-- The entry of a set in the 1,024-entry table of a die: its place and content (R40). -/
def Mach.rset (m : Mach) (d : DieId) (set : BitVec 16) : Option (Nat × RSet) :=
  (m.die d).rsets.find? (fun p => decide (p.1 < 1024) && p.2.valid && p.2.set = set)

/-- What a die of the package finds about a set: the entry in its own table, else in that of the lowest other die. R40 puts
the entry on the sequencer's die and does not say how other dies find it: DESIGN CHOICE, log 115. -/
def Mach.findSet (m : Mach) (d : DieId) (set : BitVec 16) : Option RSet :=
  (([d, 0, 1, 2, 3].filterMap (fun k => m.rset k set)).map (·.2)).head?

def Mach.isMember (m : Mach) (set : BitVec 16) (d : DieId) : Bool :=
  ((m.findSet d set).map (fun r => r.replicas.contains (m.pkg, d))).getD false

/-- Package and die of a set's sequencer, as die `d` finds it; die 0 of its own package where there is no entry (log 115). -/
def Mach.sequencer (m : Mach) (d : DieId) (set : BitVec 16) : BitVec 12 × DieId :=
  ((m.findSet d set).map (fun r => (r.pkg, r.die))).getD (m.pkg, 0)

/-- The die that a request of die `d` for a place goes to; none where the place is reached directly. -/
def Mach.placeDie (m : Mach) (d : DieId) : Place → Option (BitVec 12 × DieId)
  | .here pa => if paDie pa = d then none else some (m.pkg, paDie pa)
  | .host _ => none
  | .away pkg pa => some (pkg, paDie pa)
  | .repl set _ => some (m.sequencer d set)

/-! ### What a response does to the agent that waits for it -/

/-- The new value of a location under an update of R337, by the codes of R27: 0 add.i32, 1 add.f32, 2 aqadd, 3 max.i32,
4 max.f32. -/
def reduceNew (rop : Nat) (rm : BitVec 2) (m x : Nat) : Nat :=
  if rop = 0 then (m + x) % 2 ^ 32
  else if rop = 1 then (convertF fp32 (valAdd rm (decodeF fp32 m) (decodeF fp32 x)).1 rm false).1
  else if rop = 2 then (m + x) % 2 ^ 128
  else if rop = 3 then (if (BitVec.ofNat 32 m).toInt < (BitVec.ofNat 32 x).toInt then x else m)
  else (convertF fp32 (valMax (decodeF fp32 m) (decodeF fp32 x)) 0 false).1

/-- Bytes of an element of an update. -/
def reduceSize (rop : Nat) : Nat := if rop = 2 then 16 else 4

/-- The cause of a non-zero STATUS for a Musher thread (R171). -/
def statusCause (st : Nat) : Cause :=
  if st = 1 then .badop else if st = 2 then .access else if st = 3 then .poison
  else if st = 4 then .noroute else .hoplimit

/-- Sign extension of an atomic's old value (R285). -/
def amoResult (dword : Bool) (old : Nat) : Dword :=
  if dword then BitVec.ofNat 64 old else sextLow (BitVec.ofNat 64 old) 32

/-- The kind of access of an outstanding request (R176): 0 read, 2 atomic, 3 fetch. -/
def OFin.acc : OFin → Nat
  | .load _ _ _ => 0
  | .loadm _ _ => 0
  | .amo _ _ => 2
  | .aqadd => 2
  | .fetch _ => 3

/-- What the answer to a request whose instruction was completed at a halt brings (R103, R286): a register's value, or an
asynchronous trap. -/
def Outst.lands (o : Outst) (st data : Nat) (now : Dword) : Option (Reg × Dword) × List ATrap :=
  if st ≠ 0 then (none, [⟨(statusCause st).code, false, o.va, o.fin.acc, now⟩])
  else
    match o.fin with
    | .amo d word => (some (d, amoResult (!word) data), [])
    | _ => (none, [])

def Thread.land (th : Thread) (o : Outst) (st data : Nat) (now : Dword) : Thread :=
  let r := o.lands st data now
  let th := { th with out := none, asyncs := th.asyncs ++ r.2 }
  match r.1 with
  | some x => th.wr x.1 x.2
  | none => th

/-- The traps of answered stores: a non-zero STATUS, with the address (R171, R271). -/
def storeTraps (l : List WEntry) (now : Dword) : List ATrap :=
  l.filterMap (fun w => match w.resp with
    | some st => if st = 0 then none else some ⟨(statusCause st).code, false, w.va, 1, now⟩
    | none => none)

/-- The answer to an atomic of a parked item goes into its image, and so do those of its stores (R103, R286). -/
def ThreadImage.land (t : ThreadImage) (st data : Nat) (now : Dword) : ThreadImage :=
  match t.out with
  | none => t
  | some o =>
    let r := o.lands st data now
    { t with out := none, asyncs := t.asyncs ++ r.2,
             g := match r.1 with
               | some x => if x.1 = 0 then t.g else tput 0 t.g x.1.toNat x.2
               | none => t.g }

def ThreadImage.settleStores (t : ThreadImage) (now : Dword) : ThreadImage :=
  { t with wbuf := t.wbuf.filter (fun w => w.resp.isNone), asyncs := t.asyncs ++ storeTraps t.wbuf now }

/-- Bytes of a portable context image (R108), and where one of a partition's image area lies (R109). -/
def imageSize : Nat := 1389056
def Mach.imageAddr (m : Mach) (p : PartId) (n : Nat) : Nat := (m.part p).imgBase.toNat + imageSize * n

def respondStore (l : List WEntry) (place : Place) (st : Nat) : List WEntry :=
  match l with
  | [] => []
  | w :: r => if w.sent && w.place = place && w.resp.isNone then { w with resp := some st } :: r
              else w :: respondStore r place st

def respondAns (l : List RAns) (place : Place) (st data : Nat) : List RAns :=
  l.map (fun a => if a.place = place && a.resp.isNone then { a with resp := some (st, data) } else a)

def respondOut (o : Option Outst) (st data : Nat) : Option Outst :=
  o.map (fun o => if o.resp.isNone then { o with resp := some (st, data) } else o)

/-- Requests of a die change hands: the agents that wait for their answers. -/
def Mach.handOver (m : Mach) (d : DieId) (f : Agent → Agent) : Mach :=
  m.modDie d (fun y => { y with tags := y.tags.map (fun g => { g with agent := g.agent.map f }),
                                tagq := y.tagq.map (fun z => (z.1, z.2.1.map f, z.2.2)) })

/-- Requests of a die that are still to be answered and whose agent a test picks. -/
def Mach.owedTo (m : Mach) (d : DieId) (f : Agent → Bool) : Nat :=
  ((m.die d).tags.filter (fun g => !g.retiring && f g.agent.root)).length + ((m.die d).tagq.filter (fun z => f z.2.1.root)).length

/-- What a FENCE.X or an ARRIVE with a mark still waits for (R183, R189). -/
def Mach.markLeft (m : Mach) (d : DieId) (n : Nat) : Bool :=
  (m.die d).tags.any (fun g => !g.retiring && g.agent.hasMark n) || (m.die d).tagq.any (fun z => z.2.1.hasMark n)

/-- The requests that agents of a die have sent get the next mark, where a test picks the agent. -/
def Mach.markSent (m : Mach) (d : DieId) (f : Agent → Bool) : Mach :=
  { m.handOver d (fun a => if f a then .marked a m.nextMark else a) with nextMark := m.nextMark + 1 }

def Chain.written (c : Chain) (st blk : Nat) : Chain :=
  { c with outw := c.outw - 1, outst := if c.outst.1 = 0 ∧ st ≠ 0 then (st, blk) else c.outst }

/-- Is this the item a reference names. -/
def ItemRef.is (r : ItemRef) (b : Bind) : Bool :=
  b.part = r.part && b.lid = r.lid && b.slot = r.slot && b.pos = r.pos

/-- The tile an item runs on, if it is on one. -/
def Mach.itemTile (m : Mach) (r : ItemRef) : Option TileId :=
  ((List.range 8).map (fun k => tileOf r.clu (BitVec.ofNat 3 k))).find? (fun t =>
    ((m.tile t).bind.map (ItemRef.is r)).getD false)

/-- Change the image of an item that is parked: in a kennel slot of its cluster, or spilled (R106, R109). -/
def Mach.modParked (m : Mach) (r : ItemRef) (f : Image → Image) : Mach :=
  let g := fun (o : Option Image) => o.map (fun im => if r.is im.bind then f im else im)
  let m := ((List.range 8).map (fun k => tileOf r.clu (BitVec.ofNat 3 k))).foldl (fun (m : Mach) t =>
    m.modTile t (fun x => { x with kennel := g x.kennel })) m
  let h := fun (_ : Nat) (o : Option Image) => if (o.map (fun (im : Image) => decide (im.tile.cluster = r.clu))).getD false then g o else o
  m.modPart r.part (fun p => { p with spilled := tmap none h p.spilled })

/-- The answer to an atomic of a parked item (R103): a spilled image holds the register in memory. -/
def Mach.landParked (m : Mach) (r : ItemRef) (st data : Nat) : Mach :=
  let regs := (m.part r.part).spilled.filterMap (fun x => x.2.bind (fun im =>
    if r.is im.bind && decide (im.tile.cluster = r.clu) then
      (im.thr.out.bind (fun o => (o.lands st data m.time).1)).map (fun y => (x.1, y))
    else none))
  let m := m.modParked r (fun im => { im with thr := im.thr.land st data m.time })
  regs.foldl (fun (m : Mach) (x : Nat × Reg × Dword) =>
    if x.2.1 = 0 then m
    else m.writeVa r.part (m.imageAddr r.part x.1 + 0x153000 + 8 * x.2.1.toNat) (toBytes 8 x.2.2.toNat)) m

/-- A compare-and-swap that makes an FP32 update of R337: the message `x` with comparand `cmp` and the value that the update
gives for it (R27, R409; log 21). -/
def casMsg (x : Msg) (rop : Nat) (rm : BitVec 2) (cmp v : Nat) : Msg :=
  { x with data := x.data.take 1 ++ [BitVec.ofNat 128 (reduceNew rop rm cmp v + cmp * 2 ^ 64)] }

/-- The answer to an outstanding request of die `d` reaches its agent (R32, R103, R106, R171, R330). -/
def Mach.deliver (m : Mach) (d : DieId) (who : Agent) (place : Place) (st data : Nat) : Mach :=
  match who with
  | .cas w x rop rm v =>
    let cmp := (x.data.getD 1 0).toNat / 2 ^ 64
    if st ≠ 0 ∨ data = cmp then m.deliver d w place st 0
    else
      let y := casMsg x rop rm data v
      m.requestOrWait d y (.cas w y rop rm v) place
  | .itemThread r =>
    match m.itemTile r with
    | some t => m.modThr t (fun th => { th with out := respondOut th.out st data })
    | none => m.landParked r st data
  | .itemStore r =>
    match m.itemTile r with
    | some t => m.modThr t (fun th => { th with wbuf := respondStore th.wbuf place st })
    | none => m.modParked r (fun im =>
        { im with thr := ThreadImage.settleStores { im.thr with wbuf := respondStore im.thr.wbuf place st } m.time })
  | .itemW r e blk =>
    match m.itemTile r with
    | some t => m.modChain t e (fun c => c.written st blk)
    | none => m.modParked r (fun im => { im with ctx := im.ctx.modChain e (fun c => c.written st blk) })
  | .thread t => m.modThr t (fun th => { th with out := respondOut th.out st data })
  | .store t => m.modThr t (fun th => { th with wbuf := respondStore th.wbuf place st })
  | .eng t e => m.modChain t e (fun c => { c with answers := respondAns c.answers place st data })
  | .engW t e blk => m.modChain t e (fun c => c.written st blk)
  | .copy d e => m.modDie d (fun x =>
      { x with copies := tmod [] x.copies e.toNat (fun l =>
          match l with
          | [] => []
          | j :: r => { j with answers := respondAns j.answers place st data } :: r) })
  | .gang t idx len => m.modChain t .mx (fun c =>
      let bad := if st ≠ 0 then st else if data % 256 = 0 then 0 else 0x100 + data % 256
      if bad = 0 then
        { c with outw := c.outw - 1, glmask := c.glmask ||| BitVec.ofNat 64 ((2 ^ len - 1) * 2 ^ (idx % 64)) }
      else { c with outw := c.outw - 1, outst := if c.outst.1 = 0 ∨ c.outst.1 = 0x102 then (bad, c.cur) else c.outst })
  | .work w => m.modWork w (fun x => { x with state := if st = 0 then .done else .failed (statusVal 1 0) })
  | .rel w _ _ => m.modWork w (fun x => { x with out := x.out - 1 })
  | .dead _ _ => m
  | .host f => m.modFunc f (fun x => { x with owed := x.owed - 1 })
  | .update _ _ => m
  | .marked w _ => m.deliver d w place st data
  | .none => m

/-- Send a request, or answer it at once with NOROUTE where no route exists (R37, R166). -/
def Mach.ask (m : Mach) (d : DieId) (x : Msg) (who : Agent) (place : Place) (pois : List Nat := []) : Option Mach :=
  if m.routed d x.dpkg then m.request d x who place pois else some (m.deliver d who place 4 0)

end Sys2Proof.Machine
end

