-- ==== Sys2Proof/Machine/Access.lean ====
section
/-! DEFINITION. Memory accesses of a Musher thread: loads, stores, atomics (R270-R273, R285-R287) with the write buffer
(R272), the data cache (R184), the instruction cache (R193) and remote accesses (R27, R171). -/
namespace Sys2Proof.Machine

/-- What an access of an instruction comes to: a value, a precise trap, or no completion yet. -/
inductive MRes where
  | val (v : Nat) (m : Mach)
  | trap (c : Cause) (tval : Dword) (w : WalkFail) (m : Mach)
  | stall (m : Mach)

/-- The instruction's first word, which KTVAL holds for MU.ILLEGAL, MU.PRIV, MU.ARG and MU.BUSY (R156). -/
def instrWord : Instr → Dword
  | .muIllegal w => w.setWidth 64
  | i => match encodeMusher i with
    | some (w, _) => w.setWidth 64
    | none => 0

/-- A precise trap of the issuing thread whose KTVAL is the instruction word. -/
def Mach.trapWord (m : Mach) (t : TileId) (c : Cause) (i : Instr) : Mach := m.trapAt t c (instrWord i)

def Thread.user (th : Thread) : Bool := th.pl = 0

/-! ### The data cache (R184) -/

def dfind (c : MCore) (line : Nat) : Option (List Byte) :=
  (c.dlines.find? (fun l => l.line = line)).map (·.data)

/-- A line is filled; past 512 lines the oldest leaves (log 10). -/
def dfill (c : MCore) (line : Nat) (data : List Byte) : MCore :=
  let l := c.dlines.filter (fun x => x.line ≠ line) ++ [⟨line, data⟩]
  { c with dlines := l.drop (l.length - 512) }

def ddrop (c : MCore) (line : Nat) : MCore := { c with dlines := c.dlines.filter (fun x => x.line ≠ line) }

/-- Bytes of a line replaced from an offset on. -/
def patchBytes (data : List Byte) (off : Nat) (bs : List Byte) : List Byte :=
  data.take off ++ bs ++ data.drop (off + bs.length)

/-- A store that leaves updates a present line (R184). -/
def dupdate (c : MCore) (pa : Nat) (bs : List Byte) : MCore :=
  { c with dlines := c.dlines.map (fun l => if l.line = pa / 64 then { l with data := patchBytes l.data (pa % 64) bs } else l) }

/-- Requests of a core's threads that a test picks will fill no cache when they are answered: what they bring may be older
than what the core has seen since (R179, R184, R193). -/
def Mach.stale (m : Mach) (c : ClusterId) (f : Outst → Bool) : Mach :=
  (tilesOf c).foldl (fun (m : Mach) t =>
    if ((m.thr t).out.map f).getD false then m.modThr t (fun th => { th with out := th.out.map (fun o => { o with stale := true }) }) else m) m

/-- The request is for a line of the data cache. -/
def Outst.fills (o : Outst) (line : Nat) : Bool :=
  o.cache && (match o.place with
    | .here pa => decide (pa / 64 = line)
    | _ => false)

def Outst.fetches (o : Outst) : Bool :=
  match o.fin with
  | .fetch _ => true
  | _ => false

/-- A line of a core's data cache is filled, updated by a store that leaves, or invalidated by an atomic (R184). -/
def Mach.dfill (m : Mach) (c : ClusterId) (line : Nat) (data : List Byte) : Mach :=
  (m.setCore c (Sys2Proof.Machine.dfill (m.core c) line data)).stale c (fun o => o.fills line)
def Mach.dupdate (m : Mach) (c : ClusterId) (pa : Nat) (bs : List Byte) : Mach :=
  (m.setCore c (Sys2Proof.Machine.dupdate (m.core c) pa bs)).stale c (fun o => o.fills (pa / 64))
def Mach.ddrop (m : Mach) (c : ClusterId) (line : Nat) : Mach :=
  (m.setCore c (Sys2Proof.Machine.ddrop (m.core c) line)).stale c (fun o => o.fills line)

/-- An acquire that includes `md` invalidates the core's whole data cache (R184). -/
def Mach.dinvalidate (m : Mach) (c : ClusterId) : Mach :=
  (m.setCore c { m.core c with dlines := [] }).stale c (fun o => o.cache)

/-! ### The write buffer (R272) -/

/-- Do two byte ranges of one place overlap; is the first inside the second. -/
def placeAddr : Place → Nat × Nat
  | .here pa => (0, pa)
  | .host ba => (1, ba)
  | .away p pa => (2 + p.toNat, pa)
  | .repl s o => (5000 + s.toNat, o)

def overlaps (p : Place) (n : Nat) (w : WEntry) : Bool :=
  let (k, a) := placeAddr p
  let (k', a') := placeAddr w.place
  k = k' && decide (a < a' + w.size ∧ a' < a + n)

def coveredBy (p : Place) (n : Nat) (w : WEntry) : Bool :=
  let (k, a) := placeAddr p
  let (k', a') := placeAddr w.place
  k = k' && decide (a' ≤ a ∧ a + n ≤ a' + w.size)

/-- The youngest buffered store that overlaps. -/
def youngest (l : List WEntry) (p : Place) (n : Nat) : Option WEntry :=
  l.foldl (fun acc w => if overlaps p n w then some w else acc) none

/-- FENCE.C holds an access of class `c` while a store it names is unperformed (R181, R288). -/
def fenceHeld (l : List WEntry) (c : BitVec 4) : Bool := l.any (fun w => w.blocks.getLsbD c.toNat)

/-- An earlier store of the class is still to be performed (R272). -/
def classHeld (l : List WEntry) (c : BitVec 4) : Bool := l.any (fun w => w.cls = c)

/-- Stores in the buffer; one sent to its target has left it. -/
def buffered (l : List WEntry) : Nat := (l.filter (fun w => !w.sent)).length

/-! ### Loads -/

/-- Begin a remote request: the thread is STALLED until its answer returns (R151, R171). -/
def Mach.startOut (m : Mach) (t : TileId) (va : Dword) (p : Place) (cache : Bool) (fin : OFin) (x : Msg) : MRes :=
  let m := m.modThr t (fun th => { th with out := some ⟨va, p, cache, false, fin, none, false⟩, st := .stalled })
  match m.ask t.die x (.thread t) p with
  | some m => .stall m
  | none => .stall (m.modThr t (fun th => { th with out := none }))

/-- Read bytes at a place of this package's own die or the host: STATUS, value and machine. -/
def Mach.readHere (m : Mach) (pa n master : Nat) : Nat × Nat × Mach :=
  let (ok, m) := m.checkGrant pa master .read false
  if !ok then (2, 0, m)
  else
    let (v, p, m) := m.readPa pa n
    if p then (3, 0, m) else (0, v, m)

/-- A load of `n` aligned bytes once its address has been looked up (R270-R272): forwarded from the write buffer, from the data
cache, or from memory. -/
def Mach.loadAt (m : Mach) (t : TileId) (va : Dword) (n : Nat) (cls : BitVec 4) (fin : OFin) : MRes :=
  let th := m.thr t
  let p := m.partOf t
  match m.translate (.core t.cluster) p va.toNat n .read th.user with
  | .bad w => .trap .page va w m
  | .ok place cacheable =>
    if fenceHeld th.wbuf cls then .stall m
    else
      match youngest th.wbuf place n with
      | some w =>
        if coveredBy place n w then
          .val (w.data.toNat / 2 ^ (8 * ((placeAddr place).2 - (placeAddr w.place).2)) % 2 ^ (8 * n)) m
        else .stall m
      | none =>
        if classHeld th.wbuf cls then .stall m
        else
          match place with
          | .here pa =>
            let core := m.core t.cluster
            match if cacheable then dfind core (pa / 64) else none with
            | some data => .val (ofBytes ((data.drop (pa % 64)).take n)) m
            | none =>
              if paDie pa = t.die then
                let (st, v, m) := m.readHere pa n (masterMusher t.cluster)
                if st ≠ 0 then .trap (statusCause st) va (noWalk 0) m
                else
                  let line := pa / 64 * 64
                  let m := if cacheable then m.decodeRange line 64 else m
                  if cacheable && !m.poisoned line 64 then
                    .val v (m.dfill t.cluster (pa / 64) (Memory.bytes m.mem line 64))
                  else .val v m
              else if cacheable then
                m.startOut t va place true fin (readMsg m.pkg (pa / 64 * 64) 64 p (sagentMusher t) cls)
              else m.startOut t va place false fin (readMsg m.pkg pa n p (sagentMusher t) cls)
          | .host ba => .val (Memory.read m.hostMem ba n) m
          | .away pkg pa => m.startOut t va place false fin (readMsg pkg pa n p (sagentMusher t) cls)
          | .repl set off =>
            if m.isMember set t.die then
              let (st, v, m) := m.readHere (hbmPa t.die off) n (masterMusher t.cluster)
              if st ≠ 0 then .trap (statusCause st) va (noWalk 0) m else .val v m
            else
              let (pkg, d) := m.sequencer t.die set
              m.startOut t va place false fin (readMsg pkg (hbmPa d off) n p (sagentMusher t) cls)

/-- The machine once a thread's translation has looked in its cluster's TLB (R172). -/
def Mach.looked (m : Mach) (t : TileId) (va : Dword) : Mach := m.walked (.core t.cluster) (m.partOf t) va.toNat

/-- A load of `n` bytes (R270). -/
def Mach.load (m : Mach) (t : TileId) (va : Dword) (n : Nat) (cls : BitVec 4) (fin : OFin) : MRes :=
  if va.toNat % n ≠ 0 then .trap .align va default m else (m.looked t va).loadAt t va n cls fin

/-! ### Stores -/

/-- A store of `n` aligned bytes whose address has been looked up enters its thread's write buffer (R270-R272). -/
def Mach.storeAt (m : Mach) (t : TileId) (va : Dword) (n : Nat) (cls : BitVec 4) (v : Dword) : MRes :=
  let th := m.thr t
  match m.translate (.core t.cluster) (m.partOf t) va.toNat n .write th.user with
  | .bad w => .trap .page va w m
  | .ok place _ =>
    if fenceHeld th.wbuf cls || decide (8 ≤ buffered th.wbuf) then .stall m
    else
      .val 0 (m.modThr t (fun th =>
        { th with wbuf := th.wbuf ++ [⟨va, place, n, zextLow v (8 * n), cls, 0, false, none⟩] }))

/-- A store of `n` bytes (R270). -/
def Mach.store (m : Mach) (t : TileId) (va : Dword) (n : Nat) (cls : BitVec 4) (v : Dword) : MRes :=
  if va.toNat % n ≠ 0 then .trap .align va (noWalk 1) m else (m.looked t va).storeAt t va n cls v

/-- Update message of a replicated page, from die `w` to the sequencer's die `d` (R27, R41): control slot, then data and mask
slots. ADDR is the address in the writer's view: the page's frame in the HBM of its die (R169). -/
def updateWriteMsg (pkg : BitVec 12) (w d : DieId) (set : BitVec 16) (off : Nat) (bs : List Byte) (p : PartId)
    (ag : BitVec 10) (cls : BitVec 4) : Msg :=
  let a := hbmPa w off
  { blankMsg with op := 0x30, addr := reqAddr (a / 16 * 16) p, dpkg := pkg, ddie := d, sagent := ag, cls := cls,
                  data := BitVec.ofNat 128 set.toNat :: writeSlots a bs }

def updateAmoMsg (pkg : BitVec 12) (w d : DieId) (set : BitVec 16) (off kind op : Nat) (dword : Bool) (operand : Quad)
    (p : PartId) (ag : BitVec 10) (cls : BitVec 4) : Msg :=
  { blankMsg with op := 0x30, addr := reqAddr (hbmPa w off) p, dpkg := pkg, ddie := d, sagent := ag, cls := cls,
                  data := [BitVec.ofNat 128 (set.toNat + kind * 2 ^ 16 + op * 2 ^ 18 + b2n dword * 2 ^ 22), operand] }

/-- Change the first entry a test picks. -/
def modFirst {α : Type} (l : List α) (p : α → Bool) (f : α → List α) : List α :=
  match l with
  | [] => []
  | a :: r => if p a then f a ++ r else a :: modFirst r p f

/-- The oldest store of a class leaves the buffer for its target (R272, R184): performed at once on its own die or at
the host, else sent. It waits while an earlier one of its class is still unperformed. -/
def Mach.drainStore (m : Mach) (t : TileId) (cls : BitVec 4) : Mach :=
  let th := m.thr t
  let p := m.partOf t
  match th.wbuf.find? (fun w => w.cls = cls) with
  | none => m
  | some w =>
    if w.sent then m
    else
      let bs := toBytes w.size w.data.toNat
      let isW := fun (x : WEntry) => x.cls = cls && !x.sent
      let gone := fun (m : Mach) => m.modThr t (fun th => { th with wbuf := modFirst th.wbuf isW (fun _ => []) })
      let mark := fun (m : Mach) (r : Option Nat) =>
        m.modThr t (fun th => { th with wbuf := modFirst th.wbuf isW (fun x => [{ x with sent := true, resp := r }]) })
      let send := fun (m : Mach) (x : Msg) => ((mark m none).ask t.die x (.store t) w.place).getD m
      match w.place with
      | .here pa =>
        if paDie pa = t.die then
          let (ok, m) := (m.dupdate t.cluster pa bs).checkGrant pa (masterMusher t.cluster) .write false
          if ok then gone (m.writePa pa bs) else mark m (some 2)
        else if m.tagRoom t.die [(m.pkg, paDie pa)] then
          send (m.dupdate t.cluster pa bs) (writeMsg m.pkg pa bs p (sagentMusher t) w.cls)
        else m
      | .host ba => gone { m with hostMem := Memory.writeBytes m.hostMem ba bs }
      | .away pkg pa => send m (writeMsg pkg pa bs p (sagentMusher t) w.cls)
      | .repl set off =>
        let (pkg, d) := m.sequencer t.die set
        send m (updateWriteMsg pkg t.die d set off bs p (sagentMusher t) w.cls)

/-- The STATUS of a sent store is taken: it leaves the list, and a non-zero one becomes an asynchronous trap with
KTVAL the address (R171, R271). -/
def Mach.storeStatus (m : Mach) (t : TileId) : Mach :=
  let th := m.thr t
  match th.wbuf.find? (fun w => w.resp.isSome) with
  | none => m
  | some w =>
    let st := w.resp.getD 0
    let rest := modFirst th.wbuf (fun x => x.resp.isSome) (fun _ => [])
    let tr := if st = 0 then [] else [(⟨(statusCause st).code, false, w.va, 1, m.time⟩ : ATrap)]
    m.setThr t { th with wbuf := rest, asyncs := th.asyncs ++ tr }

/-! ### Atomics -/

/-- An aligned atomic of the thread whose address has been looked up (R285, R286). `op` as in R235; `d` compares for AMOCAS. -/
def Mach.amoAt (m : Mach) (t : TileId) (va : Dword) (op : Nat) (dword : Bool) (cls : BitVec 4) (b d : Dword)
    (fin : OFin) : MRes :=
  let th := m.thr t
  let p := m.partOf t
  let n := if dword then 8 else 4
  match m.translate (.core t.cluster) p va.toNat n .atomic th.user with
  | .bad w => .trap .page va w m
  | .ok place _ =>
    if fenceHeld th.wbuf cls || classHeld th.wbuf cls then .stall m
    else
      match place with
      | .host _ => .trap .access va (noWalk 2) m
      | .here pa =>
        let m := m.ddrop t.cluster (pa / 64)
        if paDie pa = t.die then
          let (ok, m) := m.checkGrant pa (masterMusher t.cluster) .atomic false
          if !ok then .trap .access va (noWalk 2) m
          else
            let m := m.readPort pa n
            if m.poisoned pa n then .trap .poison va (noWalk 2) m
            else
              let (old, m) := m.amoPa pa op dword b.toNat d.toNat
              .val old m
        else m.startOut t va place false fin (amoMsg m.pkg pa op dword b.toNat d.toNat p (sagentMusher t) cls)
      | .away pkg pa => m.startOut t va place false fin (amoMsg pkg pa op dword b.toNat d.toNat p (sagentMusher t) cls)
      | .repl set off =>
        let (pkg, d') := m.sequencer t.die set
        let x := amoMsg pkg 0 op dword b.toNat d.toNat p (sagentMusher t) cls
        m.startOut t va place false fin
          (updateAmoMsg pkg t.die d' set off 1 op dword (x.data.headD 0) p (sagentMusher t) cls)

/-- An atomic of the thread (R285, R286). -/
def Mach.amo (m : Mach) (t : TileId) (va : Dword) (op : Nat) (dword : Bool) (cls : BitVec 4) (b d : Dword)
    (fin : OFin) : MRes :=
  if va.toNat % (if dword then 8 else 4) ≠ 0 then .trap .align va (noWalk 2) m
  else (m.looked t va).amoAt t va op dword cls b d fin

/-- An aligned AQADD of the thread whose address has been looked up (R287). -/
def Mach.aqaddAt (m : Mach) (t : TileId) (va : Dword) (cls : BitVec 4) (v : Nat) : MRes :=
  let th := m.thr t
  let p := m.partOf t
  match m.translate (.core t.cluster) p va.toNat 16 .atomic th.user with
  | .bad w => .trap .page va w m
  | .ok place _ =>
    if fenceHeld th.wbuf cls || classHeld th.wbuf cls then .stall m
    else
      match place with
      | .host _ => .trap .access va (noWalk 2) m
      | .here pa =>
        let m := m.ddrop t.cluster (pa / 64)
        if paDie pa = t.die then
          let (ok, m) := m.checkGrant pa (masterMusher t.cluster) .atomic false
          if !ok then .trap .access va (noWalk 2) m
          else
            let m := m.readPort pa 16
            if m.poisoned pa 16 then .trap .poison va (noWalk 2) m else .val 0 (m.aqaddPa pa v)
        else m.startOut t va place false .aqadd (aqaddMsg m.pkg pa v p (sagentMusher t) cls)
      | .away pkg pa => m.startOut t va place false .aqadd (aqaddMsg pkg pa v p (sagentMusher t) cls)
      | .repl set off =>
        let (pkg, d) := m.sequencer t.die set
        m.startOut t va place false .aqadd
          (updateAmoMsg pkg t.die d set off 2 0 false (BitVec.ofNat 128 v) p (sagentMusher t) cls)

/-- AQADD of the thread (R287). -/
def Mach.aqaddOp (m : Mach) (t : TileId) (va : Dword) (cls : BitVec 4) (v : Nat) : MRes :=
  if va.toNat % 16 ≠ 0 then .trap .align va (noWalk 2) m else (m.looked t va).aqaddAt t va cls v

/-! ### Instruction fetch (R193, R233, R138) -/

inductive FRes where
  | word (w : Word) (m : Mach)
  | trap (c : Cause) (tval : Dword) (w : WalkFail) (m : Mach)
  | stall (m : Mach)

def ifind (c : MCore) (p : PartId) (line : Nat) : Option (List Byte) :=
  (c.ilines.find? (fun l => l.part = p && l.line = line)).map (·.data)

def ifill (c : MCore) (p : PartId) (line : Nat) (data : List Byte) : MCore :=
  let l := c.ilines.filter (fun x => !(x.part = p && x.line = line)) ++ [⟨p, line, data, false⟩]
  { c with ilines := l.drop (l.length - 512) }

/-- Read 64 bytes of a line for the instruction cache: STATUS, poison of the word asked for, bytes. Lines of this
package are read at their die directly (log 5). -/
def Mach.fetchLine (m : Mach) (t : TileId) (pa word : Nat) : Nat × List Byte × Mach :=
  let line := pa / 64 * 64
  let (ok, m) := m.checkGrant pa (masterMusher t.cluster) .read false
  if !ok then (2, [], m)
  else
    let m := m.readPort line 64
    if m.poisoned word 4 then (3, [], m) else (0, Memory.bytes m.mem line 64, m)

/-- Ask another package for the line of an instruction. -/
def Mach.askLine (m : Mach) (t : TileId) (va : Dword) (place : Place) (pkg : BitVec 12) (pa : Nat) : FRes :=
  match m.startOut t va place false (.fetch (va.toNat / 64)) (readMsg pkg (pa / 64 * 64) 64 (m.partOf t) (sagentMusher t) 0) with
  | .stall m => .stall m
  | .val _ m => .stall m
  | .trap c v w m => .trap c v w m

/-- Fetch the word at `va` once it has been looked up (R170, R171, R174): MU.FETCH for a failed walk or missing X, the STATUS
codes, MU.POISON. -/
def Mach.fetchAt (m : Mach) (t : TileId) (va : Dword) : FRes :=
  let th := m.thr t
  let p := m.partOf t
  match m.translate (.core t.cluster) p va.toNat 4 .fetch th.user with
  | .bad w => .trap .fetch va w m
  | .ok place _ =>
    match ifind (m.core t.cluster) p (va.toNat / 64) with
    | some data => .word (BitVec.ofNat 32 (ofBytes ((data.drop (va.toNat % 64)).take 4))) m
    | none =>
      let fill := fun (m : Mach) (pa : Nat) =>
        let (st, data, m) := m.fetchLine t pa pa
        if st ≠ 0 then FRes.trap (statusCause st) va (noWalk 3) m
        else
          let pois := m.poisoned (pa / 64 * 64) 64
          let w := BitVec.ofNat 32 (ofBytes ((data.drop (pa % 64)).take 4))
          if pois then FRes.word w m
          else FRes.word w (m.setCore t.cluster (ifill (m.core t.cluster) p (va.toNat / 64) data))
      match place with
      | .here pa => fill m pa
      | .host ba => .word (BitVec.ofNat 32 (Memory.read m.hostMem ba 4)) m
      | .away pkg pa => m.askLine t va place pkg pa
      | .repl set off =>
        let (pkg, d) := m.sequencer t.die set
        if m.isMember set t.die then fill m (hbmPa t.die off)
        else if pkg = m.pkg then fill m (hbmPa d off)
        else m.askLine t va place pkg (hbmPa d off)

/-- Fetch the word at `va`. -/
def Mach.fetchWord (m : Mach) (t : TileId) (va : Dword) : FRes := (m.looked t va).fetchAt t va

/-! ### The return of an outstanding request (R171) -/

/-- The value of a load in a register (R270). -/
def loadExt (size : Nat) (signed : Bool) (v : Nat) : Dword :=
  if signed then sextLow (BitVec.ofNat 64 v) (8 * size) else zextLow (BitVec.ofNat 64 v) (8 * size)

/-- The bytes of an answer that a load of `n` bytes at `pa` asked for: the answer starts at a 16-byte slot, or at the
line for a fill. -/
def answerBytes (place : Place) (n data : Nat) (line : Bool) : Nat :=
  let a := (placeAddr place).2
  let off := if line then a % 64 else a % 16
  data / 2 ^ (8 * off) % 2 ^ (8 * n)

/-- Complete the outstanding request of a thread once its answer has come: the register is written and the
instruction ends, or the precise trap of the STATUS is taken (R171, R286); with an asynchronous trap pending, that one is first (R155).
An answer that may be newer than the line which came meanwhile drops that line (R179). -/
def Mach.loadReturn (m : Mach) (t : TileId) : Mach :=
  let th := m.thr t
  match th.out with
  | none => m
  | some o =>
    match o.resp with
    | none => m
    | some (st, data) =>
      if o.late then m.modThr t (fun th => th.land o st data m.time)
      else
      let m := m.modThr t (fun th => { th with out := none, st := .ready })
      if st ≠ 0 && !th.asyncs.isEmpty then
        match o.fin with
        | .loadm r _ => m.modThr t (fun th => th.setMprog (BitVec.ofNat 6 (32 + r.toNat)))
        | _ => m
      else if st ≠ 0 then
        match o.fin with
        | .loadm r _ => (m.modThr t (fun th => th.setMprog (BitVec.ofNat 6 (32 + r.toNat)))).trapAt t (statusCause st) o.va
        | fin => m.trapAt t (statusCause st) o.va fin.acc
      else
        let fillD := fun (m : Mach) =>
          if !o.cache then m
          else if o.stale then m.ddrop t.cluster ((placeAddr o.place).2 / 64)
          else m.dfill t.cluster ((placeAddr o.place).2 / 64) (toBytes 64 data)
        match o.fin with
        | .load d size signed =>
          let v := loadExt size signed (answerBytes o.place size data o.cache)
          (fillD m).modThr t (fun th => (th.wr d v).finish (th.pc + 4))
        | .amo d word =>
          m.modThr t (fun th => (th.wr d (amoResult (!word) data)).finish (th.pc + 4))
        | .aqadd => m.modThr t (fun th => th.finish (th.pc + 4))
        | .loadm r last =>
          let v := BitVec.ofNat 64 (answerBytes o.place 8 data o.cache)
          (fillD m).modThr t (fun th =>
            let th := th.wr r v
            if r.toNat < last.toNat then { th.setMprog (BitVec.ofNat 6 (32 + r.toNat + 1)) with st := .stalled }
            else (th.setMprog 0).finish (th.pc + 4))
        | .fetch line =>
          if o.stale then m else m.setCore t.cluster (ifill (m.core t.cluster) (m.partOf t) line (toBytes 64 data))

end Sys2Proof.Machine
end

