-- ==== Sys2Proof/Machine/MusherInt.lean ====
section
/-! DEFINITION. Musher arithmetic: ALU, word ALU, immediates, bit fields, constants (R264-R269) and scalar FP32 (R281,
R282). Each reads its sources, writes one register and moves on; none faults. -/
namespace Sys2Proof.Machine

/-- An instruction that writes one register from the issuing thread's state and completes: `n` bytes long. -/
def State.setReg (s : State) (d : Reg) (n : Dword) (f : Thread → Dword) : Host.Outcome State Fault Refusal :=
  .next (s.onThread (fun th => (th.wr d (f th)).finish (th.pc + n)))

/-- A two-operand result. -/
def State.alu (s : State) (d a b : Reg) (f : Dword → Dword → Dword) : Host.Outcome State Fault Refusal :=
  s.setReg d 4 (fun th => f (th.rd a) (th.rd b))

/-- A one-operand result. -/
def State.alu1 (s : State) (d a : Reg) (f : Dword → Dword) : Host.Outcome State Fault Refusal :=
  s.setReg d 4 (fun th => f (th.rd a))

/-- The word forms work on the low halves and sign-extend from bit 31 (R265). -/
def State.aluW (s : State) (d a b : Reg) (f : Word → Word → Word) : Host.Outcome State Fault Refusal :=
  s.alu d a b (fun x y => (f (x.setWidth 32) (y.setWidth 32)).signExtend 64)

/-- SH of R264: the low six bits. -/
def shAmt (y : Dword) : Nat := (y.extractLsb' 0 6).toNat
/-- SH5 of R265. -/
def shAmtW (y : Word) : Nat := (y.extractLsb' 0 5).toNat

def sdiv {n : Nat} (x y : BitVec n) : BitVec n := BitVec.ofInt n (intDiv x.toInt y.toInt n true)
def udivS {n : Nat} (x y : BitVec n) : BitVec n := BitVec.ofInt n (intDiv x.toNat y.toNat n false)
def srem' {n : Nat} (x y : BitVec n) : BitVec n := BitVec.ofInt n (intRem x.toInt y.toInt)
def urem' {n : Nat} (x y : BitVec n) : BitVec n := BitVec.ofInt n (intRem x.toNat y.toNat)

def mulHiS (x y : Dword) : Dword := BitVec.ofInt 64 (x.toInt * y.toInt / 2 ^ 64)
def mulHiU (x y : Dword) : Dword := BitVec.ofNat 64 (x.toNat * y.toNat / 2 ^ 64)

/-- Add (R264). -/
def execAdd (d a b : Reg) (s : State) : Host.Outcome State Fault Refusal := s.alu d a b (fun x y => x + y)

/-- Sub (R264). -/
def execSub (d a b : Reg) (s : State) : Host.Outcome State Fault Refusal := s.alu d a b (fun x y => x - y)

/-- And (R264). -/
def execAnd (d a b : Reg) (s : State) : Host.Outcome State Fault Refusal := s.alu d a b (fun x y => x &&& y)

/-- Or (R264). -/
def execOr (d a b : Reg) (s : State) : Host.Outcome State Fault Refusal := s.alu d a b (fun x y => x ||| y)

/-- Xor (R264). -/
def execXor (d a b : Reg) (s : State) : Host.Outcome State Fault Refusal := s.alu d a b (fun x y => x ^^^ y)

/-- Shl (R264). -/
def execShl (d a b : Reg) (s : State) : Host.Outcome State Fault Refusal := s.alu d a b (fun x y => x <<< shAmt y)

/-- Shr (R264). -/
def execShr (d a b : Reg) (s : State) : Host.Outcome State Fault Refusal := s.alu d a b (fun x y => x >>> shAmt y)

/-- Sar (R264). -/
def execSar (d a b : Reg) (s : State) : Host.Outcome State Fault Refusal := s.alu d a b (fun x y => x.sshiftRight (shAmt y))

/-- Cmplt (R264). -/
def execCmplt (d a b : Reg) (s : State) : Host.Outcome State Fault Refusal := s.alu d a b (fun x y => b2d (x.slt y))

/-- Cmpltu (R264). -/
def execCmpltu (d a b : Reg) (s : State) : Host.Outcome State Fault Refusal := s.alu d a b (fun x y => b2d (x.ult y))

/-- Min (R264). -/
def execMin (d a b : Reg) (s : State) : Host.Outcome State Fault Refusal := s.alu d a b (fun x y => if x.slt y then x else y)

/-- Max (R264). -/
def execMax (d a b : Reg) (s : State) : Host.Outcome State Fault Refusal := s.alu d a b (fun x y => if x.slt y then y else x)

/-- Minu (R264). -/
def execMinu (d a b : Reg) (s : State) : Host.Outcome State Fault Refusal := s.alu d a b (fun x y => if x.ult y then x else y)

/-- Maxu (R264). -/
def execMaxu (d a b : Reg) (s : State) : Host.Outcome State Fault Refusal := s.alu d a b (fun x y => if x.ult y then y else x)

/-- Mul (R264). -/
def execMul (d a b : Reg) (s : State) : Host.Outcome State Fault Refusal := s.alu d a b (fun x y => x * y)

/-- Mulhi (R264). -/
def execMulhi (d a b : Reg) (s : State) : Host.Outcome State Fault Refusal := s.alu d a b (fun x y => mulHiS x y)

/-- Mulhiu (R264). -/
def execMulhiu (d a b : Reg) (s : State) : Host.Outcome State Fault Refusal := s.alu d a b (fun x y => mulHiU x y)

/-- Div (R264). -/
def execDiv (d a b : Reg) (s : State) : Host.Outcome State Fault Refusal := s.alu d a b (fun x y => sdiv x y)

/-- Divu (R264). -/
def execDivu (d a b : Reg) (s : State) : Host.Outcome State Fault Refusal := s.alu d a b (fun x y => udivS x y)

/-- Rem (R264). -/
def execRem (d a b : Reg) (s : State) : Host.Outcome State Fault Refusal := s.alu d a b (fun x y => srem' x y)

/-- Remu (R264). -/
def execRemu (d a b : Reg) (s : State) : Host.Outcome State Fault Refusal := s.alu d a b (fun x y => urem' x y)

/-- AddW (R265). -/
def execAddW (d a b : Reg) (s : State) : Host.Outcome State Fault Refusal := s.aluW d a b (fun x y => x + y)

/-- SubW (R265). -/
def execSubW (d a b : Reg) (s : State) : Host.Outcome State Fault Refusal := s.aluW d a b (fun x y => x - y)

/-- ShlW (R265). -/
def execShlW (d a b : Reg) (s : State) : Host.Outcome State Fault Refusal := s.aluW d a b (fun x y => x <<< shAmtW y)

/-- ShrW (R265). -/
def execShrW (d a b : Reg) (s : State) : Host.Outcome State Fault Refusal := s.aluW d a b (fun x y => x >>> shAmtW y)

/-- SarW (R265). -/
def execSarW (d a b : Reg) (s : State) : Host.Outcome State Fault Refusal := s.aluW d a b (fun x y => x.sshiftRight (shAmtW y))

/-- MulW (R265). -/
def execMulW (d a b : Reg) (s : State) : Host.Outcome State Fault Refusal := s.aluW d a b (fun x y => x * y)

/-- DivW (R265). -/
def execDivW (d a b : Reg) (s : State) : Host.Outcome State Fault Refusal := s.aluW d a b (fun x y => sdiv x y)

/-- DivuW (R265). -/
def execDivuW (d a b : Reg) (s : State) : Host.Outcome State Fault Refusal := s.aluW d a b (fun x y => udivS x y)

/-- RemW (R265). -/
def execRemW (d a b : Reg) (s : State) : Host.Outcome State Fault Refusal := s.aluW d a b (fun x y => srem' x y)

/-- RemuW (R265). -/
def execRemuW (d a b : Reg) (s : State) : Host.Outcome State Fault Refusal := s.aluW d a b (fun x y => urem' x y)

/-- Addk (R266). -/
def execAddk (d a : Reg) (imm : BitVec 16) (s : State) : Host.Outcome State Fault Refusal := s.alu1 d a (fun x => x + imm.signExtend 64)

/-- Andk (R266). -/
def execAndk (d a : Reg) (imm : BitVec 16) (s : State) : Host.Outcome State Fault Refusal := s.alu1 d a (fun x => x &&& imm.setWidth 64)

/-- Ork (R266). -/
def execOrk (d a : Reg) (imm : BitVec 16) (s : State) : Host.Outcome State Fault Refusal := s.alu1 d a (fun x => x ||| imm.setWidth 64)

/-- Xork (R266). -/
def execXork (d a : Reg) (imm : BitVec 16) (s : State) : Host.Outcome State Fault Refusal := s.alu1 d a (fun x => x ^^^ imm.setWidth 64)

/-- Cmpltk (R266). -/
def execCmpltk (d a : Reg) (imm : BitVec 16) (s : State) : Host.Outcome State Fault Refusal := s.alu1 d a (fun x => b2d (x.slt (imm.signExtend 64)))

/-- Cmpltuk (R266). -/
def execCmpltuk (d a : Reg) (imm : BitVec 16) (s : State) : Host.Outcome State Fault Refusal := s.alu1 d a (fun x => b2d (x.ult (imm.setWidth 64)))

/-- Shlk (R267). -/
def execShlk (d a : Reg) (sh : BitVec 6) (s : State) : Host.Outcome State Fault Refusal := s.alu1 d a (fun x => x <<< sh.toNat)

/-- Shrk (R267). -/
def execShrk (d a : Reg) (sh : BitVec 6) (s : State) : Host.Outcome State Fault Refusal := s.alu1 d a (fun x => x >>> sh.toNat)

/-- Sark (R267). -/
def execSark (d a : Reg) (sh : BitVec 6) (s : State) : Host.Outcome State Fault Refusal := s.alu1 d a (fun x => x.sshiftRight sh.toNat)

/-- HIK (R267). -/
def execHik (d : Reg) (imm : BitVec 16) (s : State) : Host.Outcome State Fault Refusal := s.setReg d 4 (fun _ => imm.signExtend 64 <<< 16)

/-- bf_width of R269. -/
def bfWidth (off wid : BitVec 7) : Nat := if 64 ≤ off.toNat then 0 else Nat.min wid.toNat (64 - off.toNat)

/-- BFX (R269). -/
def execBfx (d a : Reg) (wid off : BitVec 7) (s : State) : Host.Outcome State Fault Refusal :=
  let w := bfWidth off wid
  s.alu1 d a (fun x => if w = 0 then 0 else sextLow (x >>> off.toNat) w)

/-- BFXU (R269). -/
def execBfxu (d a : Reg) (wid off : BitVec 7) (s : State) : Host.Outcome State Fault Refusal :=
  let w := bfWidth off wid
  s.alu1 d a (fun x => if w = 0 then 0 else zextLow (x >>> off.toNat) w)

/-- BFI (R269): it also reads its destination. -/
def execBfi (d a : Reg) (wid off : BitVec 7) (s : State) : Host.Outcome State Fault Refusal :=
  let w := bfWidth off wid
  s.setReg d 4 (fun th =>
    if w = 0 then th.rd d else setBits (th.rd d) (off.toNat + w - 1) off.toNat (zextLow (th.rd a) w).toNat)

/-- LI (R268). -/
def execLi (d : Reg) (imm : BitVec 32) (s : State) : Host.Outcome State Fault Refusal := s.setReg d 8 (fun _ => imm.signExtend 64)

/-- LIU (R268). -/
def execLiu (d : Reg) (imm : BitVec 32) (s : State) : Host.Outcome State Fault Refusal := s.setReg d 8 (fun _ => imm.setWidth 64)

/-- LIHI (R268): the low half of gd is kept. -/
def execLihi (d : Reg) (imm : BitVec 32) (s : State) : Host.Outcome State Fault Refusal :=
  s.setReg d 8 (fun th => imm ++ (th.rd d).extractLsb' 0 32)

/-- LAPC (R268). -/
def execLapc (d : Reg) (imm : BitVec 32) (s : State) : Host.Outcome State Fault Refusal := s.setReg d 8 (fun th => th.pc + imm.signExtend 64)

/-- A relation of two FP32 values; a NaN operand makes all but not-equal false (R212, R281). -/
def fcmp (rel : Val → Val → Bool) (x y : Dword) : Dword :=
  match fval x, fval y with
  | .nan, _ => 0
  | _, .nan => 0
  | a, b => b2d (rel a b)

/-- Fadd (R281). -/
def execFadd (d a b : Reg) (s : State) : Host.Outcome State Fault Refusal := s.alu d a b (fun x y => fres (valAdd 0 (fval x) (fval y)))

/-- Fsub (R281). -/
def execFsub (d a b : Reg) (s : State) : Host.Outcome State Fault Refusal := s.alu d a b (fun x y => fres (valAdd 0 (fval x) (fval y).neg'))

/-- Fmul (R281). -/
def execFmul (d a b : Reg) (s : State) : Host.Outcome State Fault Refusal := s.alu d a b (fun x y => fres (valMul (fval x) (fval y)))

/-- Fmin (R281). -/
def execFmin (d a b : Reg) (s : State) : Host.Outcome State Fault Refusal := s.alu d a b (fun x y => fres (valMin (fval x) (fval y), 0))

/-- Fmax (R281). -/
def execFmax (d a b : Reg) (s : State) : Host.Outcome State Fault Refusal := s.alu d a b (fun x y => fres (valMax (fval x) (fval y), 0))

/-- FcmpEq (R281). -/
def execFcmpEq (d a b : Reg) (s : State) : Host.Outcome State Fault Refusal := s.alu d a b (fun x y => fcmp valEq x y)

/-- FcmpLt (R281). -/
def execFcmpLt (d a b : Reg) (s : State) : Host.Outcome State Fault Refusal := s.alu d a b (fun x y => fcmp valLt x y)

/-- FcmpLe (R281). -/
def execFcmpLe (d a b : Reg) (s : State) : Host.Outcome State Fault Refusal := s.alu d a b (fun x y => fcmp (fun a b => valLt a b || valEq a b) x y)

/-- FcmpNe (R281). -/
def execFcmpNe (d a b : Reg) (s : State) : Host.Outcome State Fault Refusal := s.alu d a b (fun x y => 1 - fcmp valEq x y)

/-- FCVT_IF (R282): the signed 64-bit value to FP32. -/
def execFcvtIf (d a : Reg) (s : State) : Host.Outcome State Fault Refusal :=
  s.alu1 d a (fun x => fres (.num (x.toInt < 0) x.toInt.natAbs 0, 0))

/-- FCVT_FI (R282): FP32 to a saturating signed 64-bit integer under `rne`. -/
def execFcvtFi (d a : Reg) (s : State) : Host.Outcome State Fault Refusal :=
  s.alu1 d a (fun x => BitVec.ofInt 64 (convertI 64 true (fval x) 0).1)

/-- MU_ILLEGAL (R234): a precise trap before any effect, KTVAL the first word. -/
def execMuIllegal (w : Word) (s : State) : Host.Outcome State Fault Refusal :=
  .next (s.onM (fun m => m.trapAt s.turn.thread .illegal (w.setWidth 64)))

end Sys2Proof.Machine
end

