-- ==== Sys2Proof/Machine/MusherMem.lean ====
section
/-! DEFINITION. Musher loads and stores (R270-R274) and memory atomics (R285-R287). -/
namespace Sys2Proof.Machine

/-- How an access ends its instruction: with its value, in a precise trap, or not yet (R151, R154). -/
def MRes.close (r : MRes) (t : TileId) (k : Nat → Mach → Mach) : Mach :=
  match r with
  | .val v m => k v m
  | .trap c tv w m => m.takeTrap t c.code false false tv (m.thr t).pc w
  | .stall m => m.modThr t Thread.stall

/-- The address of format FM: ga + sext(off12) (R270). -/
def eaOf (th : Thread) (a : Reg) (off : BitVec 12) : Dword := th.rd a + off.signExtend 64

/-- A load of `n` bytes into gd (R270). -/
def State.loadTo (s : State) (d a : Reg) (cls : BitVec 4) (off : BitVec 12) (n : Nat) (signed : Bool) :
    Host.Outcome State Fault Refusal :=
  let t := s.turn.thread
  .next (s.onM (fun m =>
    (m.load t (eaOf (m.thr t) a off) n cls (.load d n signed)).close t (fun v m =>
      m.modThr t (fun th => (th.wr d (loadExt n signed v)).finish (th.pc + 4)))))

/-- A store of the low `n` bytes of gs (R270). -/
def State.storeFrom (s : State) (r a : Reg) (cls : BitVec 4) (off : BitVec 12) (n : Nat) :
    Host.Outcome State Fault Refusal :=
  let t := s.turn.thread
  .next (s.onM (fun m =>
    (m.store t (eaOf (m.thr t) a off) n cls ((m.thr t).rd r)).close t (fun _ m =>
      m.modThr t (fun th => th.finish (th.pc + 4)))))

/-- An atomic (R285): gd receives the old value, sign-extended for .W. -/
def State.amoOp (s : State) (d a b : Reg) (cls : BitVec 4) (op : Nat) (dword : Bool) :
    Host.Outcome State Fault Refusal :=
  let t := s.turn.thread
  .next (s.onM (fun m =>
    let th := m.thr t
    (m.amo t (th.rd a) op dword cls (th.rd b) (th.rd d) (.amo d (!dword))).close t (fun v m =>
      m.modThr t (fun th => (th.wr d (amoResult dword v)).finish (th.pc + 4)))))

/-- Ldb (R270). -/
def execLdb (d a : Reg) (cls : BitVec 4) (off : BitVec 12) (s : State) : Host.Outcome State Fault Refusal :=
  s.loadTo d a cls off 1 true

/-- Ldbu (R270). -/
def execLdbu (d a : Reg) (cls : BitVec 4) (off : BitVec 12) (s : State) : Host.Outcome State Fault Refusal :=
  s.loadTo d a cls off 1 false

/-- Ldh (R270). -/
def execLdh (d a : Reg) (cls : BitVec 4) (off : BitVec 12) (s : State) : Host.Outcome State Fault Refusal :=
  s.loadTo d a cls off 2 true

/-- Ldhu (R270). -/
def execLdhu (d a : Reg) (cls : BitVec 4) (off : BitVec 12) (s : State) : Host.Outcome State Fault Refusal :=
  s.loadTo d a cls off 2 false

/-- Ldw (R270). -/
def execLdw (d a : Reg) (cls : BitVec 4) (off : BitVec 12) (s : State) : Host.Outcome State Fault Refusal :=
  s.loadTo d a cls off 4 true

/-- Ldwu (R270). -/
def execLdwu (d a : Reg) (cls : BitVec 4) (off : BitVec 12) (s : State) : Host.Outcome State Fault Refusal :=
  s.loadTo d a cls off 4 false

/-- Ldd (R270). -/
def execLdd (d a : Reg) (cls : BitVec 4) (off : BitVec 12) (s : State) : Host.Outcome State Fault Refusal :=
  s.loadTo d a cls off 8 false

/-- Stb (R270). -/
def execStb (r a : Reg) (cls : BitVec 4) (off : BitVec 12) (s : State) : Host.Outcome State Fault Refusal :=
  s.storeFrom r a cls off 1

/-- Sth (R270). -/
def execSth (r a : Reg) (cls : BitVec 4) (off : BitVec 12) (s : State) : Host.Outcome State Fault Refusal :=
  s.storeFrom r a cls off 2

/-- Stw (R270). -/
def execStw (r a : Reg) (cls : BitVec 4) (off : BitVec 12) (s : State) : Host.Outcome State Fault Refusal :=
  s.storeFrom r a cls off 4

/-- Std (R270). -/
def execStd (r a : Reg) (cls : BitVec 4) (off : BitVec 12) (s : State) : Host.Outcome State Fault Refusal :=
  s.storeFrom r a cls off 8

/-- The first register SAVEM or LOADM still has to transfer (R273): F, or the one MPROG names; none outside the range. -/
def firstReg (th : Thread) (f l : Reg) : Option Nat :=
  if th.mprog.getLsbD 5 then
    let n := (th.mprog.extractLsb' 0 5).toNat
    if n < f.toNat ∨ l.toNat < n then none else some n
  else some f.toNat

/-- A precise fault inside SAVEM or LOADM: with an asynchronous trap pending, that one is taken first, MPROG already set,
and the fault recurs when the instruction resumes (R274). -/
def Mach.faultInside (m : Mach) (t : TileId) (c : Cause) (tv : Dword) (w : WalkFail) : Mach :=
  if (m.thr t).asyncs.isEmpty then m.takeTrap t c.code false false tv (m.thr t).pc w
  else m.modThr t (fun th => { th with st := .ready })

/-- The dwords of SAVEM from register `i` on (R273); a full buffer or a fault leaves MPROG at the first not done. -/
def Mach.savemFrom (m : Mach) (t : TileId) (ea0 : Dword) (cls : BitVec 4) (f l : Nat) : Nat → Nat → Mach
  | 0, _ => m.modThr t (fun th => (th.setMprog 0).finish (th.pc + 4))
  | fuel + 1, i =>
    if l < i then m.modThr t (fun th => (th.setMprog 0).finish (th.pc + 4))
    else
      let mark := fun (m : Mach) => m.modThr t (fun th => th.setMprog (BitVec.ofNat 6 (32 + i)))
      match m.store t (ea0 + BitVec.ofNat 64 (8 * (i - f))) 8 cls ((m.thr t).rd (BitVec.ofNat 5 i)) with
      | .val _ m => Mach.savemFrom m t ea0 cls f l fuel (i + 1)
      | .trap c tv w m => (mark m).faultInside t c tv w
      | .stall m => (MRes.stall (mark m)).close t (fun _ m => m)

/-- The dwords of LOADM from register `i` on (R273). -/
def Mach.loadmFrom (m : Mach) (t : TileId) (ea0 : Dword) (cls : BitVec 4) (f l : Nat) : Nat → Nat → Mach
  | 0, _ => m.modThr t (fun th => (th.setMprog 0).finish (th.pc + 4))
  | fuel + 1, i =>
    if l < i then m.modThr t (fun th => (th.setMprog 0).finish (th.pc + 4))
    else
      let r := BitVec.ofNat 5 i
      let mark := fun (m : Mach) => m.modThr t (fun th => th.setMprog (BitVec.ofNat 6 (32 + i)))
      match m.load t (ea0 + BitVec.ofNat 64 (8 * (i - f))) 8 cls (.loadm r (BitVec.ofNat 5 l)) with
      | .val v m => Mach.loadmFrom (m.modThr t (fun th => th.wr r (BitVec.ofNat 64 v))) t ea0 cls f l fuel (i + 1)
      | .trap c tv w m => (mark m).faultInside t c tv w
      | .stall m => (MRes.stall (mark m)).close t (fun _ m => m)

/-- SAVEM (R273, R274). -/
def execSavem (first a : Reg) (cls : BitVec 4) (last : Reg) (off : BitVec 7) (s : State) : Host.Outcome State Fault Refusal :=
  let t := s.turn.thread
  .next (s.onM (fun m =>
    let th := m.thr t
    let ea0 := th.rd a + (off.signExtend 64 <<< 3)
    let i := Instr.savem first a cls last off
    if last.toNat < first.toNat then m.trapWord t .arg i
    else if ea0.toNat % 8 ≠ 0 then m.trapAt t .align ea0 1
    else
      match firstReg th first last with
      | none => (m.modThr t (fun th => th.setMprog 0)).trapWord t .arg i
      | some n => m.savemFrom t ea0 cls first.toNat last.toNat 32 n))

/-- LOADM (R273, R274). -/
def execLoadm (first a : Reg) (cls : BitVec 4) (last : Reg) (off : BitVec 7) (s : State) : Host.Outcome State Fault Refusal :=
  let t := s.turn.thread
  .next (s.onM (fun m =>
    let th := m.thr t
    let ea0 := th.rd a + (off.signExtend 64 <<< 3)
    let i := Instr.loadm first a cls last off
    if last.toNat < first.toNat then m.trapWord t .arg i
    else if first.toNat ≤ a.toNat ∧ a.toNat ≤ last.toNat then m.trapWord t .arg i
    else if ea0.toNat % 8 ≠ 0 then m.trapAt t .align ea0
    else
      match firstReg th first last with
      | none => (m.modThr t (fun th => th.setMprog 0)).trapWord t .arg i
      | some n => m.loadmFrom t ea0 cls first.toNat last.toNat 32 n))

/-- AmoswapW (R285). -/
def execAmoswapW (d a b : Reg) (cls : BitVec 4) (s : State) : Host.Outcome State Fault Refusal :=
  s.amoOp d a b cls 0 false

/-- AmoswapD (R285). -/
def execAmoswapD (d a b : Reg) (cls : BitVec 4) (s : State) : Host.Outcome State Fault Refusal :=
  s.amoOp d a b cls 0 true

/-- AmoaddW (R285). -/
def execAmoaddW (d a b : Reg) (cls : BitVec 4) (s : State) : Host.Outcome State Fault Refusal :=
  s.amoOp d a b cls 1 false

/-- AmoaddD (R285). -/
def execAmoaddD (d a b : Reg) (cls : BitVec 4) (s : State) : Host.Outcome State Fault Refusal :=
  s.amoOp d a b cls 1 true

/-- AmoandW (R285). -/
def execAmoandW (d a b : Reg) (cls : BitVec 4) (s : State) : Host.Outcome State Fault Refusal :=
  s.amoOp d a b cls 2 false

/-- AmoandD (R285). -/
def execAmoandD (d a b : Reg) (cls : BitVec 4) (s : State) : Host.Outcome State Fault Refusal :=
  s.amoOp d a b cls 2 true

/-- AmoorW (R285). -/
def execAmoorW (d a b : Reg) (cls : BitVec 4) (s : State) : Host.Outcome State Fault Refusal :=
  s.amoOp d a b cls 3 false

/-- AmoorD (R285). -/
def execAmoorD (d a b : Reg) (cls : BitVec 4) (s : State) : Host.Outcome State Fault Refusal :=
  s.amoOp d a b cls 3 true

/-- AmomaxW (R285). -/
def execAmomaxW (d a b : Reg) (cls : BitVec 4) (s : State) : Host.Outcome State Fault Refusal :=
  s.amoOp d a b cls 4 false

/-- AmomaxD (R285). -/
def execAmomaxD (d a b : Reg) (cls : BitVec 4) (s : State) : Host.Outcome State Fault Refusal :=
  s.amoOp d a b cls 4 true

/-- AmominW (R285). -/
def execAmominW (d a b : Reg) (cls : BitVec 4) (s : State) : Host.Outcome State Fault Refusal :=
  s.amoOp d a b cls 5 false

/-- AmominD (R285). -/
def execAmominD (d a b : Reg) (cls : BitVec 4) (s : State) : Host.Outcome State Fault Refusal :=
  s.amoOp d a b cls 5 true

/-- AmomaxuW (R285). -/
def execAmomaxuW (d a b : Reg) (cls : BitVec 4) (s : State) : Host.Outcome State Fault Refusal :=
  s.amoOp d a b cls 6 false

/-- AmomaxuD (R285). -/
def execAmomaxuD (d a b : Reg) (cls : BitVec 4) (s : State) : Host.Outcome State Fault Refusal :=
  s.amoOp d a b cls 6 true

/-- AmominuW (R285). -/
def execAmominuW (d a b : Reg) (cls : BitVec 4) (s : State) : Host.Outcome State Fault Refusal :=
  s.amoOp d a b cls 7 false

/-- AmominuD (R285). -/
def execAmominuD (d a b : Reg) (cls : BitVec 4) (s : State) : Host.Outcome State Fault Refusal :=
  s.amoOp d a b cls 7 true

/-- AmocasW (R285). -/
def execAmocasW (d a b : Reg) (cls : BitVec 4) (s : State) : Host.Outcome State Fault Refusal :=
  s.amoOp d a b cls 8 false

/-- AmocasD (R285). -/
def execAmocasD (d a b : Reg) (cls : BitVec 4) (s : State) : Host.Outcome State Fault Refusal :=
  s.amoOp d a b cls 8 true

/-- AQADD (R287): the pair gb (low), gb+1 (high); with b = 0 the low half is zero. -/
def execAqadd (a b : Reg) (cls : BitVec 4) (s : State) : Host.Outcome State Fault Refusal :=
  let t := s.turn.thread
  .next (s.onM (fun m =>
    let th := m.thr t
    let v := (th.rd b).toNat + (th.rd (b + 1)).toNat * 2 ^ 64
    (m.aqaddOp t (th.rd a) cls v).close t (fun _ m => m.modThr t (fun th => th.finish (th.pc + 4)))))

/-- STORE_BUFFER_DRAIN (R272): the oldest store of the class leaves the thread's buffer. -/
def execStoreBufferDrain (t : TileId) (cls : BitVec 4) (s : State) : Host.Outcome State Fault Refusal :=
  .next (s.onM (fun m => m.drainStore t cls))

/-- STORE_STATUS_RETURN (R171): the STATUS of a sent store is taken. -/
def execStoreStatusReturn (t : TileId) (s : State) : Host.Outcome State Fault Refusal :=
  .next (s.onM (fun m => m.storeStatus t))

/-- MUSHER_LOAD_RETURN (R171): the data or STATUS of the outstanding request completes its instruction. -/
def execMusherLoadReturn (t : TileId) (s : State) : Host.Outcome State Fault Refusal :=
  .next (s.onM (fun m => m.loadReturn t))

/-- SAVEM or LOADM is under way (R274). -/
def Thread.midMultiple (th : Thread) : Bool := th.st = .stalled && th.mprog.getLsbD 5

/-- Nothing issues: there is no item and nothing to run, a record or an answer is awaited, or the tile is halted. -/
def Mach.resting (m : Mach) (t : TileId) : Bool :=
  let th := m.thr t
  th.hold.isSome || th.out.isSome || (m.tile t).halting || (m.tile t).exchanging ||
    (th.sup.isNone && (th.st = .idle || th.st = .halted))

/-- The package time of an asynchronous trap: a thread that is WAITING takes it at once, when the fault comes (R155, R392); none where it
is taken now. -/
def Thread.trapTime (th : Thread) (a : ATrap) : Option Dword := if th.st = .waiting then some a.time else none

/-- ASYNC_TRAP_DELIVERY (R155): the first pending asynchronous trap of the thread is taken, KEPC the first instruction
not completed; with no item it is only a trap entry. -/
def execAsyncTrapDelivery (t : TileId) (s : State) : Host.Outcome State Fault Refusal :=
  .next (s.onM (fun m =>
    let th := m.thr t
    match th.asyncs with
    | [] => m
    | a :: rest =>
      let ended := (th.sup.map (fun u => u.ended)).getD false
      if !ended && (m.resting t || th.midMultiple) then m
      else
      let m := m.setThr t { th with asyncs := rest }
      match th.sup with
      | some u =>
        if u.ended then m.report t a.code a.src a.tval (noWalk a.acc)
        else m.takeTrap t a.code a.src true a.tval th.pc (noWalk a.acc) (th.trapTime a)
      | none => m.takeTrap t a.code a.src true a.tval th.pc (noWalk a.acc)))

end Sys2Proof.Machine
end

