-- ==== Sys2Proof/Machine/MusherCtl.lean ====
section
/-! DEFINITION. Musher branches and jumps (R275-R280). -/
namespace Sys2Proof.Machine

/-- A conditional branch (R275): pc + 4 · sext(off16) when the condition holds, else pc + 4. -/
def State.branch (s : State) (a b : Reg) (off : BitVec 16) (c : Dword → Dword → Bool) :
    Host.Outcome State Fault Refusal :=
  .next (s.onThread (fun th =>
    th.finish (if c (th.rd a) (th.rd b) then th.pc + (off.signExtend 64 <<< 2) else th.pc + 4)))

/-- Beq (R275). -/
def execBeq (a b : Reg) (off : BitVec 16) (s : State) : Host.Outcome State Fault Refusal :=
  s.branch a b off (fun x y => x == y)

/-- Bne (R275). -/
def execBne (a b : Reg) (off : BitVec 16) (s : State) : Host.Outcome State Fault Refusal :=
  s.branch a b off (fun x y => x != y)

/-- Blt (R275). -/
def execBlt (a b : Reg) (off : BitVec 16) (s : State) : Host.Outcome State Fault Refusal :=
  s.branch a b off (fun x y => x.slt y)

/-- Bge (R275). -/
def execBge (a b : Reg) (off : BitVec 16) (s : State) : Host.Outcome State Fault Refusal :=
  s.branch a b off (fun x y => !x.slt y)

/-- Bltu (R275). -/
def execBltu (a b : Reg) (off : BitVec 16) (s : State) : Host.Outcome State Fault Refusal :=
  s.branch a b off (fun x y => x.ult y)

/-- Bgeu (R275). -/
def execBgeu (a b : Reg) (off : BitVec 16) (s : State) : Host.Outcome State Fault Refusal :=
  s.branch a b off (fun x y => !x.ult y)

/-- JAL (R276). -/
def execJal (d : Reg) (off : BitVec 21) (s : State) : Host.Outcome State Fault Refusal :=
  .next (s.onThread (fun th => (th.wr d (th.pc + 4)).finish (th.pc + (off.signExtend 64 <<< 2))))

/-- A well-formed LAND of a kind whose tag, if it has one, equals bits 15:0 of g31 (R278). -/
def landOk (w : Word) (kind : BitVec 2) (g31 : Dword) : Bool :=
  match decodeWord w 0 with
  | .land t k tag => k = kind && (!t || g31.extractLsb' 0 16 = tag)
  | _ => false

/-- The word before a return target: a JAL with d ≠ 0 or a JALR of kind call with d ≠ 0 (R278). -/
def callOk (w : Word) : Bool :=
  match decodeWord w 0 with
  | .jal d _ => d ≠ 0
  | .jalr d _ k _ => k = 0 && d ≠ 0
  | _ => false

/-- The checks of JALR on its target (R277, R278), on the words that are fetched there. They are the same at the launch exit address:
a `ret` to it passes by the JALR of kind call that trap firmware has placed before it (R280; log 12). -/
def Mach.jalrCheck (m : Mach) (t : TileId) (target : Dword) (kind : BitVec 2) : MRes :=
  let th := m.thr t
  match m.fetchWord t target with
  | .trap c v w m => .trap c v w m
  | .stall m => .stall m
  | .word w m =>
    if kind = 3 then
      match m.fetchWord t (target - 4) with
      | .trap c v w m => .trap c v w m
      | .stall m => .stall m
      | .word w' m => if callOk w' then .val 0 m else .trap .cfi target default m
    else if landOk w kind (th.rd 31) then .val 0 m else .trap .cfi target default m

/-- JALR (R277): every trap is precise and leaves gd unwritten. -/
def execJalr (d a : Reg) (kind : BitVec 2) (off : BitVec 14) (s : State) : Host.Outcome State Fault Refusal :=
  let t := s.turn.thread
  .next (s.onM (fun m =>
    let th := m.thr t
    let target := th.rd a + (off.signExtend 64 <<< 2)
    if target.toNat % 4 ≠ 0 then m.trapAt t .align target
    else
      (m.jalrCheck t target kind).close t (fun _ m =>
        m.modThr t (fun th => (th.wr d (th.pc + 4)).finish target))))

/-- LAND (R279): executed, it changes nothing. -/
def execLand (_t : Bool) (_kind : BitVec 2) (_tag : BitVec 16) (s : State) : Host.Outcome State Fault Refusal :=
  .next (s.onThread (fun th => th.finish (th.pc + 4)))

end Sys2Proof.Machine
end

