-- ==== Sys2Proof/Machine/Blocks.lean ====
section
/-! DEFINITION. The chain area and the sequencer's blocks (R100, R237, R247, R325): where a block lies, which blocks are
held fetched ahead, the counters of `sq.loop`, and the start of a chain (R141, R295). -/
namespace Sys2Proof.Machine

/-- The kernel of the launch a tile works for (R89, R96). -/
def Mach.kernelOf (m : Mach) (t : TileId) : Option Kernel :=
  ((m.tile t).bind.bind (fun b => m.launch b.lid)).map (·.kernel)

/-- CHAREA of the tile's kernel, in units of 4 KiB (R89). -/
def Mach.chareaOf (m : Mach) (t : TileId) : Nat := ((m.kernelOf t).map (·.charea)).getD 0

/-- The first byte of the chain area (R100): the top CHAREA × 4 KiB of the tile store. -/
def chainBase (charea : Nat) : Nat := 2 ^ 20 - charea * 4096

/-- Blocks the chain area has room for. -/
def chainBlocks (charea : Nat) : Nat := charea * 32

/-- The sixteen dwords of block `j` as the chain area holds them (R237). -/
def Ctx.blockWords (c : Ctx) (charea j : Nat) : List Dword :=
  (List.range 16).map (fun k => BitVec.ofNat 64 (Memory.read c.store (chainBase charea + 128 * j + 8 * k) 8))

/-- A loop counter of the chain that counts for block `j` (R325). -/
def loopSlot (l : Tbl SqCtr) (j : Nat) : Option Nat :=
  (l.find? (fun p => p.2.active && p.2.block.toNat = j)).map (·.1)

/-- The lowest free one of the four counters. -/
def loopFree (l : Tbl SqCtr) : Option Nat :=
  (List.range 4).find? (fun k => !(tget SqCtr.off l k).active)

/-- One pass of `sq.loop` at block `j` (R325): the counters and the block that follows; none where a fifth counter
would be needed. -/
def loopPass (l : Tbl SqCtr) (j : Nat) (d15 : Dword) : Option (Tbl SqCtr × Nat) :=
  let target := bits d15.toNat 11 0
  let go := fun (k rem : Nat) =>
    if rem = 0 then (tput SqCtr.off l k SqCtr.off, j + 1)
    else (tput SqCtr.off l k ⟨true, BitVec.ofNat 12 j, BitVec.ofNat 16 (rem - 1)⟩, target)
  match loopSlot l j with
  | some k => some (go k (tget SqCtr.off l k).remaining.toNat)
  | none =>
    match loopFree l with
    | none => none
    | some k => some (go k (bits d15.toNat 31 16))

/-- The blocks held fetched ahead when the chain will next latch block `j` (R247): up to `n`, in execution order. -/
def Ctx.aheadFrom (c : Ctx) (charea : Nat) (eng : Eng) (l : Tbl SqCtr) (j : Nat) : Nat → List Nat
  | 0 => []
  | n + 1 =>
    if chainBlocks charea ≤ j then []
    else
      let ds := c.blockWords charea j
      let code := bits (ds.getD 0 0).toNat 9 0
      if code = eng.code.toNat * 256 + 0xF2 then [j]
      else if code = eng.code.toNat * 256 + 0xF1 then
        match loopPass l j (ds.getD 15 0) with
        | none => [j]
        | some (l', j') => j :: c.aheadFrom charea eng l' j' n
      else j :: c.aheadFrom charea eng l (j + 1) n

/-- The blocks a chain holds fetched ahead (R247). -/
def Ctx.ahead (c : Ctx) (charea : Nat) (eng : Eng) : List Nat :=
  let x := c.chain eng
  match x.latched with
  | none => c.aheadFrom charea eng x.loops x.cur 4
  | some (.sqEnd _) => []
  | some (.sqLoop b) =>
    if x.phase = .signals then c.aheadFrom charea eng x.loops x.i0 4
    else match loopPass x.loops x.cur b.d15 with
    | none => []
    | some (l, j) => c.aheadFrom charea eng l j 4
  | some _ => c.aheadFrom charea eng x.loops (x.cur + 1) 4

/-- Does an operand of a block name an object of a kind: 1 window, 2 ring. -/
def opNames (b : Block) (kind : BitVec 2) (n : Nat) : Bool :=
  [b.op0, b.op1, b.op2, b.op3].any (fun o => o.kind = kind && o.index.toNat = n)

/-- Does a latched or fetched-ahead block of a RUNNING or PARKED chain name the object (R252, R299). -/
def Ctx.named (c : Ctx) (charea : Nat) (kind : BitVec 2) (n : Nat) : Bool :=
  [Eng.ld, Eng.mx, Eng.vx, Eng.st].any (fun e =>
    let x := c.chain e
    (x.st = .running || x.st = .parked) &&
      ((match x.latched with
        | some i => (match i.block? with | some (_, b) => opNames b kind n | none => false)
        | none => false) ||
       (c.ahead charea e).any (fun j => opNames (blockOf (c.blockWords charea j)) kind n)))

/-- The first block of template `k`: templates are copied in table order (R100). -/
def Kernel.firstBlock (k : Kernel) (n : Nat) : Nat := ((k.tmpls.take n).map (·.nblk)).foldl (· + ·) 0

/-- A chain starts at a block (R141, R295): only its loop counters and its fault state start afresh. -/
def Chain.start (x : Chain) (j : Nat) : Chain :=
  { x with st := .running, cur := j, latched := none, phase := .waits, cause := 0, pseq := 0, i0 := 0, i1 := 0, i2 := 0,
           i3 := 0, wtaken := false, due := 0, dueSig := [], last := false, flight := [], loops := [], red := [], glh := 0, glmask := 0 }

/-- FORK or priming of an engine's chain; the MX engine's planes go to format none and its replay window starts here
(R131, R344). -/
def Ctx.startChain (c : Ctx) (e : Eng) (j : Nat) : Ctx :=
  let c := c.setChain e ((c.chain e).start j)
  if e = .mx then
    { c with ext := { MxExt.reset with tsblk := BitVec.ofNat 12 j, winIssue := (c.chain e).issue, dup := c.ext.dup,
                                        winAcfg := c.acfg, ringHeads := c.rings.map (fun p => (p.1, p.2.head)) } }
  else c

/-! ### Configuration words -/

def accV (d : Dword) : Bool := d.getLsbD 63
def accRow0 (d : Dword) : Nat := bits d.toNat 7 0
def accCol0 (d : Dword) : Nat := bits d.toNat 15 8
def accNRow (d : Dword) : Nat := bits d.toNat 23 16
def accNCol (d : Dword) : Nat := bits d.toNat 31 24
def accAnchor (d : Dword) : Int := (d.extractLsb' 32 11).toInt

/-- Entry number of row and column of the accumulator file (R108). -/
def entryAt (row col : Nat) : Nat := 128 * row + col

/-- Do two configured rectangles share an entry (R144). -/
def accOverlap (a b : Dword) : Bool :=
  decide (accRow0 a ≤ accRow0 b + accNRow b ∧ accRow0 b ≤ accRow0 a + accNRow a ∧
          accCol0 a ≤ accCol0 b + accNCol b ∧ accCol0 b ≤ accCol0 a + accNCol a)

/-- MU.ARG of ACFG (R144): range, reserved bits, and an overlap with another configured tile. -/
def Ctx.acfgBad (c : Ctx) (n : Nat) (v : Dword) : Bool :=
  decide (128 < accRow0 v + accNRow v + 1 ∨ 128 < accCol0 v + accNCol v + 1) || bits v.toNat 61 43 ≠ 0 ||
    (List.range 64).any (fun k => k ≠ n && accV (c.accCfg k) && accOverlap v (c.accCfg k))

/-- Does a tile's rectangle have a row from `lo` to `hi`. -/
def inRows (cfg : Dword) (lo hi : Nat) : Bool := decide (accRow0 cfg ≤ hi ∧ lo ≤ accRow0 cfg + accNRow cfg)

/-- Is entry `e` inside a tile's rectangle. -/
def inRect (cfg : Dword) (e : Nat) : Bool :=
  decide (accRow0 cfg ≤ e / 128 ∧ e / 128 ≤ accRow0 cfg + accNRow cfg ∧
          accCol0 cfg ≤ e % 128 ∧ e % 128 ≤ accCol0 cfg + accNCol cfg)

/-- The entries of a configured accumulator tile. -/
def tileEntries (cfg : Dword) : NSet :=
  (List.range (accNRow cfg + 1)).flatMap (fun r => (List.range (accNCol cfg + 1)).map (fun k => entryAt (accRow0 cfg + r) (accCol0 cfg + k)))

/-- The write of a configuration (R144, R300): the entries of a configured tile are zero, also for a read that would come too
early to see the write before (R149). -/
def Ctx.acfgWrite (c : Ctx) (n : Nat) (v : Dword) : Ctx :=
  if accV v then
    { c with acfg := tput 0 c.acfg n (v ||| 0x4000000000000000), acc := c.acc.filter (fun p => !inRect v p.1),
             accPois := c.accPois.filter (fun p => !inRect v (p / 2)),
             mx := { c.mx with hist := c.mx.hist.filter (fun h => match h.loc with
               | .acc e => !inRect v e
               | .store _ => true) } }
  else { c with acfg := tput 0 c.acfg n (v &&& 0xBFFFFFFFFFFFFFFF) }

/-- A landing handle with V = 1 names accumulator tile `n` (R144, R222). -/
def landing (h : Dword) : Bool := h.getLsbD 63 && h.getLsbD 62
def Ctx.reserved (c : Ctx) (n : Nat) : Bool := c.hnd.any (fun p => landing p.2 && bits p.2.toNat 61 56 = n)

/-- The limit of a space (R161). -/
def spaceLimit (space charea : Nat) : Nat :=
  if space = 0 then chainBase charea else if space = 1 then 2 ^ 23 else if space = 2 then 2 ^ 26
  else if space = 3 then 2 ^ 56 else 2 ^ 52

/-- MU.ARG of LAYW (R163, R196). -/
def layBad (w : Window) (charea : Nat) : Bool :=
  let sp := bits w.d3.toNat 30 28
  let swz := bits w.d3.toNat 27 26
  let e := fun (k : Nat) => bits w.d1.toNat (16 * k + 15) (16 * k)
  (w.d3.getLsbD 31 && (bits w.d0.toNat 63 56 = 0 || e 0 = 0 || e 1 = 0 || e 2 = 0 ||
      e 3 = 0 || decide (5 ≤ sp) || swz = 3)) ||
    (swz ≠ 0 && decide (3 ≤ sp)) || ((w.d3.getLsbD 21 || w.d3.getLsbD 20) && sp ≠ 1 && sp ≠ 2) ||
    (bits w.d0.toNat 63 56 ≠ 0 && !fmtNamed (w.d0.extractLsb' 56 8)) ||
    bits w.d3.toNat 25 22 ≠ 0 || bits w.d3.toNat 2 0 ≠ 0 ||
    decide (sp < 5 ∧ spaceLimit sp charea ≤ bits w.d0.toNat 55 0)

/-- Width of a named format in bits (R195). -/
def fmtWidth (c : Byte) : Nat :=
  let cls := c.extractLsb' 6 2
  if cls = 1 then 8 else if cls = 2 then 6 else if cls = 3 then 4
  else if c = 1 ∨ c = 6 then 32 else if c = 2 ∨ c = 3 ∨ c = 8 then 16 else if c = 7 then 128 else 8

def ringV (r : Ring) : Bool := r.d0.getLsbD 63
def ringSink (r : Ring) : Byte := r.d0.extractLsb' 48 8
def ringSrc (r : Ring) : Byte := r.d0.extractLsb' 40 8
def ringFree (r : Ring) : BitVec 5 := r.d0.extractLsb' 35 5
def ringFull (r : Ring) : BitVec 5 := r.d0.extractLsb' 30 5
def ringNslot (r : Ring) : Nat := bits r.d0.toNat 29 20
def ringBase (r : Ring) : Nat := bits r.d0.toNat 19 0
def ringSlotu (r : Ring) : Nat := bits r.d1.toNat 45 32
def ringSat (r : Ring) : Bool := r.d1.getLsbD 2
def ringRm (r : Ring) : BitVec 2 := r.d1.extractLsb' 0 2

/-- A ring configuration as its two words are written: reserved bits are RO and 0 (R251). -/
def Ring.ofWords (d0 d1 : Dword) : Ring := { Ring.off with d0 := d0 &&& 0x80FFFFFFFFFFFFFF, d1 := d1 &&& 0x00003FFF00000007 }

/-- A ring word that RCWW and the set-up block reject (R252). -/
def ringBad (d0 d1 : Dword) : Bool :=
  let r : Ring := { Ring.off with d0 := d0, d1 := d1 }
  ringV r &&
    (ringNslot r = 0 || ringSlotu r = 0 || ringBase r % 64 ≠ 0 ||
     decide (2 ^ 20 < ringBase r + ringNslot r * ringSlotu r * 64) ||
     !fmtNamed (ringSrc r) || !fmtNamed (ringSink r) ||
     ((ringSrc r = 7 || ringSink r = 7) && ringSrc r ≠ ringSink r) || ringFull r = ringFree r ||
     ringSlotu r * 512 % fmtWidth (ringSrc r) ≠ 0 ||
     bits d0.toNat 62 56 ≠ 0 || bits d1.toNat 63 46 ≠ 0 || bits d1.toNat 31 3 ≠ 0)

end Sys2Proof.Machine
end

