-- ==== Sys2Proof/Machine/Operands.lean ====
section
/-! DEFINITION. Operands of loop blocks: coordinates (R243), windows (R163-R166), rings (R319-R323), accumulator tiles,
reads under the latency contract (R148-R150), and the writes of a step, which all take effect together once no element
of the step faults (R330, R360, R380). -/
namespace Sys2Proof.Machine

/-- What a step needs to know: tile, engine, block and its index, partition, chain-area size, the issue cycles of its
reads and writes, and KTDBG.EARLY (R150). -/
structure Env where
  t : TileId
  e : Eng
  b : Block
  j : Nat
  p : PartId
  charea : Nat
  rd : Nat
  wr : Nat
  early : Bool

/-- Where a byte goes: the tile store, memory, the tile stores that TMASK names (R334); or an element with its ROP in
`mask`, to be added to a place (R337). -/
inductive Dst where
  | store (a : Nat)
  | mem (p : Place)
  | bcast (a : Nat)
  | red (p : Place) (n : Nat)
deriving DecidableEq

/-- A byte to be written: the bits of `mask`, and whether it is poisoned. -/
structure WByte where
  dst : Dst
  mask : Nat
  val : Nat
  pois : Bool

/-- A step under way: the machine as its reads leave it, ring positions as moved, flags, requests for data of other dies,
whether any is still unanswered, bytes and accumulator entries to write (newest first), and entries read to be sent. -/
structure Wk where
  m : Mach
  rings : Tbl Ring
  fl : BitVec 16
  asks : List (Place × Nat × Msg)
  pend : Bool
  out : List WByte
  acc : List (Nat × AqEntry)
  got : List (Nat × AqEntry)
  /-- it has read memory (R180) -/
  read : Bool
  /-- HBM sectors of the own die that its reads have touched (R157) -/
  secs : NSet

/-- Why a step does not go through: a fault, or a translation failure that parks the chain (R141). -/
inductive Stop where
  | fault (c : Cause)
  | page (va : Dword) (acc : Acc) (w : WalkFail)

abbrev StepM := StateT Wk (Except (Stop × Mach))

def stopWith {α : Type} (c : Cause) : StepM α := fun k => .error (.fault c, k.m)
def getM : StepM Mach := fun k => .ok (k.m, k)
def setM (m : Mach) : StepM Unit := fun k => .ok ((), { k with m := m })
def addFlags (f : BitVec 16) : StepM Unit := fun k => .ok ((), { k with fl := k.fl ||| f })
def need (b : Bool) (c : Cause) : StepM Unit := if b then pure () else stopWith c

/-! ### Iterations (R145, R240, R243) -/

abbrev Ix := Nat × Nat × Nat × Nat

def ixAt (i : Ix) (k : Nat) : Nat :=
  if k = 0 then i.1 else if k = 1 then i.2.1 else if k = 2 then i.2.2.1 else i.2.2.2

def boundAt (b : Block) (k : Nat) : Nat :=
  if k = 0 then b.b0.toNat else if k = 1 then b.b1.toNat else if k = 2 then b.b2.toNat else b.b3.toNat

/-- operand_coords (R243). -/
def operandCoords (x : Operand) (i : Ix) : List Int :=
  let st := fun (k : Nat) => (if k = 0 then x.st0 else if k = 1 then x.st1 else if k = 2 then x.st2 else x.st3).toInt
  let dim := fun (k : Nat) => bits x.map.toNat (2 * k + 1) (2 * k)
  let term := fun (d k : Nat) => if dim k = d then Int.ofNat (ixAt i k) * st k else 0
  let c := fun (d : Nat) (c0 : BitVec 16) => Int.ofNat c0.toNat + term d 0 + term d 1 + term d 2 + term d 3
  [c 0 x.c0, c 1 x.c1, c 2 x.c2, c 3 x.c3]

/-- Iterations of a step: `n` of level 0 from `i` on, within its run (R104). -/
def runIters (b : Block) (i : Ix) (max : Nat) : List Ix :=
  (List.range (Nat.min max (b.b0.toNat - i.1))).map (fun k => (i.1 + k, i.2))

/-- The iteration after `n` more of level 0; none after the last. -/
def nextIter (b : Block) (i : Ix) (n : Nat) : Option Ix :=
  if i.1 + n < b.b0.toNat then some (i.1 + n, i.2)
  else if i.2.1 + 1 < b.b1.toNat then some (0, i.2.1 + 1, i.2.2)
  else if i.2.2.1 + 1 < b.b2.toNat then some (0, 0, i.2.2.1 + 1, i.2.2.2)
  else if i.2.2.2 + 1 < b.b3.toNat then some (0, 0, 0, i.2.2.2 + 1)
  else none

/-- Iterations of level AT a step begins, and those it ends (R145). -/
def beginsAt (b : Block) (its : List Ix) : Nat :=
  (its.filter (fun i => (List.range b.lvl.toNat).all (fun k => ixAt i k = 0))).length
def endsAt (b : Block) (its : List Ix) : Nat :=
  (its.filter (fun i => (List.range b.lvl.toNat).all (fun k => ixAt i k + 1 = boundAt b k))).length

/-! ### The latency contract (R148, R149, R359) -/

/-- What row `q` of `n` of the step sees: rows issue one after another over the step's cycles (R352), and the
reads of a row see its first cycle (log 160). -/
def Env.row (v : Env) (n q : Nat) : Env := { v with rd := v.rd + (v.wr + 1 - v.rd) / n * q }

/-- Kinds of reads and writes: 1 VX, 2 LD, 3 MX on the tile store; reads 4 by `mx.mma`, 5 by other MX operators, and
writes 4 by `mx.mma`, 5 by `mx.azero` and `mx.afill`, 6 by other MX operators, of the accumulator file. -/
def lam (rk wk : Nat) : Nat :=
  if rk = 1 ∧ wk = 1 then 24
  else if rk = 2 ∧ wk = 2 then 32
  else if rk = 3 ∧ wk = 3 then 40
  else if rk = 4 ∧ wk = 5 then 16
  else if rk = 4 ∧ wk = 6 then 40
  else if rk = 5 ∧ 4 ≤ wk then 40
  else 0

def storeKind : Eng → Nat
  | .vx => 1 | .ld => 2 | .mx => 3 | .st => 0

def hidden (h : Hist) (rk now : Nat) : Bool := decide (now < h.issue + lam rk h.kind)

/-- The oldest of the newest of a list of writes that the read does not see yet (R149). -/
def firstHidden (hs : List Hist) (rk now : Nat) : Option Hist :=
  (hs.reverse.takeWhile (fun h => hidden h rk now)).getLast?

/-- The oldest of the newest writes to a place that the read does not see yet (R149). -/
def oldestHidden (hs : List Hist) (loc : Loc) (rk now : Nat) : Option Hist := firstHidden (hs.filter (fun h => h.loc = loc)) rk now

/-- Do two places share a 64-bit word, or an entry (R150). -/
def sameWord : Loc → Loc → Bool
  | .store a, .store b => a / 8 = b / 8
  | .acc a, .acc b => a = b
  | _, _ => false

/-- The poison of a place as the read sees it (R138, R149): that of before the first write of its word that it does not see yet, else
the present one. -/
def poisonSeen (hs : List Hist) (loc : Loc) (rk now : Nat) (pois : Bool) : Bool :=
  ((firstHidden (hs.filter (fun h => sameWord h.loc loc)) rk now).map (·.oldPois)).getD pois

/-- Poison that does not come from the own chain is there for its early reads too: what every chain but `keep` remembers of the places is
poisoned. -/
def Ctx.taint (c : Ctx) (keep : Option Eng) (loc : Loc → Bool) : Ctx :=
  [Eng.ld, Eng.mx, Eng.vx, Eng.st].foldl (fun c e =>
    if keep = some e || !(c.chain e).hist.any (fun h => loc h.loc) then c
    else c.modChain e (fun x => { x with hist := x.hist.map (fun h => if loc h.loc then { h with oldPois := true } else h) })) c

/-- A read of a pending word under the early-read check (R150). -/
def earlyHit (hs : List Hist) (loc : Loc) (rk now : Nat) : Bool :=
  hs.any (fun h => h.early && sameWord h.loc loc && hidden h rk now)

/-! ### Error correction of the tile (R13, R121) -/

def tileUnit (t : TileId) : UnitId := ⟨.tile, t.die, t⟩

/-- A tile-store word is read (R13). -/
def Mach.decodeStore (m : Mach) (t : TileId) (word : Nat) : Mach :=
  let w : SramWord := .store t (BitVec.ofNat 17 word)
  if m.sram2.contains w then
    ({ m with sram2 := m.sram2.filter (· ≠ w), sram1 := m.sram1.filter (· ≠ w) }.modCtx t
      (fun c => { c with storePois := nins word c.storePois }.taint none (sameWord (.store (8 * word))))).charge (tileUnit t) 2 32
  else if m.sram1.contains w then
    ({ m with sram1 := m.sram1.filter (· ≠ w) }.modCtx t (fun c => c.tileEvent 0x0F 1)).charge (tileUnit t) 1 2
  else m

/-- A word of the accumulator file, its flags or its counts is read (R13): an uncorrectable one poisons the halves of the
entries it belongs to, which `hs` lists. R121 lists the errors of the file and of the flags; those of the counts, which it does not
list, charge the tile in the same way (DESIGN CHOICE, log 101). -/
def Mach.decodeAccWord (m : Mach) (t : TileId) (w : SramWord) (hs : List Nat) : Mach :=
  if m.sram2.contains w then
    ({ m with sram2 := m.sram2.filter (· ≠ w), sram1 := m.sram1.filter (· ≠ w) }.modCtx t
      (fun c => { c with accPois := hs.foldl (fun s h => nins h s) c.accPois }.taint none (fun l => hs.any (fun h => sameWord (.acc (h / 2)) l)))).charge
        (tileUnit t) 2 32
  else if m.sram1.contains w then
    ({ m with sram1 := m.sram1.filter (· ≠ w) }.modCtx t (fun c => c.tileEvent 0x0F 1)).charge (tileUnit t) 1 2
  else m

/-- The flags word `k`, of sixteen entries, and the counts word `k`, of two (R11). -/
def Mach.decodeFlags (m : Mach) (t : TileId) (k : Nat) : Mach :=
  m.decodeAccWord t (.flags t (BitVec.ofNat 10 k)) ((List.range 16).map (fun i => 2 * (16 * k + i)))
def Mach.decodeCounts (m : Mach) (t : TileId) (k : Nat) : Mach :=
  m.decodeAccWord t (.counts t (BitVec.ofNat 13 k)) [4 * k, 4 * k + 2]

/-- An accumulator entry is read with its flags and its count (R11, R13): poison of any of its four words poisons it. -/
def Mach.decodeAcc (m : Mach) (t : TileId) (e : Nat) : Mach :=
  (((m.decodeAccWord t (.acc t (BitVec.ofNat 15 (2 * e))) [2 * e]).decodeAccWord t (.acc t (BitVec.ofNat 15 (2 * e + 1))) [2 * e + 1]).decodeFlags t (e / 16)).decodeCounts t (e / 2)

/-- Writes reach the code words of the tile (R13): words written whole are encoded anew, a partly written one is read
first; the flags and counts words of written entries too. -/
def Mach.eccWrites (m : Mach) (t : TileId) (bytes : List (Nat × Nat)) (accs : List Nat) : Mach :=
  if m.sram1 = [] ∧ m.sram2 = [] then m
  else
    let whole := fun (w : Nat) => (List.range 8).all (fun i => bytes.any (fun b => b.1 = 8 * w + i && b.2 = 255))
    let all := fun (n k : Nat) => (List.range n).all (fun i => accs.contains (n * k + i))
    let groups := fun (l : List Nat) (n : Nat) => l.foldl (fun (s : NSet) b => nins (b / n) s) []
    let words := groups (bytes.map (·.1)) 8
    let m := (words.filter (fun w => !whole w)).foldl (fun (m : Mach) w => m.decodeStore t w) m
    let m := ((groups accs 16).filter (fun k => !all 16 k)).foldl (fun (m : Mach) k => m.decodeFlags t k) m
    let m := ((groups accs 2).filter (fun k => !all 2 k)).foldl (fun (m : Mach) k => m.decodeCounts t k) m
    m.dropMarks (fun w => match w with
      | .store u k => u = t && words.contains k.toNat
      | .acc u h => u = t && accs.contains (h.toNat / 2)
      | .flags u k => u = t && all 16 k.toNat
      | .counts u k => u = t && all 2 k.toNat
      | _ => false)

/-! ### Windows (R163-R166) -/

def Window.v (w : Window) : Bool := w.d3.getLsbD 31
def Window.space (w : Window) : Nat := bits w.d3.toNat 30 28
def Window.fmt (w : Window) : Byte := w.d0.extractLsb' 56 8
def Window.ext (w : Window) (k : Nat) : Nat := bits w.d1.toNat (16 * k + 15) (16 * k)

/-- The format under which an operand's window is read (R244). -/
def winFmt (w : Window) (o : Operand) : Byte := if o.fmt = 0 then w.fmt else o.fmt

/-- The byte and bit of an element (R164); none: LB.RANGE. -/
def Window.elemAt (w : Window) (charea : Nat) (c : List Int) (width : Nat) : Option (Nat × Nat) :=
  let x := fun (k : Nat) => c.getD k 0
  let inside := fun (k : Nat) => decide (0 ≤ x k ∧ x k < Int.ofNat (w.ext k))
  let s := fun (v : BitVec 32) => v.toInt
  let e := x 0 + x 1 * s (w.d2.extractLsb' 0 32) + x 2 * s (w.d2.extractLsb' 32 32) + x 3 * s (w.d3.extractLsb' 32 32)
  let a := Int.ofNat (bits w.d0.toNat 55 0) + (e * Int.ofNat width).fdiv 8
  if w.v && inside 0 && inside 1 && inside 2 && inside 3 &&
      decide (0 ≤ a ∧ a + Int.ofNat (cdiv width 8) ≤ Int.ofNat (spaceLimit w.space charea)) then
    some (a.toNat, ((e * Int.ofNat width).fmod 8).toNat)
  else none

/-- swizzle (R165). -/
def swizzle (nb swz a : Nat) : Nat :=
  let row := a / (64 * nb)
  let f := if swz = 0 then 0 else if swz = 1 then row % nb else row % 8 * 4 % nb
  a ^^^ (f * 64)

/-- The place of a pool byte a window names (R166). -/
def poolPlace (m : Mach) (t : TileId) (w : Window) (a : Nat) : Place :=
  let rdie := w.d3.getLsbD 20
  let rpkg := w.d3.getLsbD 21
  let d := if rdie then w.d3.extractLsb' 18 2 else t.die
  let cl : ClusterId := if rdie || rpkg then d ++ w.d3.extractLsb' 3 3 else t.cluster
  let pa := if w.space = 1 then cpoolPa cl a else dpoolPa d a
  let pkg := w.d3.extractLsb' 6 12
  if rpkg && pkg ≠ m.pkg then .away pkg pa else .here pa

/-- Where `n` bytes at address `a` of a window lie; they are within one 64-byte line (R165, R170). -/
def targetOf (v : Env) (w : Window) (a n : Nat) (acc : Acc) : StepM Dst := do
  let m ← getM
  let swz := bits w.d3.toNat 27 26
  if w.space = 0 then return .store (swizzle 32 swz a)
  else if w.space = 1 then return .mem (poolPlace m v.t w (swizzle 32 swz a))
  else if w.space = 2 then return .mem (poolPlace m v.t w (swizzle 128 swz a))
  else if w.space = 3 then
    let m := m.walked (.engine v.t) v.p a
    setM m
    match m.translate (.engine v.t) v.p a n acc true with
    | .ok p _ => return .mem p
    | .bad f => fun k => .error (.page (BitVec.ofNat 64 a) acc f, k.m)
  else return .mem (.host a)

/-- Split [a, a + n) at 64-byte lines. -/
def pieces (a n : Nat) : List (Nat × Nat) :=
  let n0 := Nat.min n (64 - a % 64)
  if n0 = n then [(a, n)] else [(a, n0), (a + n0, n - n0)]

def Place.shift (p : Place) (k : Nat) : Place :=
  match p with
  | .here pa => .here (pa + k)
  | .host ba => .host (ba + k)
  | .away g pa => .away g (pa + k)
  | .repl s o => .repl s (o + k)

/-! ### Reads -/

/-- The cause of a non-zero STATUS for a chain (R171). -/
def statusChain (st : Nat) : Cause :=
  if st = 1 then .badop else if st = 2 then .lbAccess else if st = 3 then .lbPoison
  else if st = 4 then .noroute else .hoplimit

/-- Poison of the words that a chain's step, or a write from another tile, has written (R138, R331): a word that receives a poisoned byte
is poisoned, one written whole is clean. -/
def Ctx.settlePoison (c : Ctx) (by_ : Option Eng) (bs : List (Nat × WByte)) : Ctx :=
  if c.storePois = [] && bs.all (fun b => !b.2.pois) then c
  else
    let words := bs.foldl (fun s b => nins (b.1 / 8) s) []
    words.foldl (fun c w =>
      let mine := bs.filter (fun b => b.1 / 8 = w)
      if mine.any (fun b => b.2.pois) then
        { c with storePois := nins w c.storePois, ext := { c.ext with dupPois := ndel w c.ext.dupPois } }.taint by_ (sameWord (.store (8 * w)))
      else if (List.range 8).all (fun i => mine.any (fun b => b.1 = 8 * w + i && b.2.mask = 255)) then
        { c with storePois := ndel w c.storePois }
      else c) c

/-- Bits of a byte replaced under a mask. -/
def maskByte (old mask val : Nat) : Nat := (old &&& (255 - mask)) ||| (val &&& mask)

/-- Bytes, oldest first, in the tile store. -/
def Ctx.withBytes (c : Ctx) (bs : List (Nat × WByte)) : Ctx :=
  { c with store := bs.foldl (fun s b =>
      Memory.setByte s b.1 (BitVec.ofNat 8 (maskByte (Memory.byte s b.1).toNat b.2.mask b.2.val))) c.store }

/-- The bytes of the tile store among those a step writes, oldest first. -/
def storeBytes (out : List WByte) : List (Nat × WByte) :=
  out.reverse.filterMap (fun (x : WByte) => match x.dst with
    | .store a => some (a, x)
    | _ => none)

/-- Bytes of the tile store as a chain sees them at its issue count (R149, R150), with their poison. A read that no distance concerns
(ST, `rk` 0) sees what the iterations before it in the step have written (R329). -/
def readStore (v : Env) (a n rk : Nat) : StepM (Nat × Bool) := do
  let m ← getM
  let m := if m.sram1 = [] ∧ m.sram2 = [] then m
    else (List.range ((a + n - 1) / 8 + 1 - a / 8)).foldl (fun m i => m.decodeStore v.t (a / 8 + i)) m
  setM m
  let out ← fun k => .ok (storeBytes (if rk = 0 then k.out else []), k)
  let c := m.ctx v.t
  let c := if out.isEmpty then c else (c.withBytes out).settlePoison none out
  let hs := if rk = 0 then [] else (c.chain v.e).hist
  if v.early && (List.range n).any (fun i => earlyHit hs (.store (a + i)) rk v.rd) then stopWith .lbEarly
  else
    let byteAt := fun (i : Nat) => match oldestHidden hs (.store (a + i)) rk v.rd with
      | some h => h.oldByte
      | none => Memory.byte c.store (a + i)
    let words := (List.range ((a + n - 1) / 8 + 1 - a / 8)).map (fun i => a / 8 + i)
    return (ofBytes ((List.range n).map byteAt),
      words.any (fun w => poisonSeen hs (.store (8 * w)) rk v.rd (nhas c.storePois w)))

/-- Data of another die or package, from the answers that the engine holds; asked for where none is there. -/
def readAnswer (v : Env) (place : Place) (n : Nat) (x : Msg) : StepM (Nat × Bool) := do
  let m ← getM
  match ((m.ctx v.t).chain v.e).answers.find? (fun a => a.place = place && a.size = n) with
  | some a =>
    match a.resp with
    | some (st, data) =>
      if st = 0 then return (answerBytes place n data false, false)
      else if st = 3 then return (0, true)
      else stopWith (statusChain st)
    | none => fun k => .ok ((0, false), { k with pend := true })
  | none => fun k => .ok ((0, false), { k with pend := true, asks := k.asks ++ [(place, n, x)] })

/-- A step reads sectors of its die: each counts once (R157; log 145). -/
def noteSectors (pa n : Nat) : StepM Unit := fun k =>
  .ok ((), if paRegion pa = 0 then
      { k with secs := (List.range ((pa + n - 1) / 64 + 1 - pa / 64)).foldl (fun s i => nins (pa / 64 + i) s) k.secs }
    else k)

/-- Bytes at a place as the accesses before this step left it (R170, R171). -/
def readBefore (v : Env) (place : Place) (n : Nat) : StepM (Nat × Bool) := do
  let m ← getM
  (fun k => .ok ((), { k with read := true }) : StepM Unit)
  let ask := fun (pkg : BitVec 12) (pa : Nat) => readMsg pkg pa n v.p (sagentEngine v.t v.e) v.b.cls
  let direct := fun (pa : Nat) => do
    let (ok, m) := m.checkGrant pa (masterEngine v.p) .read false
    let m := if ok then m.decodeRange pa n else m
    setM m
    need ok .lbAccess
    noteSectors pa n
    return (Memory.read m.mem pa n, m.poisoned pa n)
  match place with
  | .here pa => if paDie pa = v.t.die then direct pa else readAnswer v place n (ask m.pkg pa)
  | .host ba => return (Memory.read m.hostMem ba n, false)
  | .away pkg pa => readAnswer v place n (ask pkg pa)
  | .repl set off =>
    if m.isMember set v.t.die then direct (hbmPa v.t.die off)
    else
      let (pkg, d) := m.sequencer v.t.die set
      readAnswer v place n (ask pkg (hbmPa d off))

/-- Bytes at a place: an iteration of the step sees what the iterations before it have written there (R180, R329). -/
def readPlace (v : Env) (place : Place) (n : Nat) : StepM (Nat × Bool) := do
  let (x, p) ← readBefore v place n
  let out ← fun k => .ok (k.out.reverse, k)
  let mine := fun (i : Nat) => out.filter (fun (y : WByte) => decide (y.dst = .mem (place.shift i)))
  if out.all (fun (y : WByte) => match y.dst with
    | .mem _ => false
    | _ => true) then return (x, p)
  else
    let byteAt := fun (i : Nat) => BitVec.ofNat 8 ((mine i).foldl (fun o (y : WByte) => maskByte o y.mask y.val) (x / 2 ^ (8 * i) % 256))
    return (ofBytes ((List.range n).map byteAt), p || (List.range n).any (fun i => (mine i).any (·.pois)))

/-- `n` bytes from address `a` of a window on. -/
def readWin (v : Env) (w : Window) (a n rk : Nat) : StepM (Nat × Bool) := do
  let rs ← (pieces a n).mapM (fun (x : Nat × Nat) => do
    let d ← targetOf v w x.1 x.2 .read
    let r ← match d with
      | .store s => readStore v s x.2 rk
      | .bcast s => readStore v s x.2 rk
      | .mem p => readPlace v p x.2
      | .red p _ => readPlace v p x.2
    return (x.1 - a, r))
  return rs.foldl (fun acc r => (acc.1 + r.2.1 * 2 ^ (8 * r.1), acc.2 || r.2.2)) (0, false)

/-- The element at coordinates of a window under a format: its code, and whether it is poisoned (R164). -/
def readCoords (v : Env) (o : Operand) (c : List Int) (rk : Nat) : StepM (Nat × Bool) := do
  let m ← getM
  let w := (m.ctx v.t).win o.index.toNat
  let width := fmtWidth (winFmt w o)
  match w.elemAt v.charea c width with
  | none => stopWith .lbRange
  | some (a, bit) =>
    let (x, p) ← readWin v w a (cdiv (bit + width) 8) rk
    return (x / 2 ^ bit % 2 ^ width, p)

def readElem (v : Env) (o : Operand) (i : Ix) (rk : Nat) : StepM (Nat × Bool) :=
  readCoords v o (operandCoords o i) rk

/-! ### Writes -/

def emitByte (x : WByte) : StepM Unit := fun k => .ok ((), { k with out := x :: k.out })

/-- Write the low `width` bits of `x` at bit `bit` of [dst, …). -/
def emitBits (at_ : Nat → Dst) (bit width x : Nat) (pois : Bool) : StepM Unit := do
  let n := cdiv (bit + width) 8
  let mask := (2 ^ width - 1) * 2 ^ bit
  let val := x % 2 ^ width * 2 ^ bit
  let _ ← (List.range n).mapM (fun i =>
    emitByte ⟨at_ i, mask / 2 ^ (8 * i) % 256, val / 2 ^ (8 * i) % 256, pois⟩)
  return ()

/-- Write an element at coordinates of a window (R164); `tile` says which tile stores take its bytes of space T. -/
def writeCoordsTo (v : Env) (tile : Nat → Dst) (o : Operand) (c : List Int) (x : Nat) (pois : Bool) : StepM Unit := do
  let m ← getM
  let w := (m.ctx v.t).win o.index.toNat
  let width := fmtWidth (winFmt w o)
  match w.elemAt v.charea c width with
  | none => stopWith .lbRange
  | some (a, bit) =>
    let ds ← (pieces a (cdiv (bit + width) 8)).mapM (fun (y : Nat × Nat) => do
      let d ← targetOf v w y.1 y.2 .write
      return (y.1 - a, y.2, d))
    let at_ := fun (i : Nat) => match ds.find? (fun d => decide (d.1 ≤ i ∧ i < d.1 + d.2.1)) with
      | some (o, _, .store s) => tile (s + (i - o))
      | some (o, _, .mem p) => .mem (p.shift (i - o))
      | _ => .store 0
    emitBits at_ bit width x pois

def writeCoords (v : Env) (o : Operand) (c : List Int) (x : Nat) (pois : Bool) : StepM Unit :=
  writeCoordsTo v Dst.store o c x pois

def writeElem (v : Env) (o : Operand) (i : Ix) (x : Nat) (pois : Bool) : StepM Unit :=
  writeCoords v o (operandCoords o i) x pois

/-! ### Rings (R319-R323) -/

def ringCap (r : Ring) : Nat := ringSlotu r * 512 / fmtWidth (ringSrc r)

def ringStep (r : Ring) (p : Nat × Nat) : Nat × Nat :=
  if p.2 + 1 < ringCap r then (p.1, p.2 + 1) else ((p.1 + 1) % ringNslot r, 0)

/-- Bit address of a position; a ring whose extent reaches into the chain area is LB.RANGE at its first use (R252). -/
def ringBit (v : Env) (r : Ring) (p : Nat × Nat) : StepM Nat := do
  need (decide (ringBase r + ringNslot r * ringSlotu r * 64 ≤ chainBase v.charea)) .lbRange
  return ringBase r * 8 + p.1 * ringSlotu r * 512 + p.2 * fmtWidth (ringSrc r)

def getRing (q : Nat) : StepM Ring := fun k => .ok (tget Ring.off k.rings q, k)
def setRing (q : Nat) (r : Ring) : StepM Unit := fun k => .ok ((), { k with rings := tput Ring.off k.rings q r })

/-- The format a read ring delivers (R244, R364). -/
def popFmt (r : Ring) (o : Operand) : Byte := if o.fmt = 0 then ringSink r else o.fmt

/-- ring_pop (R320): the element in the consumer's format, with its poison. -/
def ringPop (v : Env) (o : Operand) (rk : Nat) : StepM (Nat × Bool) := do
  let r ← getRing o.index.toNat
  let b ← ringBit v r r.head
  let w := fmtWidth (ringSrc r)
  let (x, p) ← readStore v (b / 8) (cdiv (b % 8 + w) 8) rk
  setRing o.index.toNat { r with head := ringStep r r.head }
  let (y, f) := popConv (ringSrc r) (popFmt r o) (ringRm r) (ringSat r) v.b.ftzi v.b.ftzo (x / 2 ^ (b % 8) % 2 ^ w)
  addFlags f
  return (y, p)

/-- ring_push (R320). -/
def ringPush (v : Env) (o : Operand) (x : Nat) (pois : Bool) : StepM Unit := do
  let r ← getRing o.index.toNat
  let b ← ringBit v r r.tail
  setRing o.index.toNat { r with tail := ringStep r r.tail }
  emitBits (fun i => .store (b / 8 + i)) (b % 8) (fmtWidth (ringSrc r)) x pois

/-- An element of an operand in a read position: a window's element, or the next of a ring. -/
def readOp (v : Env) (o : Operand) (i : Ix) : StepM (Nat × Bool) :=
  if o.kind = 2 then ringPop v o (storeKind v.e) else readElem v o i (storeKind v.e)

/-- An element of the written operand. -/
def writeOp (v : Env) (o : Operand) (i : Ix) (x : Nat) (pois : Bool) : StepM Unit :=
  if o.kind = 2 then ringPush v o x pois else writeElem v o i x pois

/-- The format an operand is read under, and the one it is written under (R364). -/
def rdFmt (m : Mach) (t : TileId) (o : Operand) : Byte :=
  if o.kind = 2 then popFmt ((m.ctx t).ring o.index.toNat) o else winFmt ((m.ctx t).win o.index.toNat) o
def wrFmt (m : Mach) (t : TileId) (o : Operand) : Byte :=
  if o.kind = 2 then ringSrc ((m.ctx t).ring o.index.toNat) else winFmt ((m.ctx t).win o.index.toNat) o

/-! ### Accumulator entries (R143, R242) -/

/-- The entry at coordinates of an accumulator tile; outside it, or with coordinate 2 or 3, LB.RANGE. -/
def accEntry (v : Env) (n : Nat) (c : List Int) : StepM Nat := do
  let m ← getM
  let cfg := (m.ctx v.t).accCfg n
  let col := c.getD 0 0
  let row := c.getD 1 0
  need (decide (0 ≤ col ∧ col ≤ Int.ofNat (accNCol cfg) ∧ 0 ≤ row ∧ row ≤ Int.ofNat (accNRow cfg)) &&
    c.getD 2 0 = 0 && c.getD 3 0 = 0) .lbRange
  return entryAt (accRow0 cfg + row.toNat) (accCol0 cfg + col.toNat)

/-- Read an entry as the chain sees it (R149), with its poison; a poisoned one faults (R349, R355). -/
def readAcc (v : Env) (e rk : Nat) : StepM AqEntry := fun k =>
  match k.acc.find? (fun p => p.1 = e) with
  | some p => .ok (p.2, k)
  | none =>
    let m := if k.m.sram1 = [] ∧ k.m.sram2 = [] then k.m else k.m.decodeAcc v.t e
    let c := m.ctx v.t
    let hs := c.mx.hist
    let k := { k with m := m }
    if poisonSeen hs (.acc e) rk v.rd (c.accPois.contains (2 * e) || c.accPois.contains (2 * e + 1)) then .error (.fault .lbPoison, m)
    else if v.early && earlyHit hs (.acc e) rk v.rd then .error (.fault .lbEarly, m)
    else
      match oldestHidden hs (.acc e) rk v.rd with
      | some h => .ok (h.oldAcc, k)
      | none => .ok (tget AqEntry.zero c.acc e, k)

/-- An entry read to be sent, under its index. -/
def sendAcc (i : Nat) (x : AqEntry) : StepM Unit := fun k => .ok ((), { k with got := k.got ++ [(i, x)] })

def writeAcc (e : Nat) (x : AqEntry) : StepM Unit := fun k =>
  .ok ((), { k with acc := (e, x) :: k.acc.filter (fun p => p.1 ≠ e) })

/-! ### The writes of a step take effect -/

/-- Drop what other chains remember of places that this one writes: their own writes there are overwritten. -/
def Ctx.forget (c : Ctx) (keep : Option Eng) (loc : Loc → Bool) : Ctx :=
  [Eng.ld, Eng.mx, Eng.vx, Eng.st].foldl (fun c e =>
    if keep = some e then c
    else
      let x := c.chain e
      if x.hist.any (fun h => loc h.loc) then c.setChain e { x with hist := x.hist.filter (fun h => !loc h.loc) } else c) c

/-- One byte of the tile store, with the chain's memory of the old one. -/
def Ctx.putByte (c : Ctx) (v : Env) (a : Nat) (x : WByte) : Ctx :=
  let old := Memory.byte c.store a
  let new := BitVec.ofNat 8 (maskByte old.toNat x.mask x.val)
  let c := c.forget (some v.e) (fun l => l = .store a)
  let c := if storeKind v.e = 0 then c
    else c.modChain v.e (fun y =>
      { y with hist := y.hist ++ [⟨v.wr, storeKind v.e, .store a, old, AqEntry.zero, nhas c.storePois (a / 8), true, v.early, false⟩] })
  { c with store := Memory.setByte c.store a new }

/-- Put bytes, oldest first, into the tile store. -/
def Ctx.putBytes (c : Ctx) (v : Env) (bs : List (Nat × WByte)) : Ctx :=
  (bs.foldl (fun c b => c.putByte v b.1 b.2) c).settlePoison (some v.e) bs

/-- A run of bytes at adjacent addresses of one place, all in one 64-byte line; or an element that an update ROP
combines with the place. -/
structure Run where
  place : Place
  bytes : List Byte
  /-- which of the bytes are poisoned, counted from the first -/
  pois : List Nat
  red : Option Nat

/-- Merge partly written bytes of one place (R164): the later bits win. -/
def mergeBytes (l : List (Place × WByte)) : List (Place × WByte) :=
  l.foldl (fun acc x =>
    if x.2.mask = 255 then acc ++ [x]
    else if acc.any (fun y => y.1 = x.1) then
      acc.map (fun y =>
        if y.1 = x.1 then
          (y.1, { y.2 with mask := y.2.mask ||| x.2.mask, val := maskByte y.2.val x.2.mask x.2.val,
                           pois := y.2.pois || x.2.pois })
        else y)
    else acc ++ [x]) []

/-- Group whole bytes into runs. -/
def groupRuns (l : List (Place × Byte × Bool)) : List Run :=
  (l.foldl (fun (acc : List Run) x =>
    match acc with
    | [] => [⟨x.1, [x.2.1], if x.2.2 then [0] else [], none⟩]
    | r :: rest =>
      if r.place.shift r.bytes.length = x.1 && (placeAddr x.1).2 % 64 ≠ 0 then
        { r with bytes := r.bytes ++ [x.2.1], pois := if x.2.2 then r.pois ++ [r.bytes.length] else r.pois } :: rest
      else ⟨x.1, [x.2.1], if x.2.2 then [0] else [], none⟩ :: r :: rest) []).reverse

/-- Fill in the bits a partly written memory byte keeps. -/
def fillByte (v : Env) (x : Place × WByte) : StepM (Place × Byte × Bool) := do
  if x.2.mask = 255 then return (x.1, BitVec.ofNat 8 x.2.val, x.2.pois)
  else
    let (old, p) ← readPlace v x.1 1
    return (x.1, BitVec.ofNat 8 (maskByte old x.2.mask x.2.val), x.2.pois || p)

/-- The memory runs of a step. -/
def memRuns (v : Env) : StepM (List Run) := fun k =>
  let ms := k.out.reverse.filterMap (fun (x : WByte) => match x.dst with
    | .mem p => some (p, x)
    | _ => none)
  let reds := k.out.reverse.filterMap (fun (x : WByte) => match x.dst with
    | .red p n => some (⟨p, toBytes n x.val, [], some x.mask⟩ : Run)
    | _ => none)
  ((mergeBytes ms).mapM (fillByte v) >>= fun l => pure (groupRuns l ++ reds)) k

/-- Apply an update at a memory port (R190, R337). -/
def Mach.reducePa (m : Mach) (pa rop : Nat) (rm : BitVec 2) (x : Nat) : Mach :=
  let n := reduceSize rop
  m.writePa pa (toBytes n (reduceNew rop rm (Memory.read m.mem pa n) x))

/-- The message of one element (R27): control slot and data slot. -/
def reduceMsg (pkg : BitVec 12) (pa rop : Nat) (rm : BitVec 2) (x : Nat) (p : PartId) (ag : BitVec 10)
    (cls : BitVec 4) : Msg :=
  { blankMsg with op := 0x1A, addr := reqAddr pa p, dpkg := pkg, ddie := paDie pa, sagent := ag, cls := cls,
                  data := [BitVec.ofNat 128 (rop * 16 + rm.toNat * 256), BitVec.ofNat 128 x] }

/-- The atomic of an update message to a replica set (R27) that does what an integer ROP does: KIND and OP. -/
def reduceUpdate (rop : Nat) : Nat × Nat := if rop = 0 then (1, 1) else if rop = 2 then (2, 0) else (1, 4)

/-- The update of an element of a replicated page, and who waits for it: R27 has no KIND for the fp32 ROPs, which go out as
compare-and-swaps, the first one against 0 (R27, R337; log 21). -/
def reduceSetMsg (pkg : BitVec 12) (w d : DieId) (set : BitVec 16) (off rop : Nat) (rm : BitVec 2) (x : Nat) (p : PartId)
    (ag : BitVec 10) (cls : BitVec 4) (who : Agent) : Msg × Agent :=
  if rop = 1 ∨ rop = 4 then
    let y := casMsg (updateAmoMsg pkg w d set off 1 8 false 0 p ag cls) rop rm 0 x
    (y, .cas who y rop rm x)
  else
    let (kind, op) := reduceUpdate rop
    (updateAmoMsg pkg w d set off kind op false (BitVec.ofNat 128 x) p ag cls, who)

/-- Poison of bytes of a run, counted from its first byte, as a message with those bytes carries it (R138; log 63). -/
def slotPois (a : Nat) (l : List Nat) : List Nat := l.map (· + a % 16)

/-- Write one run (R170, R330): at once on the own die and at the host, else as a message that the chain counts. A
refusal is LB.ACCESS after what came before it. Host memory has no poison: poisoned bytes arrive there clean (DESIGN CHOICE, log 156). -/
def Mach.putRun (m : Mach) (v : Env) (r : Run) : Except (Stop × Mach) Mach :=
  let sendAs := fun (x : Msg) (who : Agent) (pois : List Nat) =>
    let m := m.modChain v.t v.e (fun c => { c with outw := c.outw + 1 })
    .ok ((m.ask v.t.die x who r.place pois).getD m)
  let who := Agent.engW v.t v.e v.j
  let ag := sagentEngine v.t v.e
  match r.red with
  | some rop =>
    let x := ofBytes r.bytes
    match r.place with
    | .here pa =>
      if paDie pa = v.t.die then
        let (ok, m) := m.checkGrant pa (masterEngine v.p) .atomic false
        if !ok then .error (.fault .lbAccess, m) else .ok (m.reducePa pa rop v.b.rm x)
      else sendAs (reduceMsg m.pkg pa rop v.b.rm x v.p ag v.b.cls) who []
    | .host _ => .error (.fault .lbAccess, m)
    | .away pkg pa => sendAs (reduceMsg pkg pa rop v.b.rm x v.p ag v.b.cls) who []
    | .repl set off =>
      let (pkg, d) := m.sequencer v.t.die set
      let (y, who) := reduceSetMsg pkg v.t.die d set off rop v.b.rm x v.p ag v.b.cls who
      sendAs y who []
  | none =>
    match r.place with
    | .here pa =>
      if paDie pa = v.t.die then
        let (ok, m) := m.checkGrant pa (masterEngine v.p) .write false
        if !ok then .error (.fault .lbAccess, m)
        else .ok (r.pois.foldl (fun (m : Mach) k => m.poison (pa + k) 1) (m.writePa pa r.bytes))
      else sendAs (writeMsg m.pkg pa r.bytes v.p ag v.b.cls) who (slotPois pa r.pois)
    | .host ba => .ok { m with hostMem := Memory.writeBytes m.hostMem ba r.bytes }
    | .away pkg pa => sendAs (writeMsg pkg pa r.bytes v.p ag v.b.cls) who (slotPois pa r.pois)
    | .repl set off =>
      let (pkg, d) := m.sequencer v.t.die set
      sendAs (updateWriteMsg pkg v.t.die d set off r.bytes v.p ag v.b.cls) who (slotPois off r.pois)

/-- Entries a step has written, with the chain's memory of the old ones; a whole write clears poison (R138, R353). -/
def Ctx.putAcc (c : Ctx) (v : Env) (wk : Nat) (l : List (Nat × AqEntry)) : Ctx :=
  l.foldl (fun c x =>
    let old := tget AqEntry.zero c.acc x.1
    let pois := nhas c.accPois (2 * x.1) || nhas c.accPois (2 * x.1 + 1)
    let c := c.modChain v.e (fun y => { y with hist := y.hist ++ [⟨v.wr, wk, .acc x.1, 0, old, pois, true, v.early, true⟩] })
    { c with acc := tput AqEntry.zero c.acc x.1 x.2,
             accPois := ndel (2 * x.1) (ndel (2 * x.1 + 1) c.accPois) }) c

/-- Entries written by anyone but the own MX chain, such as a gangline addition: the remembered ones receive it too. -/
def Ctx.mergeAcc (c : Ctx) (e : Nat) (f : AqEntry → AqEntry) : Ctx :=
  let c := { c with acc := tput AqEntry.zero c.acc e (f (tget AqEntry.zero c.acc e)) }
  c.modChain .mx (fun y =>
    { y with hist := y.hist.map (fun h => if h.loc = .acc e then { h with oldAcc := f h.oldAcc } else h) })

end Sys2Proof.Machine
end

