-- ==== Sys2Proof/Machine/MusherSys.lean ====
section
/-! DEFINITION. Musher synchronisation, tile control, gangline, tickets and system instructions
(14_musher_sync_tile_system.md R288-R317). -/
namespace Sys2Proof.Machine

/-- What a checked instruction comes to: an effect that completes it, a trap with the instruction word, or a wait. -/
inductive CRes where
  | done (m : Mach)
  | trap (c : Cause)
  | wait (m : Mach)
  | stall
  | hold (m : Mach)

/-- End an instruction as its checks say (R151, R154). -/
def Mach.close (m : Mach) (t : TileId) (i : Instr) : CRes → Mach
  | .done m' => m'.modThr t (fun th => th.finish (th.pc + 4))
  | .trap c => m.trapWord t c i
  | .wait m' => m'.modThr t Thread.wait
  | .stall => m.modThr t Thread.stall
  | .hold m' => m'

/-- Run a checked instruction of the issuing thread. -/
def State.checked (s : State) (i : Instr) (f : Mach → TileId → CRes) : Host.Outcome State Fault Refusal :=
  .next (s.onM (fun m => m.close s.turn.thread i (f m s.turn.thread)))

/-- The item a thread supervises, if it has not ended (R294). -/
def Mach.supOf (m : Mach) (t : TileId) : Option Sup :=
  match (m.thr t).sup with
  | some u => if u.ended then none else some u
  | none => none

/-- A tile-control instruction: MU.BUSY without a tile (R294). -/
def State.tileCtl (s : State) (i : Instr) (f : Mach → TileId → Sup → CRes) : Host.Outcome State Fault Refusal :=
  s.checked i (fun m t => match m.supOf t with
    | some u => f m t u
    | none => .trap .busy)

/-! ### Fences and instruction fetch -/

/-- FENCE.C (R181, R288): every buffered store of a class of P holds back later accesses in the classes of Q. -/
def execFenceC (p q : BitVec 16) (s : State) : Host.Outcome State Fault Refusal :=
  .next (s.onThread (fun th =>
    Thread.finish { th with wbuf := th.wbuf.map (fun (w : WEntry) =>
        if p.getLsbD w.cls.toNat then { w with blocks := w.blocks ||| q } else w) } (th.pc + 8)))

/-- A request that an engine of a tile has sent, on a path of a mask (R177): reads and writes of LD and ST, contributions; for an item
that has since retired or left too. -/
def onPath (m : Mach) (t : TileId) (mask : BitVec 9) (reads : Bool) (a : Agent) : Bool :=
  let eng := fun (e : Eng) => (e = .ld && mask.getLsbD 2) || (e = .st && mask.getLsbD 3)
  match a with
  | .eng u e => reads && u = t && eng e
  | .engW u e _ => u = t && eng e
  | .itemW r e _ => m.itemTile r = some t && eng e
  | .gang u _ _ => u = t && mask.getLsbD 4
  | .rel _ _ a => onPath m t mask reads a
  | .dead _ a => onPath m t mask reads a
  | _ => false

/-- FENCE.X (R183, R289): it waits for the thread's own stores, and for what the engines of its tile had sent when it was issued;
every other access that it names has been performed by then. -/
def execFenceX (scope : BitVec 3) (mask : BitVec 9) (s : State) : Host.Outcome State Fault Refusal :=
  s.checked (.fenceX scope mask) (fun m t =>
    let th := m.thr t
    let mine := fun (a : Agent) => th.sup.isSome && onPath m t mask true a
    let stores := !mask.getLsbD 0 || th.wbuf.isEmpty
    let acquire := fun (m : Mach) => if mask.getLsbD 0 && decide (2 ≤ scope.toNat) then m.dinvalidate t.cluster else m
    if th.fence.isNone && stores && m.owedTo t.die mine = 0 then .done (acquire m)
    else
      let n := th.fence.getD m.nextMark
      let m := if th.fence.isNone then m.markSent t.die mine else m
      if !stores || m.markLeft t.die n then .hold (m.modThr t (fun th => { th with st := .stalled, fence := some n }))
      else .done (acquire (m.modThr t (fun th => { th with fence := none }))))

/-- Drop the lines of a partition that overlap [a, a + n) from a core's instruction cache (R290). -/
def Mach.iinvCore (m : Mach) (c : ClusterId) (p : PartId) (a n : Nat) : Mach :=
  if n = 0 then m
  else
    let x := m.core c
    (m.setCore c { x with ilines := x.ilines.filter (fun l =>
      !(l.part = p && decide (a / 64 ≤ l.line ∧ l.line ≤ (a + n - 1) / 64))) }).stale c Outst.fetches

/-- The cores of a scope on which the partition is resident (R84, R290). -/
def Mach.iinvScope (m : Mach) (home : ClusterId) (p : PartId) (scope : Nat) (a n : Nat) : Mach :=
  if scope = 2 then m.iinvCore home p a n
  else
    (List.range 32).foldl (fun m k =>
      let c := BitVec.ofNat 5 k
      if (scope ≠ 3 || ClusterId.die c = ClusterId.die home) && (m.clu c).resident = some p then m.iinvCore c p a n
      else m) m

/-- IINV (R290). -/
def execIinv (a b : Reg) (scope : BitVec 3) (s : State) : Host.Outcome State Fault Refusal :=
  s.checked (.iinv a b scope) (fun m t =>
    let th := m.thr t
    let ua := (th.rd a).toNat
    let ub := (th.rd b).toNat
    if ub = 0 then .done m
    else if 2 ^ 40 < ub ∨ 2 ^ 56 < ua + ub then .trap .arg
    else .done (m.iinvScope t.cluster (m.partOf t) scope.toNat ua ub))

/-- ISYNC (R291): the model holds no word fetched ahead, so only the pc moves. -/
def execIsync (s : State) : Host.Outcome State Fault Refusal :=
  .next (s.onThread (fun th => th.finish (th.pc + 4)))

/-! ### Barriers (R188, R189, R292, R293) -/

/-- The barrier BK, BN names for a thread (R292). -/
def barOf (t : TileId) (slot : Nat) (bk : BitVec 2) (bn : BitVec 4) : BarId :=
  if bk = 0 then .cb t.cluster slot bn else if bk = 1 then .db t.die bn else .pb bn

/-- The team size of a thread's slot. -/
def Mach.slotSize (m : Mach) (t : TileId) (u : Sup) : Nat :=
  match m.slot t.cluster u.slot with
  | some sl => sl.tiles.length
  | none => 0

/-- ARRIVE (R188, R189, R292): a thread counts into the barrier's current phase, one that joined in it into the next; the writes that
its tile's engines had sent by then are marked. -/
def execArrive (bk : BitVec 2) (bn : BitVec 4) (mask : BitVec 9) (s : State) : Host.Outcome State Fault Refusal :=
  s.tileCtl (.arrive bk bn mask) (fun m t u =>
    let id := barOf t u.slot bk bn
    let b := m.bar id
    let th := m.thr t
    if bk = 0 ∧ 2 * m.slotSize t u ≤ bn.toNat then .trap .arg
    else if bk ≠ 0 ∧ b.owned ∧ b.owner ≠ u.lid then .trap .busy
    else if th.arrivals.any (fun a => a.bar = id && decide (b.phase ≤ a.phase)) then .stall
    else if mask.getLsbD 0 && !th.wbuf.isEmpty then .stall
    else
      let k := partKey t.cluster u.slot u.pos
      let late := nhas b.late k
      let a : Arrival := ⟨id, if late then b.phase + 1 else b.phase, mask⟩
      let sent := (TileId.die t, m.nextMark)
      let b := { b with owned := true, owner := if b.owned then b.owner else u.lid }
      let m := (m.markSent t.die (onPath m t mask false)).setBar id
        (if late then { b with next := nins k b.next, sentNext := b.sentNext ++ [sent] }
         else { b with arrived := nins k b.arrived, sent := b.sent ++ [sent] })
      .done (m.setThr t { th with arrivals := th.arrivals.filter (fun a => a.bar ≠ id) ++ [a] }))

/-- WAITB (R188, R293): waits for the phase of the last ARRIVE, then acquires with its mask. -/
def execWaitb (bk : BitVec 2) (bn : BitVec 4) (s : State) : Host.Outcome State Fault Refusal :=
  s.checked (.waitb bk bn) (fun m t =>
    let th := m.thr t
    let id := barOf t ((th.sup.map (·.slot)).getD 0) bk bn
    match th.arrivals.find? (fun a => a.bar = id) with
    | none => .done m
    | some a =>
      if (m.bar id).phase ≤ a.phase then .wait m
      else
        let m := m.setThr t { th with arrivals := th.arrivals.filter (fun a => a.bar ≠ id) }
        .done (if a.mask.getLsbD 0 then m.dinvalidate t.cluster else m))

/-- A thread whose part in a launch has not ended, wherever it is (R188). -/
structure Live where
  clu : ClusterId
  sup : Sup

def Live.key (l : Live) : Nat := partKey l.clu l.sup.slot l.sup.pos

/-- The threads of launch `lid` that have not ended, running or parked in a kennel slot or a spill (R188). -/
def Mach.liveThreads (m : Mach) (lid : Word) : List Live :=
  let mine := fun (s : Option Sup) => match s with
    | some u => if u.lid = lid && !u.ended then some u else none
    | none => none
  let parked := fun (o : Option Image) => match o with
    | some im => (mine im.thr.sup).map (fun u => (⟨im.tile.cluster, u⟩ : Live))
    | none => none
  m.threads.filterMap (fun x => (mine x.2.sup).map (fun u =>
      (⟨TileId.cluster (BitVec.ofNat 8 x.1), u⟩ : Live))) ++
    m.tiles.filterMap (fun x => parked x.2.kennel) ++
    m.parts.flatMap (fun p => p.2.spilled.filterMap (fun x => parked x.2))

/-- The participants of a barrier's current phase (R188). -/
def Mach.participants (m : Mach) (id : BarId) (b : Bar) : List Live :=
  let inScope := fun (l : Live) => match id with
    | .cb c n _ => l.clu = c && l.sup.slot = n
    | .db d _ => ClusterId.die l.clu = d
    | .pb _ => true
  (m.liveThreads b.owner).filter (fun l => inScope l && !nhas b.late l.key)

/-- The writes that were ordered before the arrivals of a phase have been performed (R189): a thread's own stores are when it arrives. -/
def Bar.performed (b : Bar) (m : Mach) : Bool := b.sent.all (fun x => !m.markLeft x.1 x.2)

/-- A barrier in its next phase (R188). -/
def Bar.nextPhase (b : Bar) : Bar :=
  { b with phase := b.phase + 1, arrived := b.next, late := [], next := [], sent := b.sentNext, sentNext := [] }

/-- BARRIER_PHASE_COMPLETE (R188, R189, R221): once every participant has arrived, every registered reservation is over
and the writes on the arrivals' paths have been performed, the next phase begins. -/
def execBarrierPhaseComplete (bar : BarId) (s : State) : Host.Outcome State Fault Refusal :=
  .next (s.onM (fun m =>
    let b := m.bar bar
    if b.arrived ≠ [] ∧ b.resv = [] ∧ (m.participants bar b).all (fun l => nhas b.arrived l.key) ∧ b.performed m then
      m.setBar bar b.nextPhase
    else m))

/-! ### Tile control (R294-R301) -/

def engMask (mask : BitVec 4) (e : Eng) : Bool := mask.getLsbD e.code.toNat

/-- FORK (R142, R295). -/
def execFork (tmpl : BitVec 4) (s : State) : Host.Outcome State Fault Refusal :=
  s.tileCtl (.fork tmpl) (fun m t _ =>
    match m.kernelOf t with
    | none => .trap .arg
    | some k =>
      match k.tmpls[tmpl.toNat]? with
      | none => .trap .arg
      | some x =>
        if x.prime then .trap .arg
        else
          let e := Eng.ofCode x.eng
          let st := ((m.ctx t).chain e).st
          if st = .running ∨ st = .parked then .trap .busy
          else .done (m.modCtx t (fun c => c.startChain e (k.firstBlock tmpl.toNat))))

/-- JOIN (R142, R296). -/
def execJoin (mask : BitVec 4) (s : State) : Host.Outcome State Fault Refusal :=
  s.tileCtl (.join mask) (fun m t _ =>
    let ok := fun (e : Eng) =>
      let st := ((m.ctx t).chain e).st
      !engMask mask e || st = .ended || st = .idle
    if ok .ld && ok .mx && ok .vx && ok .st then .done m else .wait m)

/-- SEMW (R146, R297). -/
def execSemw (a : Reg) (sem : BitVec 5) (s : State) : Host.Outcome State Fault Refusal :=
  s.tileCtl (.semw a sem) (fun m t _ =>
    let v := ((m.thr t).rd a).toNat
    if 65535 < v then .trap .arg else .done (m.modCtx t (fun c => c.setSem sem (BitVec.ofNat 16 v))))

/-- SEMR (R146, R297). -/
def execSemr (d : Reg) (sem : BitVec 5) (s : State) : Host.Outcome State Fault Refusal :=
  s.tileCtl (.semr d sem) (fun m t _ =>
    .done (m.modThr t (fun th => th.wr d (((m.ctx t).sem sem).setWidth 64))))

/-- RCWW (R251, R252, R298). -/
def execRcww (a : Reg) (ring : BitVec 4) (s : State) : Host.Outcome State Fault Refusal :=
  s.tileCtl (.rcww a ring) (fun m t _ =>
    let th := m.thr t
    let d0 := th.rd a
    let d1 := th.rd (a + 1)
    if ringBad d0 d1 then .trap .arg
    else if (m.ctx t).named (m.chareaOf t) 2 ring.toNat then .trap .busy
    else .done (m.modCtx t (fun c => c.setRing ring.toNat (Ring.ofWords d0 d1))))

/-- RCWR (R298): the words as stored. -/
def execRcwr (d : Reg) (ring : BitVec 4) (s : State) : Host.Outcome State Fault Refusal :=
  s.tileCtl (.rcwr d ring) (fun m t _ =>
    let r := (m.ctx t).ring ring.toNat
    .done (m.modThr t (fun th =>
      (th.wr d r.d0).wr (d + 1) r.d1)))

/-- LAYW (R163, R299). -/
def execLayw (a : Reg) (win : BitVec 6) (s : State) : Host.Outcome State Fault Refusal :=
  s.tileCtl (.layw a win) (fun m t _ =>
    let th := m.thr t
    let w : Window := ⟨th.rd a, th.rd (a + 1), th.rd (a + 2), th.rd (a + 3)⟩
    if layBad w (m.chareaOf t) then .trap .arg
    else if (m.ctx t).named (m.chareaOf t) 1 win.toNat then .trap .busy
    else .done (m.modCtx t (fun c => { c with wins := tput Window.off c.wins win.toNat w })))

/-- LAYR (R299). -/
def execLayr (d : Reg) (win : BitVec 6) (s : State) : Host.Outcome State Fault Refusal :=
  s.tileCtl (.layr d win) (fun m t _ =>
    let w := (m.ctx t).win win.toNat
    .done (m.modThr t (fun th => (((th.wr d w.d0).wr (d + 1) w.d1).wr (d + 2) w.d2).wr (d + 3) w.d3)))

/-- ACFG (R143, R144, R300): the words of the entries it zeroes are encoded anew (R13). -/
def execAcfg (a : Reg) (acc : BitVec 6) (s : State) : Host.Outcome State Fault Refusal :=
  s.tileCtl (.acfg a acc) (fun m t _ =>
    let v := (m.thr t).rd a
    let c := m.ctx t
    if c.acfgBad acc.toNat v then .trap .arg
    else if c.mx.st = .running || c.mx.st = .parked || c.reserved acc.toNat then .trap .busy
    else .done ((if accV v then m.eccWrites t [] (tileEntries v) else m).modCtx t (fun c => c.acfgWrite acc.toNat v)))

/-- EVWAIT (R301). -/
def execEvwait (d a : Reg) (s : State) : Host.Outcome State Fault Refusal :=
  s.tileCtl (.evwait d a) (fun m t _ =>
    let th := m.thr t
    let mask := th.rd a
    if mask = 0 ∨ 256 ≤ mask.toNat then .trap .arg
    else
      let got := th.kevt &&& mask.setWidth 8
      if got = 0 then .wait m
      else .done (m.setThr t (({ th with kevt := th.kevt &&& ~~~got }).wr d (got.setWidth 64))))

/-- WFE (R301): any pending event or asynchronous trap ends it. -/
def execWfe (s : State) : Host.Outcome State Fault Refusal :=
  s.checked .wfe (fun m t =>
    let th := m.thr t
    if th.kevt ≠ 0 ∨ th.asyncs ≠ [] then .done m else .wait m)

/-! ### Gangline and tickets (R221-R224, R302-R304) -/

/-- A landing handle (R220). -/
def landingHandle (acc epoch sem amt bk bn remain : Nat) : Dword :=
  BitVec.ofNat 64 (2 ^ 63 + 2 ^ 62 + acc % 64 * 2 ^ 56 + epoch % 256 * 2 ^ 48 + sem % 32 * 2 ^ 43 + amt % 16 * 2 ^ 39 +
    bk % 4 * 2 ^ 37 + bn % 16 * 2 ^ 33 + remain % 2 ^ 30)

/-- A send-handle value (R220). -/
def sendHandle (t : TileId) (lh epoch : Nat) (cfg : Dword) : Dword :=
  BitVec.ofNat 64 (2 ^ 63 + t.toNat * 2 ^ 40 + lh % 8 * 2 ^ 37 + epoch % 256 * 2 ^ 29 + bits cfg.toNat 42 32 * 2 ^ 18 +
    accNRow cfg % 128 * 2 ^ 11 + accNCol cfg % 128 * 2 ^ 4)

/-- A completion line other than none, as R221's BK names it: 1 cluster, 2 die, 3 package. -/
def lineBar (t : TileId) (slot bk bn : Nat) : BarId :=
  barOf t slot (BitVec.ofNat 2 (bk - 1)) (BitVec.ofNat 4 bn)

/-- GLSET (R221, R302). -/
def execGlset (d a : Reg) (hdl : BitVec 3) (s : State) : Host.Outcome State Fault Refusal :=
  s.tileCtl (.glset d a hdl) (fun m t u =>
    let v := ((m.thr t).rd a).toNat
    let n := bits v 5 0
    let sem := bits v 10 6
    let amt := bits v 14 11
    let bk := bits v 16 15
    let bn := bits v 20 17
    let count := bits v 47 32
    let c := m.ctx t
    let cfg := c.accCfg n
    let h := c.handle hdl
    let bar := lineBar t u.slot bk bn
    let b := m.bar bar
    if bits v 31 21 ≠ 0 ∨ bits v 63 48 ≠ 0 ∨ (amt = 0 ∧ sem ≠ 0) ∨ (bk = 0 ∧ bn ≠ 0) then .trap .arg
    else if !accV cfg ∨ count = 0 ∨ (bk = 3 ∧ 7 < bn) ∨ (bk = 1 ∧ 2 * m.slotSize t u ≤ bn) then .trap .arg
    else if h.getLsbD 63 || c.reserved n then .trap .busy
    else if 2 ≤ bk ∧ b.owned ∧ b.owner ≠ u.lid then .trap .busy
    else
      let ep := (bits h.toNat 55 48 + 1) % 256
      let lh := landingHandle n ep sem amt bk bn (count * (accNRow cfg + 1) * (accNCol cfg + 1))
      let m := m.modCtx t (fun c => c.setHandle hdl lh)
      let m := if bk = 0 then m
        else m.setBar bar { b with owned := true, owner := if b.owned then b.owner else u.lid, resv := b.resv ++ [(partKey t.cluster u.slot u.pos, hdl)] }
      .done (m.modThr t (fun th => th.wr d (sendHandle t hdl.toNat ep cfg))))

/-- Is a send handle in use by the tile's MX chain, RUNNING or (with `parked`) PARKED. -/
def Ctx.handleInUse (c : Ctx) (hdl : BitVec 3) (parked : Bool) : Bool :=
  (c.mx.st = .running || (parked && c.mx.st = .parked)) &&
    (match c.mx.latched with
     | some (.mxGlsend b) => b.d15.extractLsb' 0 3 = hdl
     | _ => false)

/-- A reservation ends: no barrier phase waits for it any longer (R223, R228). -/
def Mach.dropResv (m : Mach) (key : Nat) (hdl : BitVec 3) : Mach :=
  m.bars.foldl (fun m p =>
    if p.2.resv.contains (key, hdl) then m.setBar p.1 { p.2 with resv := p.2.resv.filter (· ≠ (key, hdl)) } else m) m

/-- GLCLR (R223, R303). -/
def execGlclr (hdl : BitVec 3) (s : State) : Host.Outcome State Fault Refusal :=
  s.tileCtl (.glclr hdl) (fun m t u =>
    let c := m.ctx t
    let h := c.handle hdl
    if !h.getLsbD 63 then .done m
    else if landing h then .done ((m.modCtx t (fun c => c.setHandle hdl (setBits h 63 63 0))).dropResv (partKey t.cluster u.slot u.pos) hdl)
    else if c.handleInUse hdl true then .trap .busy
    else .done (m.modCtx t (fun c => c.setHandle hdl (setBits h 63 63 0))))

/-- A source no longer waits on its fault record (R175). -/
def Mach.resolve (m : Mach) (p : PartId) (seq : Nat) : Mach :=
  m.modFq p (fun q => { q with waits := q.waits.filter (fun w => w.1 ≠ seq) })

/-- GLRET (R224, R227, R303): a chain parked on GL.ABSENT through the handle resumes with the new value. -/
def execGlret (a : Reg) (hdl : BitVec 3) (s : State) : Host.Outcome State Fault Refusal :=
  s.tileCtl (.glret a hdl) (fun m t _ =>
    let v := (m.thr t).rd a
    let c := m.ctx t
    if v.getLsbD 62 || bits v.toNat 3 0 ≠ 0 then .trap .arg
    else if landing (c.handle hdl) || c.handleInUse hdl false then .trap .busy
    else
      let v := setBits v 61 61 0
      let m := m.modCtx t (fun c => c.setHandle hdl v)
      if c.handleInUse hdl true && c.mx.cause = Cause.glAbsent.code then
        let p := m.partOf t
        let m := ((m.fq p).waits.filter (fun w => BitVec.ofNat 32 w.1 = c.mx.pseq)).foldl (fun m w => m.resolve p w.1) m
        .done (m.modChain t .mx (fun x => { x with st := .running, cause := 0, pseq := 0, glh := if x.glh = 0 then 0 else v, outst := (0, 0) }))
      else .done m)

/-- The ticket counter of the thread's launch (R95, R304). -/
def Mach.ticketOf (m : Mach) (t : TileId) (u : Sup) (k : Dword) : Option Ticket :=
  if 15 < k.toNat then none
  else match tget none (m.die t.die).tickets k.toNat with
    | some x => if x.lid = u.lid then some x else none
    | none => none

/-- TKPULL (R97, R304): the thread waits for its round; once it has its value, the instruction completes. -/
def execTkpull (d a : Reg) (s : State) : Host.Outcome State Fault Refusal :=
  s.tileCtl (.tkpull d a) (fun m t u =>
    let th := m.thr t
    match th.pull with
    | .given e v => .done (m.setThr t (({ th with pull := .none }).wr e v))
    | _ =>
      match m.ticketOf t u (th.rd a) with
      | none => .trap .arg
      | some _ => .wait (m.setThr t { th with pull := .waiting ((th.rd a).setWidth 4) d }))

/-- TKSTAT (R304): NEXT × 2^32 + (END − NEXT). -/
def execTkstat (d a : Reg) (s : State) : Host.Outcome State Fault Refusal :=
  s.tileCtl (.tkstat d a) (fun m t u =>
    match m.ticketOf t u ((m.thr t).rd a) with
    | none => .trap .arg
    | some k => .done (m.modThr t (fun th => th.wr d (BitVec.ofNat 64 (k.next * 2 ^ 32 + (k.stop - k.next))))))

/-- The waiting WAITSIG packets of a partition whose signals satisfy a test. -/
def Mach.waitingOf (m : Mach) (p : PartId) (f : WaitBody → Bool) : NSet :=
  m.works.filterMap (fun w => match w.2 with
    | some x => (match x.pkt with
      | .waitsig _ b => if x.part = p && f b then some w.1 else none
      | _ => none)
    | none => none)

/-- SIGNOTE (R305): the WAITSIG packets of the partition are to be evaluated, those that name the signal at A first. -/
def execSignote (a : Reg) (s : State) : Host.Outcome State Fault Refusal :=
  .next (s.onM (fun m =>
    let t := s.turn.thread
    let p := m.partOf t
    let va := ((m.thr t).rd a).toNat
    let names := fun (b : WaitBody) => decide (va ≠ 0) && [b.sig0, b.sig1, b.sig2, b.sig3].any (fun x => decide (x.toNat = va))
    let m := { m with evalDue := (m.waitingOf p (fun _ => true)).foldl (fun (s : NSet) w => nins w s) m.evalDue,
                      noteFirst := (m.waitingOf p names).foldl (fun (s : NSet) w => nins w s) m.noteFirst }
    m.modThr t (fun th => th.finish (th.pc + 4))))

/-! ### System registers (R306-R312) -/

/-- An event source a tile counter, or a die counter, can select (R157). -/
def tileSel (v : Nat) : Bool := decide (v ≤ 0x0F)
def dieSel (v : Nat) : Bool := v = 0 || v = 1 || v = 0x0E || v = 0x0F || decide (0x20 ≤ v ∧ v ≤ 0x27)

def engAt (k : Nat) : Eng := Eng.ofCode (BitVec.ofNat 2 k)

/-- Level and value of a system-register read (R307): none where the number is not in the map. -/
def Mach.sysRead (m : Mach) (t : TileId) (k : Nat) : Option (Nat × Dword) :=
  let th := m.thr t
  let c := m.ctx t
  let y := m.die t.die
  match k with
  | 0x000 => some (0, th.kstat)
  | 0x001 => some (1, th.kepc)
  | 0x002 => some (1, th.kcause)
  | 0x003 => some (1, th.ktval)
  | 0x004 => some (2, th.ktvec)
  | 0x005 => some (2, th.kscratch)
  | 0x008 => some (0, th.kcap.setWidth 64)
  | 0x009 => some (0, th.kevt.setWidth 64)
  | 0x00A => some (0, BitVec.ofNat 64 (t.cluster.toNat * 2 ^ 11 + t.num.toNat * 2 ^ 8 + t.toNat))
  | 0x00B => some (0, m.time)
  | 0x010 => some (1, th.ktdbg)
  | _ =>
    if 0x011 ≤ k ∧ k ≤ 0x014 then some (1, tget 0 th.kbpa (k - 0x011))
    else if 0x020 ≤ k ∧ k ≤ 0x023 then some (0, ((c.chain (engAt (k - 0x020))).flags).setWidth 64)
    else if 0x040 ≤ k ∧ k ≤ 0x047 then some (0, tget 0 c.tec (k - 0x040))
    else if 0x048 ≤ k ∧ k ≤ 0x04F then some (0, (tget 0 c.tes (k - 0x048)).setWidth 64)
    else if 0x080 ≤ k ∧ k ≤ 0x09F then some (1, tget 0 y.dec (k - 0x080))
    else if 0x0A0 ≤ k ∧ k ≤ 0x0BF then some (1, (tget 0 y.des (k - 0x0A0)).setWidth 64)
    else none

/-- The lowest level that may write a register (R307); none: no privilege may. -/
def sysWriteLevel (k : Nat) : Option Nat :=
  if k ≤ 0x005 then some 2
  else if k = 0x009 then some 0
  else if 0x010 ≤ k ∧ k ≤ 0x014 then some 1
  else if 0x020 ≤ k ∧ k ≤ 0x04F then some 0
  else if 0x080 ≤ k ∧ k ≤ 0x0BF then some 1
  else none

/-- A SYSW that traps MU.ARG: a non-zero reserved bit, or 3 in PPL (R306, R308-R312). -/
def sysWriteBad (k : Nat) (v : Dword) : Bool :=
  let n := v.toNat
  if k = 0x000 then
    bits n 63 16 ≠ 0 || bits n 9 9 ≠ 0 || bits n 7 6 ≠ 0 || bits n 3 2 ≠ 0 || bits n 5 4 = 3
  else if k = 0x002 then bits n 63 16 ≠ 0 || bits n 14 9 ≠ 0
  else if k = 0x009 then bits n 63 8 ≠ 0 || bits n 3 3 ≠ 0
  else if k = 0x010 then bits n 63 2 ≠ 0
  else if 0x011 ≤ k ∧ k ≤ 0x014 then bits n 63 56 ≠ 0 || bits n 1 1 ≠ 0
  else if 0x020 ≤ k ∧ k ≤ 0x023 then bits n 63 9 ≠ 0
  else if (0x048 ≤ k ∧ k ≤ 0x04F) ∨ (0x0A0 ≤ k ∧ k ≤ 0x0BF) then bits n 63 8 ≠ 0
  else false

/-- The effect of a SYSW (R306-R312). -/
def Mach.sysWrite (m : Mach) (t : TileId) (k : Nat) (v : Dword) : Mach :=
  match k with
  | 0x000 => m.modThr t (fun th =>
      { th with kstat := setBits (setBits th.kstat 15 10 (bits v.toNat 15 10)) 5 4 (bits v.toNat 5 4) })
  | 0x001 => m.modThr t (fun th => { th with kepc := v &&& ~~~3 })
  | 0x002 => m.modThr t (fun th => { th with kcause := v })
  | 0x003 => m.modThr t (fun th => { th with ktval := v })
  | 0x004 => m.modThr t (fun th => { th with ktvec := v &&& ~~~3 })
  | 0x005 => m.modThr t (fun th => { th with kscratch := v })
  | 0x009 => m.modThr t (fun th => { th with kevt := th.kevt &&& ~~~(v.setWidth 8) })
  | 0x010 => m.modThr t (fun th => { th with ktdbg := v })
  | _ =>
    if 0x011 ≤ k ∧ k ≤ 0x014 then m.modThr t (fun th => { th with kbpa := tput 0 th.kbpa (k - 0x011) v })
    else if 0x020 ≤ k ∧ k ≤ 0x023 then
      m.modChain t (engAt (k - 0x020)) (fun c => { c with flags := c.flags &&& ~~~(v.setWidth 16) })
    else if 0x040 ≤ k ∧ k ≤ 0x047 then m.modCtx t (fun c => { c with tec := tput 0 c.tec (k - 0x040) v })
    else if 0x048 ≤ k ∧ k ≤ 0x04F then
      m.modCtx t (fun c =>
        let sel : Byte := if tileSel v.toNat then v.setWidth 8 else 0
        { c with tes := tput 0 c.tes (k - 0x048) sel })
    else if 0x080 ≤ k ∧ k ≤ 0x09F then m.modDie t.die (fun y => { y with dec := tput 0 y.dec (k - 0x080) v })
    else
      m.modDie t.die (fun y =>
        let sel : Byte := if dieSel v.toNat then v.setWidth 8 else 0
        { y with des := tput 0 y.des (k - 0x0A0) sel })

/-- SYSR (R306, R307). -/
def execSysr (d : Reg) (k : BitVec 12) (s : State) : Host.Outcome State Fault Refusal :=
  s.checked (.sysr d k) (fun m t =>
    match m.sysRead t k.toNat with
    | none => .trap .illegal
    | some (lvl, v) =>
      if (m.thr t).pl.toNat < lvl then .trap .priv else .done (m.modThr t (fun th => th.wr d v)))

/-- SYSW (R306, R307). -/
def execSysw (a : Reg) (k : BitVec 12) (s : State) : Host.Outcome State Fault Refusal :=
  s.checked (.sysw a k) (fun m t =>
    let th := m.thr t
    let v := th.rd a
    match m.sysRead t k.toNat with
    | none => .trap .illegal
    | some _ =>
      match sysWriteLevel k.toNat with
      | none => .trap .priv
      | some lvl =>
        if th.pl.toNat < lvl then .trap .priv
        else if sysWriteBad k.toNat v then .trap .arg
        else .done (m.sysWrite t k.toNat v))

/-! ### Traps and return (R313-R315) -/

/-- TRAP (R313): completes, then MU.TRAP with KEPC at the next instruction. -/
def execTrap (imm : BitVec 16) (s : State) : Host.Outcome State Fault Refusal :=
  let t := s.turn.thread
  .next (s.onM (fun m =>
    m.takeTrap t Cause.trap.code false false (imm.setWidth 64) ((m.thr t).pc + 4) default))

/-- ERET (R154, R314): MU.PRIV below F. -/
def execEret (s : State) : Host.Outcome State Fault Refusal :=
  let t := s.turn.thread
  .next (s.onM (fun m => if (m.thr t).pl.toNat < 2 then m.trapWord t .priv .eret else m.modThr t Thread.eret))

/-- BRK (R315): MU.BRK at its own address; it does not complete. -/
def execBrk (s : State) : Host.Outcome State Fault Refusal :=
  let t := s.turn.thread
  .next (s.onM (fun m => m.trapAt t .brk (m.thr t).pc))

end Sys2Proof.Machine
end

