-- ==== Sys2Proof/Machine/Seq.lean ====
section
/-! DEFINITION. The sequencers (R141, R145, R146, R246, R247, R318-R328): chain faults and parking, latching, the waits of
a step, its issue, the signals that follow it, the MX replay window (R131-R135), and the sequencer operators. -/
namespace Sys2Proof.Machine

/-! ### Faults and parking (R141, R155, R174) -/

/-- KTVAL of a chain fault: block in [15:0], engine in [17:16] (R155). -/
def chainTval (e : Eng) (j : Nat) : Dword := BitVec.ofNat 64 (e.code.toNat * 2 ^ 16 + j % 2 ^ 16)

/-- The engine of a trap that a chain fault of this cycle has raised; a completion's names no block (R155). -/
def ATrap.engAt (a : ATrap) (now : Dword) : Option Nat :=
  if a.src && a.time = now && bits a.tval.toNat 15 0 ≠ 0xFFFF then some (bits a.tval.toNat 17 16) else none

/-- The trap of a chain fault joins those pending; of several chains that fault in one cycle the lowest engine is reported (R155). -/
def addFault (l : List ATrap) (a : ATrap) : List ATrap :=
  match l.findSome? (fun b => b.engAt a.time) with
  | none => l ++ [a]
  | some e => if bits a.tval.toNat 17 16 < e then l.map (fun b => if b.engAt a.time = some e then a else b) else l

/-- A chain faults: it and the tile's other chains stop, and the supervising thread has an asynchronous trap to take
(R138, R141, R155). -/
def Mach.chainFault (m : Mach) (t : TileId) (e : Eng) (j : Nat) (c : Cause) : Mach :=
  let m := m.modChain t e (fun x => { x with st := .faulted, cause := c.code, pseq := 0 })
  let m := m.modCtx t Ctx.stopChains
  m.modThr t (fun th => { th with asyncs := addFault th.asyncs ⟨c.code, true, chainTval e j, 0, m.time⟩ })

/-- The chain has been stopped by the fault of another chain of the tile in this very cycle: a fault of its own would come with it. -/
def Mach.stoppedNow (m : Mach) (t : TileId) (e : Eng) : Bool :=
  let x := (m.ctx t).chain e
  x.st = .faulted && x.cause = 0 && (m.thr t).asyncs.any (fun a => (a.engAt m.time).isSome)

/-- A move of a chain. One that a fault of this cycle has stopped makes its move of the cycle only if that is a fault, which its state
records (R155). -/
def Mach.inCycle (m : Mach) (t : TileId) (e : Eng) (move : Mach → Mach) : Mach :=
  if m.stoppedNow t e then
    let m' := move (m.modChain t e (fun x => { x with st := .running }))
    let y := (m'.ctx t).chain e
    if y.st = .faulted && y.cause ≠ 0 then m' else m
  else move m

/-- A chain parks at its step, and its record is posted (R141, R174, R175). -/
def Mach.chainPark (m : Mach) (t : TileId) (e : Eng) (c : Cause) (va : Dword) (acc : Nat) (w : WalkFail) : Mach :=
  let p := m.partOf t
  let seq := m.nextSeq p
  let x := (m.ctx t).chain e
  let b := (m.tile t).bind
  let m := m.modChain t e (fun x => { x with st := .parked, cause := c.code, pseq := BitVec.ofNat 32 seq })
  m.post p { va := va.toNat, lid := (b.map (fun b => b.lid.toNat)).getD 0,
             item := ((b.bind (fun b => b.item)).map (·.toNat)).getD 0, code := c.code.toNat, tile := t.toNat,
             thread := t.num.toNat, src := 0, eng := e.code.toNat, acc := acc, block := x.cur, reason := w.reason, level := w.level,
             aux := w.aux } (.chain t e)

/-- The MX chain parks on an absent destination (R227): its thread's KEVT bit is set, and the record posted. -/
def Mach.glPark (m : Mach) (t : TileId) : Mach :=
  (m.modThr t (fun th => { th with kevt := th.kevt ||| 2 })).chainPark t .mx .glAbsent 0 0 ⟨0, 0, 0, 0⟩

/-! ### Semaphores (R145, R146) -/

/-- Add a signal; one that would pass 65,535 is not applied: false. -/
def Ctx.signal (c : Ctx) (s : BitVec 5) (amt : Nat) : Ctx × Bool :=
  let n := (c.sem s).toNat + amt
  if 65535 < n then (c, false) else (c.setSem s (BitVec.ofNat 16 n), true)

/-- Give signals in turn; false if any would overflow. -/
def Ctx.signals (c : Ctx) (l : List (BitVec 5 × Nat)) : Ctx × Bool :=
  l.foldl (fun acc x => let (c, ok) := acc.1.signal x.1 x.2; (c, acc.2 && ok)) (c, true)

/-- Is every wait of a group satisfied together: two waits on one semaphore need the sum. -/
def Ctx.enough (c : Ctx) (l : List (BitVec 5 × Nat)) : Bool :=
  l.all (fun x => decide (((l.filter (fun y => y.1 = x.1)).map (·.2)).foldl (· + ·) 0 ≤ (c.sem x.1).toNat))

def Ctx.take (c : Ctx) (l : List (BitVec 5 × Nat)) : Ctx :=
  l.foldl (fun c x => c.setSem x.1 (c.sem x.1 - BitVec.ofNat 16 x.2)) c

/-- The waits of `n` iterations of level AT. -/
def waitsOf (b : Block) (n : Nat) : List (BitVec 5 × Nat) :=
  if n = 0 then []
  else
    (if b.w1.amt = 0 then [] else [(b.w1.sem, n * b.w1.amt.toNat)]) ++
    (if b.w2.amt = 0 then [] else [(b.w2.sem, n * b.w2.amt.toNat)])

/-- The signals of `n` iterations of level AT, one by one. -/
def signalsOf (b : Block) (n : Nat) : List (BitVec 5 × Nat) :=
  (List.replicate n ((if b.s1.amt = 0 then [] else [(b.s1.sem, b.s1.amt.toNat)]) ++
    (if b.s2.amt = 0 then [] else [(b.s2.sem, b.s2.amt.toNat)]))).flatten

/-! ### What a step covers (R104, R324, R339, R352, R366) -/

structure Plan where
  its : List Ix
  cyc : Nat
  next : Option Ix
  /-- iterations of level AT the step begins and ends (R145) -/
  begins : Nat
  ends : Nat

def blockIx (c : Chain) : Ix := (c.i0, c.i1, c.i2, c.i3)

def zeroBound (b : Block) : Bool := b.b0 = 0 || b.b1 = 0 || b.b2 = 0 || b.b3 = 0

/-- Rows of a step of `mx.mma`, and issue cycles per row (R352). -/
def mmaRate (wide dup : Bool) : Nat × Nat :=
  if wide && dup then (16, 4) else if wide || dup then (32, 2) else (64, 1)

/-- Elements of an accumulator tile. -/
def tileSize (cfg : Dword) : Nat := (accNRow cfg + 1) * (accNCol cfg + 1)

/-- Elements each operand position of a step moves through a ring: ring, produced or consumed, and how many. A sequencer operator
moves none (R249, R324-R328). -/
def ringMoves (code : Nat) (b : Block) (n : Nat) : List (Nat × Bool × Nat) :=
  if 0xF0 ≤ code % 256 then [] else
  let klen := bits b.d15.toNat 17 8 + 1
  let one := fun (o : Operand) (prod : Bool) (k : Nat) => if o.kind = 2 then [(o.index.toNat, prod, k)] else []
  let n1 := if code = 0x103 then n * klen else n
  let n2 := if code = 0x103 then n * cdiv klen 128 else n
  let l := one b.op0 true n ++ one b.op1 false n1 ++ one b.op2 false n2 ++ one b.op3 false n
  l.foldl (fun acc x =>
    if acc.any (fun y => y.1 = x.1 && y.2.1 = x.2.1) then
      acc.map (fun y => if y.1 = x.1 && y.2.1 = x.2.1 then (y.1, y.2.1, y.2.2 + x.2.2) else y)
    else acc ++ [x]) []

/-- Slots whose first element, and slots whose last element, lie among `n` elements from element `e` on (R321). -/
def slotsOpened (e n cap : Nat) : Nat := cdiv (e + n) cap - (if e = 0 then 0 else 1)
def slotsClosed (e n cap : Nat) : Nat := (e + n) / cap

/-- The ring waits of a step (R321); none: a step that needs more slots than the ring has. -/
def Ctx.ringTakes (c : Ctx) (mv : List (Nat × Bool × Nat)) : Option (List (BitVec 5 × Nat)) :=
  mv.foldl (fun acc x =>
    match acc with
    | none => none
    | some l =>
      let r := c.ring x.1
      let k := slotsOpened (if x.2.1 then r.tail.2 else r.head.2) x.2.2 (ringCap r)
      if x.2.2 = 0 ∨ k = 0 then some l
      else if ringNslot r < k then none
      else some (l ++ [(if x.2.1 then ringFree r else ringFull r, k)])) (some [])

/-- The number of the block's step of 64 elements that begins at `i`, from 0. -/
def stepNo (b : Block) (i : Ix) : Nat :=
  ((i.2.2.2 * b.b2.toNat + i.2.2.1) * b.b1.toNat + i.2.1) * cdiv b.b0.toNat 64 + i.1 / 64

/-- The step a latched block takes next, from loop indices `i`. Two bf16 steps of VX are one issue group (R366), taken as
one; where their rings have too few slots for both, the second follows the first in the same issue cycle (log 113). -/
def Mach.stepPlan (m : Mach) (t : TileId) (code : Nat) (b : Block) (i : Ix) : Plan :=
  let c := m.ctx t
  let plain := fun (n cyc : Nat) =>
    let its := runIters b i n
    (⟨its, cyc, nextIter b i its.length, beginsAt b its, endsAt b its⟩ : Plan)
  let flat := fun (cyc : Nat) =>
    let total := tileSize (c.accCfg (if code = 0x108 then b.op1.index.toNat else b.op0.index.toNat))
    let last := decide (total ≤ i.1 + 64)
    (⟨[], cyc, if last then none else some (i.1 + 64, 0, 0, 0), b2n (i.1 = 0), b2n last⟩ : Plan)
  let opn := code % 256
  if opn = 0xF0 then plain 1 1
  else if 0xF0 ≤ opn then ⟨[i], 1, none, 1, 1⟩
  else if code = 0x101 ∨ code = 0x102 then
    let rows := Nat.min 64 (b.b1.toNat - i.2.1)
    let its := ((List.range rows).map (fun r => (List.range b.b0.toNat).map (fun k => (k, i.2.1 + r, 0, 0)))).flatten
    ⟨its, rows, if i.2.1 + rows < b.b1.toNat then some (0, i.2.1 + rows, 0, 0) else none, beginsAt b its, endsAt b its⟩
  else if code = 0x103 then
    let f := rdFmt m t b.op1
    let (rows, per) := mmaRate (f = 2 || f = 3) b.dup
    let p := plain rows 1
    { p with cyc := per * p.its.length }
  else if code = 0x108 then flat 8
  else if code = 0x109 then flat 1
  else if code / 256 = 1 then plain 64 1
  else if code / 256 = 2 then
    let f := if code = 0x22B ∨ code = 0x262 then wrFmt m t b.op0 else rdFmt m t b.op1
    let ma := if b.ma then 2 else 1
    if code = 0x20C then plain 64 (4 * ma)
    else
      let p := plain 64 ma
      if f = 2 && !b.ma then
        if stepNo b i % 2 = 1 then { p with cyc := 0 }
        else
          match p.next with
          | none => p
          | some i' =>
            let its := runIters b i' 64
            if (c.ringTakes (ringMoves code b (p.its.length + its.length))).isNone then p
            else ⟨p.its ++ its, 1, nextIter b i' its.length, p.begins + beginsAt b its, p.ends + endsAt b its⟩
      else p
  else
    let p := plain 64 1
    let f := if code / 256 = 3 then rdFmt m t b.op1 else wrFmt m t b.op0
    if code = 0x005 then p else { p with cyc := Nat.max 1 (cdiv (p.its.length * fmtWidth f) 2048) }

/-- The ring signals of a step (R321), with the mark of a consumed slot's FREE. -/
def Ctx.ringGives (c : Ctx) (mv : List (Nat × Bool × Nat)) : List (BitVec 5 × Nat × Bool) :=
  mv.filterMap (fun x =>
    let r := c.ring x.1
    let k := slotsClosed (if x.2.1 then r.tail.2 else r.head.2) x.2.2 (ringCap r)
    if k = 0 then none else some (if x.2.1 then ringFull r else ringFree r, k, !x.2.1))

/-! ### The MX replay window (R131-R135) -/

/-- The signals deferred to the window's end. -/
def Ctx.deferred (c : Ctx) : List (BitVec 5 × Nat) := c.ext.defer.map (fun p => (BitVec.ofNat 5 p.1, p.2))

/-- Signals added up by semaphore. -/
def addSigs (l new : List (BitVec 5 × Nat)) : List (BitVec 5 × Nat) :=
  new.foldl (fun l x => if l.any (fun y => y.1 = x.1) then l.map (fun y => if y.1 = x.1 then (y.1, y.2 + x.2) else y) else l ++ [x]) l

/-- A new window starts: what the plane holds comes from before it (R347). -/
def Plane.newWindow (p : Plane) : Plane := { p with held := addSigs p.held p.heldWin, heldWin := [] }

def Chain.point (x : Chain) : Point := ⟨x.cur, (x.i0, x.i1, x.i2, x.i3), x.loops⟩

/-- A window starts at block `j` (R131): deferred signals are issued; false if one overflows. A drain under way goes on in it from here
(R134). -/
def Ctx.windowStart (c : Ctx) (j : Nat) : Ctx × Bool :=
  let (c, ok) := c.signals c.deferred
  let x := c.mx
  let drain := match x.latched with
    | some (.mxAread b) => some (x.point, (c.ring b.op0.index.toNat).tail)
    | some (.mxAdrain b) => some (x.point, (c.ring b.op0.index.toNat).tail)
    | _ => c.ext.drainAt
  ({ c with mx := { x with hist := x.hist.map (fun h => { h with win := false }) }
            ext := { c.ext with
      tsblk := BitVec.ofNat 12 j, win0 := (x.i0, x.i1, x.i2, x.i3), winIssue := x.issue, winLoops := x.loops, winAcfg := c.acfg, repl := false, glb := false,
      writ := [], init := [], defer := [], ringHeads := c.rings.map (fun p => (p.1, p.2.head)), replaying := none,
      drainAt := drain, winWithheld := c.ext.withheld, winDrained := c.ext.drained,
      p0 := c.ext.p0.newWindow, p1 := c.ext.p1.newWindow, winP0 := c.ext.p0, winP1 := c.ext.p1 } }, ok)

def Ctx.defer1 (c : Ctx) (l : List (BitVec 5 × Nat)) : Ctx :=
  l.foldl (fun c x => { c with ext := { c.ext with defer := tmod 0 c.ext.defer x.1.toNat (· + x.2) } }) c

def MxExt.plane (x : MxExt) (n : Nat) : Plane := if n = 0 then x.p0 else x.p1
def MxExt.setPlane (x : MxExt) (n : Nat) (p : Plane) : MxExt := if n = 0 then { x with p0 := p } else { x with p1 := p }

/-- A plane is released (R347): its held signals go, and those of the present window are deferred with it. -/
def Ctx.releasePlane (c : Ctx) (n : Nat) : Ctx × Bool :=
  let p := c.ext.plane n
  ({ c with ext := c.ext.setPlane n { p with held := [], heldWin := [] } }.defer1 p.heldWin).signals p.held

/-- Is the window replayable (R132, R351): every tile written was initialised whole in it, nothing has been sent, and no
error replayed. -/
def Ctx.replayable (c : Ctx) : Bool :=
  !c.ext.repl && !c.ext.glb && c.ext.writ.all (fun n =>
    let cfg := c.accCfg n
    (List.range (accNRow cfg + 1)).all (fun r => (List.range (accNCol cfg + 1)).all (fun k =>
      nhas c.ext.init (entryAt (accRow0 cfg + r) (accCol0 cfg + k)))))

/-- The accumulator file as it stood at the window's start: of each entry written in the window, the value before its first write
there. The replay initialises these entries anew; a read of theirs that comes too early sees what it saw at first (R134, R149). -/
def Ctx.windowAcc (c : Ctx) : Tbl AqEntry :=
  c.mx.hist.foldr (fun h t => match h.loc with
    | .acc e => if h.win then tput AqEntry.zero t e h.oldAcc else t
    | .store _ => t) c.acc

/-- A half-done drain into a ring starts again where it, or its part in the window, began: the ring's tail goes back (R134). -/
def Ctx.undoDrain (c : Ctx) : Ctx :=
  match c.ext.drainAt, c.mx.latched.bind Instr.block? with
  | some (_, tl), some (_, b) =>
    if b.op0.kind = 2 then c.setRing b.op0.index.toNat { (c.ring b.op0.index.toNat) with tail := tl } else c
  | _, _ => c

/-- The chain goes back to the window's start (R134): ring read positions, loop counters, issue count, anchors and planes are as they
were then, and what the window wrote into the accumulator file is discarded. -/
def Ctx.rewind (c : Ctx) (upTo : Point) (drains : Option Point) : Ctx :=
  let c := c.undoDrain
  let x := c.mx
  let rings := c.ext.ringHeads.foldl (fun rs p =>
    tmod Ring.off rs p.1 (fun r => if r.cons = some .mx then { r with head := p.2 } else r)) c.rings
  let tiles := c.ext.writ.map c.accCfg
  let back := fun (w p : Plane) => { w with held := p.held, heldWin := [] }
  { c with
    rings := rings
    acc := c.windowAcc
    acfg := c.ext.writ.foldl (fun t n =>
      tput 0 t n (setBits (tget 0 t n) 42 32 (bits (tget 0 c.ext.winAcfg n).toNat 42 32))) c.acfg
    accPois := c.accPois.filter (fun p => !tiles.any (fun cfg => inRect cfg (p / 2)))
    mx := { x with cur := c.ext.tsblk.toNat, latched := none, phase := .waits, i0 := c.ext.win0.1, i1 := c.ext.win0.2.1,
                   i2 := c.ext.win0.2.2.1, i3 := c.ext.win0.2.2.2, wtaken := false, due := 0, dueSig := [],
                   last := false, loops := c.ext.winLoops, issue := c.ext.winIssue,
                   hist := x.hist.filter (fun h => match h.loc with | .acc _ => !h.win | .store _ => true) }
    ext := { c.ext with repl := true, writ := [], init := [], defer := [], withheld := c.ext.winWithheld,
                        drained := c.ext.winDrained, replaying := some (upTo, drains),
                        p0 := back c.ext.winP0 c.ext.p0, p1 := back c.ext.winP1 c.ext.p1 } }

/-- Where the drains begin that a replay does not skip: at the latched one, or at its part in the window, if there is one. -/
def Ctx.drainFrom (c : Ctx) : Point := (c.ext.drainAt.map (·.1)).getD ⟨c.mx.cur, (0, 0, 0, 0), c.mx.loops⟩

/-- A parity error or a mismatch of the MX engine (R133-R135): replayed, or a fault. -/
def Mach.mxError (m : Mach) (t : TileId) (c : Cause) (charges : List (Nat × Nat)) (drains : Option Point) : Mach :=
  let x := (m.ctx t).mx
  if (m.ctx t).replayable then
    let m := charges.foldl (fun m e => m.charge (tileUnit t) e.1 e.2) m
    let m := m.modCtx t (fun k => k.tileEvent 0x0D 1)
    m.modCtx t (fun k => k.rewind x.point drains)
  else (m.charge (tileUnit t) 5 32).chainFault t .mx x.cur c

/-! ### Latching (R246, R319, R350) -/

/-- Objects a block names must exist: a valid window, a configured ring, a configured accumulator tile. -/
def Ctx.objectFault (c : Ctx) (b : Block) : Option Cause :=
  let one := fun (o : Operand) =>
    if o.kind = 1 then (if (c.win o.index.toNat).v then none else some Cause.lbRange)
    else if o.kind = 2 then (if ringV (c.ring o.index.toNat) then none else some Cause.lbRing)
    else if o.kind = 3 then (if accV (c.accCfg o.index.toNat) then none else some Cause.mxAcfg)
    else none
  (one b.op0).orElse (fun _ => (one b.op1).orElse (fun _ => (one b.op2).orElse (fun _ => one b.op3)))

/-- Spaces an operator accepts at a position, as a set of space codes (R318, R342, R362). -/
def opSpaces (code k : Nat) : Nat :=
  if code = 0x001 ∨ code = 0x002 ∨ code = 0x003 then (if k = 1 then 31 else 1)
  else if code = 0x005 then (if k = 0 then 6 else 30)
  else if code = 0x301 then (if k = 0 then 31 else 1)
  else if code = 0x302 then (if k = 0 then 30 else 1)
  else if code = 0x303 then (if k = 0 then 14 else 1)
  else if code % 256 = 0xF3 then 31
  else 1

def isFp (f : Byte) : Bool := f = 1 || f = 2
def isMask (f : Byte) : Bool := f = 4 || f = 5
def isMov (f : Byte) : Bool := f = 1 || f = 2 || f = 6 || f = 8
def isKp (f : Byte) : Bool := f.extractLsb' 6 2 ≠ 0
def isB8 (f : Byte) : Bool := f.extractLsb' 6 2 = 1
def b8p1u : Byte := 0x61
def isMatrix (f : Byte) : Bool := isB8 f || f = 2 || f = 3 || f = 4 || f = 5
def cvtFmt (f : Byte) : Bool := f = 1 || f = 2 || f = 3 || f = 4 || f = 5 || f = 6 || f = 8 || isB8 f

/-- The pairings of R203. -/
def pairing (a w : Byte) : Bool :=
  (isB8 a && isB8 w) || (a = 2 && w = 2) || (a = 3 && w = 3) || ((a = 4 || a = 5) && (w = 4 || w = 5))

/-- The conversion format of `mx.aread` and `mx.adrain` (R355). -/
def drainFmt (m : Mach) (t : TileId) (b : Block) : Byte := if b.op1.fmt = 0 then wrFmt m t b.op0 else b.op1.fmt

/-- A configured window of a space its position does not accept, or read or written under an override of another width
(R244, R318). -/
def Ctx.winReserved (c : Ctx) (code : Nat) (b : Block) : Bool :=
  let win := fun (k : Nat) (o : Operand) =>
    let w := c.win o.index.toNat
    o.kind = 1 && w.v && (!tst (opSpaces code k) w.space && !((code = 0x106 || code = 0x107) && k = 0) ||
      (o.fmt ≠ 0 && fmtWidth o.fmt ≠ fmtWidth w.fmt))
  win 0 b.op0 || win 1 b.op1 || win 2 b.op2 || win 3 b.op3

/-- LB.RESERVED that depends on windows and rings as they stand (R244, R318, R329, R333, R335, R337, R355, R356). -/
def Mach.dynReserved (m : Mach) (t : TileId) (code j : Nat) (b : Block) : Bool :=
  let opn := code % 256
  let f0 := wrFmt m t b.op0
  let f1 := rdFmt m t b.op1
  let f2 := rdFmt m t b.op2
  let d := b.d15.toNat
  (m.ctx t).winReserved code b ||
  (if opn = 0xF1 then decide (j ≤ bits d 11 0)
   else if 0xF0 ≤ opn then false
   else if code = 0x001 ∨ code = 0x003 ∨ code = 0x005 ∨ code = 0x301 then fmtWidth f0 ≠ fmtWidth f1
   else if code = 0x002 ∨ code = 0x302 then fmtWidth f0 ≠ fmtWidth f1 || !(f2 = 6 || f2 = 8)
   else if code = 0x004 then decide (2 ^ fmtWidth f0 ≤ d)
   else if code = 0x303 then
     let r := bits d 2 0
     f0 ≠ f1 || !((r = 0 && f0 = 6) || (r = 1 && f0 = 1) || (r = 2 && f0 = 7) || (r = 3 && (f0 = 6 || f0 = 1)))
   else if code = 0x106 ∨ code = 0x107 then
     (b.op1.fmt ≠ 0 && fmtWidth b.op1.fmt ≠ fmtWidth f0) ||
     (code = 0x107 &&
       ((bits d 1 0 = 2 && (match decodeF bf16 (bits d 47 32), decodeF bf16 (bits d 63 48) with
          | .nan, _ => true
          | _, .nan => true
          | lo, hi => valLt hi lo)) ||
        (drainFmt m t b = 7 && (b.op2.kind ≠ 0 || b.op3.kind ≠ 0 || bits d 1 0 ≠ 0))))
   else false)

/-- VX.FMT (R363, R364). -/
def vxFmtOk (code : Nat) (f0 f1 f2 f3 : Byte) (k2 : BitVec 2) (b : Block) : Bool :=
  if code = 0x204 || code = 0x20B then isFp f0 && f1 = f0 && f2 = f0 && f3 = f0
  else if code = 0x209 then isFp f1 && f2 = f1 && isMask f0
  else if code = 0x20A then isMov f0 && f1 = f0 && f2 = f0 && isMask f3
  else if code = 0x207 || code = 0x208 || (0x20C ≤ code && code ≤ 0x210) then isFp f0 && f1 = f0
  else if 0x201 ≤ code ∧ code ≤ 0x206 then isFp f0 && f1 = f0 && f2 = f0
  else if code = 0x22B then f0 = 6
  else if 0x220 ≤ code ∧ code ≤ 0x22A then f0 = 6 && f1 = 6 && f2 = 6
  else if code = 0x240 then cvtFmt f0 && cvtFmt f1
  else if code = 0x241 then isFp f1 && (k2 = 0 || f2 = b8p1u) && (isKp f0 || isMask f0)
  else if code = 0x242 then isFp f0 && (k2 = 0 || f2 = b8p1u) && (isKp f1 || isMask f1)
  else if code = 0x243 then isFp f1 && f0 = b8p1u && isKp (b.d15.extractLsb' 0 8)
  else if code = 0x244 then isFp f1 && f0 = 6
  else if 0x250 ≤ code ∧ code ≤ 0x252 then (isFp f0 || f0 = 6) && f1 = f0
  else if code = 0x260 then isMov f0 && isMov f1 && fmtWidth f0 = fmtWidth f1
  else if code = 0x261 then isMov f0 && isMov f1 && fmtWidth f0 = fmtWidth f1 && (f2 = 6 || f2 = 8)
  else if code = 0x262 then isMov f0
  else true

/-- The K extent of a plane (R344). -/
def Plane.kExt (p : Plane) : Nat := if p.sparse then 128 * Nat.min (128 / p.n) 4 else 128

/-- The checks of a kind of operator at latching (R334, R345, R346, R350, R354-R358, R360, R364). -/
def Mach.kindFault (m : Mach) (t : TileId) (code : Nat) (b : Block) : Option Cause :=
  let c := m.ctx t
  let d := b.d15.toNat
  let f0 := wrFmt m t b.op0
  let f1 := rdFmt m t b.op1
  let f2 := rdFmt m t b.op2
  let f3 := rdFmt m t b.op3
  let dup := fun (n : Nat) => (tget (false, 0) c.ext.dup n).1
  if code % 256 ≥ 0xF0 then none
  else if code = 0x003 then
    let slot := match (m.tile t).bind with
      | some bd => (match m.slot t.cluster bd.slot with | some s => s.tiles | none => [t])
      | none => [t]
    if (List.range 8).any (fun k => tst d k && !slot.contains (tileOf t.cluster (BitVec.ofNat 3 k))) then some .lbRange
    else none
  else if code = 0x101 then
    if !isMatrix f1 || (b.op2.kind = 1 && f2 ≠ b8p1u) then some .mxFmtmix else none
  else if code = 0x102 then
    if !isMatrix f1 || f2 ≠ 5 || (b.op3.kind = 1 && f3 ≠ b8p1u) then some .mxFmtmix else none
  else if code = 0x103 then
    let p := c.ext.plane (bits d 0 0)
    let cfg := c.accCfg b.op0.index.toNat
    let chk := c.accCfg (bits d 37 32)
    if !pairing f1 p.fmt then some .mxFmtmix
    else if b.op2.kind = 2 && f2 ≠ b8p1u then some .mxFmtmix
    else if p.kExt < bits d 17 8 + 1 ∨ accNCol cfg < b.op0.c0.toNat + bits d 30 24 then some .lbRange
    else if b.dup && bits d 37 32 = b.op0.index.toNat then some .lbReserved
    else if b.dup && !(accV chk && accNRow chk = accNRow cfg && accNCol chk = accNCol cfg && accAnchor chk = accAnchor cfg)
    then some .mxAcfg
    else none
  else if code = 0x105 then
    if f1.extractLsb' 6 2 = 2 || f1.extractLsb' 6 2 = 3 then some .mxFmtmix else none
  else if code = 0x106 ∨ code = 0x107 then
    if b.op0.kind = 1 && (c.win b.op0.index.toNat).space ≠ 0 then
      some (if dup b.op1.index.toNat then .mxDuptarget else .lbReserved)
    else if (b.op2.kind = 1 && f2 ≠ 1) || (b.op3.kind = 1 && f3 ≠ 1) then some .mxFmtmix
    else none
  else if code = 0x108 then (if dup b.op1.index.toNat then some .mxDuptarget else none)
  else if code = 0x109 then (if c.reserved b.op0.index.toNat then some .glAnchor else none)
  else if code / 256 = 2 then (if vxFmtOk code f0 f1 f2 f3 b.op2.kind b then none else some .vxFmt)
  else none

/-- Bind ring roles at latching (R319): none on a conflict. -/
def Ctx.bindRings (c : Ctx) (e : Eng) (b : Block) : Option Ctx :=
  let one := fun (acc : Option Ctx) (x : Operand × Bool) =>
    match acc with
    | none => none
    | some c =>
      if x.1.kind ≠ 2 then some c
      else
        let r := c.ring x.1.index.toNat
        let bound := if x.2 then r.prod else r.cons
        if bound = none ∨ bound = some e then
          some (c.setRing x.1.index.toNat (if x.2 then { r with prod := some e } else { r with cons := some e }))
        else none
  [(b.op0, true), (b.op1, false), (b.op2, false), (b.op3, false)].foldl one (some c)

/-- The issue count from which a chain keeps its writes: its own, and of an MX chain whose window can still be replayed the one at
the window's start (R134, R149). -/
def Ctx.histFrom (c : Ctx) (e : Eng) : Nat :=
  if e = .mx && !c.ext.repl && !c.ext.glb then Nat.min c.ext.winIssue c.mx.issue else (c.chain e).issue

/-- The block is over (R240, R247): what it wrote gets its last write's cycle (R148), and the next block is due. Writes that no read
from issue cycle `from_` on can miss are forgotten. -/
def Chain.finish (x : Chain) (from_ next : Nat) : Chain :=
  let top := (x.hist.filter (fun h => h.fresh)).foldl (fun a h => Nat.max a h.issue) 0
  let hist := (x.hist.map (fun h => if h.fresh then { h with issue := top, fresh := false } else h)).filter
    (fun h => decide (from_ < h.issue + 40))
  { x with cur := next, latched := none, phase := .waits, i0 := 0, i1 := 0, i2 := 0, i3 := 0, wtaken := false, due := 0,
           dueSig := [], last := false, hist := hist, red := [], glh := 0, glmask := 0, answers := [] }

/-- A halted chain does not go on; under HALT it still gives the signals of its last step (R101, R104). -/
def Mach.chainGoes (m : Mach) (t : TileId) (e : Eng) : Bool :=
  let x := (m.ctx t).chain e
  x.st = .running && !x.halted && (!(m.tile t).halting || x.phase = .signals)

/-- The next block is latched (R246): checks in the order of R246, the operators' own next. A block that a replay comes back to halfway
goes on with its plane and its drain as the window's start left them (R134, R347). -/
def Mach.latchNext (m : Mach) (t : TileId) (e : Eng) : Mach :=
  let c := m.ctx t
  let x := c.chain e
  let ca := m.chareaOf t
  if !m.chainGoes t e || x.latched.isSome then m
  else if chainBlocks ca ≤ x.cur then m.chainFault t e x.cur .lbRange
  else
    match decodeBlock e (c.blockWords ca x.cur) with
    | .illegal => m.chainFault t e x.cur .lbIllegal
    | .reserved => m.chainFault t e x.cur .lbReserved
    | .ok i =>
      match i.block? with
      | none => m
      | some (code, b) =>
        match c.objectFault b with
        | some f => m.chainFault t e x.cur (if c.winReserved code b then .lbReserved else f)
        | none =>
          if m.dynReserved t code x.cur b then m.chainFault t e x.cur .lbReserved
          else
            match m.kindFault t code b with
            | some f => m.chainFault t e x.cur f
            | none =>
              match c.bindRings e b with
              | none => m.chainFault t e x.cur .lbRing
              | some c =>
                let (c, ok1) := if e = .mx ∧ b.ts ∧ c.ext.replaying = none then c.windowStart x.cur else (c, true)
                let first := blockIx x = (0, 0, 0, 0)
                let (c, ok2) := if first ∧ (code = 0x101 ∨ code = 0x102) then c.releasePlane (bits b.d15.toNat 0 0) else (c, true)
                let c := if first ∧ !zeroBound b ∧ (code = 0x106 ∨ code = 0x107) then
                    { c with ext := { c.ext with
                        drained := [], withheld := [],
                        drainAt := some ((c.chain e).point, (c.ring b.op0.index.toNat).tail) } }
                  else c
                let m := m.modCtx t (fun _ => c.modChain e (fun y =>
                  if zeroBound b then y.finish (c.histFrom e) (y.cur + 1)
                  else { y with latched := some i, phase := .waits, last := false, due := 0, dueSig := [] }))
                if ok1 && ok2 then m else m.chainFault t e x.cur .lbSemovf

/-- The latched block of LD, VX or ST has issued its last step, and its tile-store writes need no answer: the next block may be latched
while its accesses land (R145, R383; DEDUCED, log 161). -/
def Mach.flies (m : Mach) (t : TileId) (e : Eng) : Bool :=
  let x := (m.ctx t).chain e
  e ≠ .mx && m.chainGoes t e && !(m.tile t).halting && x.phase = .signals && x.last && x.outst.1 = 0 &&
    ((x.latched.bind Instr.block?).map (fun p => decide (p.1 % 256 < 0xF0 ∧ (p.1 = 0x005 → x.outw = 0)))).getD false

/-- The latched block is over but for its signals, which are given once its accesses have landed. -/
def Ctx.fly (c : Ctx) (e : Eng) : Ctx :=
  c.modChain e (fun x =>
    let sigs := x.dueSig ++ ((x.latched.bind Instr.block?).map (fun p => signalsOf p.2 x.due)).getD []
    { x.finish (c.histFrom e) (x.cur + 1) with flight := if sigs = [] then x.flight else x.flight ++ [(x.cur, sigs)] })

/-- BLOCK_LATCH (R246). A fault of the block comes once the accesses of the blocks before it have landed. -/
def Mach.blockLatch (m : Mach) (t : TileId) (e : Eng) : Mach :=
  let m' := (if m.flies t e then m.modCtx t (fun c => c.fly e) else m)
  let m'' := m'.latchNext t e
  if ((m'.ctx t).chain e).flight ≠ [] ∧ ((m''.ctx t).chain e).st ≠ .running then m else m''

/-- A step of the latched block may issue: its waits are taken. -/
def Ctx.stepDue (c : Ctx) (e : Eng) : Ctx := c.modChain e (fun x => { x with phase := .steps, wtaken := true })

/-- The waits of the next step of a chain that waits, its ring waits among them (R145, R321): none where it waits for nothing, and
an error where it needs more slots than a ring has. -/
def Mach.waiting (m : Mach) (t : TileId) (e : Eng) : Option (Except Cause (List (BitVec 5 × Nat))) :=
  let c := m.ctx t
  let x := c.chain e
  if !m.chainGoes t e || x.phase ≠ .waits || (e = .mx && c.ext.replaying.isSome) then none
  else
    (x.latched.bind Instr.block?).map (fun (code, b) =>
      let plan := m.stepPlan t code b (blockIx x)
      match c.ringTakes (ringMoves code b plan.its.length) with
      | none => .error .lbRing
      | some rt => .ok (waitsOf b plan.begins ++ rt))

/-- An engine earlier in the order MX, VX, LD, ST waits for a count that these waits would lower, and could be granted it now:
grants go in that order (R146, R321). -/
def Mach.outranked (m : Mach) (t : TileId) (e : Eng) (needs : List (BitVec 5 × Nat)) : Bool :=
  ([Eng.mx, .vx, .ld, .st].takeWhile (fun k => k ≠ e)).any (fun k => match m.waiting t k with
    | some (.ok l) => (m.ctx t).enough l && l.any (fun x => needs.any (fun y => y.1 = x.1))
    | _ => false)

/-- SEMAPHORE_WAIT_GRANT (R145, R146, R321): the waits of the next step, with its ring waits, all at once or nothing; the
MX sequencer issues its deferred signals before it waits (R131), and a replay takes no wait again (R134). -/
def Mach.waitGrant (m : Mach) (t : TileId) (e : Eng) : Mach :=
  let c := m.ctx t
  let x := c.chain e
  match m.waiting t e with
  | some (.error f) => if x.flight = [] then m.chainFault t e x.cur f else m
  | some (.ok needs) =>
    if c.enough needs then (if m.outranked t e needs then m else m.modCtx t (fun _ => (c.take needs).stepDue e))
    else if e = .mx ∧ c.ext.defer ≠ [] then
      let (c, ok) := c.windowStart x.cur
      let m := m.modCtx t (fun _ => c)
      if ok then m else m.chainFault t e x.cur .lbSemovf
    else m
  | none =>
    if !m.chainGoes t e || x.phase ≠ .waits || x.latched.isNone then m
    else
      let there := match c.ext.replaying with
        | some (a, _) => decide (a = x.point)
        | none => false
      m.modCtx t (fun c => { c with ext := { c.ext with
        replaying := if there then none else c.ext.replaying } }.stepDue e)

/-- Deferred under R131: the signals of these MX operators. -/
def defersSignals (code : Nat) : Bool :=
  code = 0x103 || code = 0x104 || code = 0x105 || code = 0x109

/-- The ring signals and D1 signals that a step has made due are given, deferred, held or withheld: those of D1 of a drain until its block
completes (R131, R355), and under DUP those of its ring too (R130). -/
def Ctx.giveDue (c : Ctx) (e : Eng) (code : Nat) (b : Block) (n : Nat) (ringSigs : List (BitVec 5 × Nat)) : Ctx × Bool :=
  let d1 := signalsOf b n
  if e ≠ .mx then c.signals (ringSigs ++ d1)
  else if code = 0x101 ∨ code = 0x102 then
    let k := bits b.d15.toNat 0 0
    let p := c.ext.plane k
    ({ c with ext := c.ext.setPlane k { p with heldWin := addSigs p.heldWin d1 } }, true)
  else if defersSignals code then (c.defer1 (ringSigs ++ d1), true)
  else if code = 0x106 ∨ code = 0x107 then
    let dup := (tget (false, 0) c.ext.dup b.op1.index.toNat).1
    let c := { c with ext := { c.ext with withheld := addSigs c.ext.withheld (if dup then ringSigs ++ d1 else d1) } }
    if dup || c.ext.replaying.isSome then (c, true) else c.signals ringSigs
  else if c.ext.replaying.isSome then (c, true)
  else c.signals (ringSigs ++ d1)

/-- An engine earlier in the order MX, VX, LD, ST has a signal due to a count that this one's signals raise too: it is added first
(R146). -/
def Mach.signalsFirst (m : Mach) (t : TileId) (e : Eng) : Bool :=
  let due := fun (k : Eng) =>
    let x := (m.ctx t).chain k
    if x.st = .running && !x.flight.isEmpty then (x.flight.headD (0, [])).2
    else if !m.chainGoes t k || x.phase ≠ .signals || x.outw ≠ 0 || x.outst.1 ≠ 0 then []
    else match x.latched.bind Instr.block? with
      | some (_, b) => x.dueSig ++ signalsOf b x.due
      | none => []
  ([Eng.mx, .vx, .ld, .st].takeWhile (fun k => k ≠ e)).any (fun k =>
    (due k).any (fun x => (due e).any (fun y => y.1 = x.1)))

/-- The signals that a chain gives next are those of an earlier block whose accesses have now landed: those of the latched block come
after them. -/
def Chain.landsFirst (x : Chain) : Bool :=
  x.st = .running && !x.halted && !x.flight.isEmpty && (x.phase ≠ .signals || x.last || x.due ≠ 0 || !x.dueSig.isEmpty)

/-- ITERATION_SIGNAL (R145, R146, R326): once what a signal covers has landed, it is given; after the block's last step
the block is over. -/
def Mach.iterSignal (m : Mach) (t : TileId) (e : Eng) : Mach :=
  let c := m.ctx t
  let x := c.chain e
  if x.landsFirst then
    if m.signalsFirst t e then m
    else
      let (j, l) := x.flight.headD (0, [])
      let (c, ok) := (c.modChain e (fun y => { y with flight := y.flight.drop 1 })).signals l
      let m := m.modCtx t (fun _ => c)
      if ok then m else m.chainFault t e j .lbSemovf
  else if !m.chainGoes t e || x.phase ≠ .signals || m.signalsFirst t e then m
  else
    match x.latched.bind Instr.block? with
    | none => m
    | some (code, b) =>
      if (code = 0x005 ∨ code = 0x108) ∧ x.outw ≠ 0 then m
      else if code = 0x108 ∧ x.outst.1 = 0x102 then
        let k := b.d15.extractLsb' 0 3
        let m := m.modCtx t (fun c => (c.setHandle k (setBits (c.handle k) 61 61 1)).modChain e (fun y =>
          { y with phase := .steps, outst := (0, 0), i0 := if y.last then y.i0 else y.i0 - 64, last := false,
                   issue := y.issue - 8, due := 0 }))
        m.glPark t
      else if code = 0x108 ∧ x.outst.1 = 0x101 then m.chainFault t e x.outst.2 .glNores
      else if x.outst.1 ≠ 0 then m.chainFault t e x.outst.2 (statusChain x.outst.1)
      else
        let (c, ok) := c.giveDue e code b x.due x.dueSig
        let (c, ok2) := if x.last ∧ e = .mx then
            (let (c', o) := c.signals c.ext.withheld
             ({ c' with ext := { c'.ext with withheld := [], drainAt := none } }, o))
          else (c, true)
        let c := c.modChain e (fun y => { y with due := 0, dueSig := [], phase := .waits, wtaken := false, glmask := 0 })
        let c := if !x.last then c
          else if code % 256 = 0xF2 then
            let c := c.modChain e (fun y => { y.finish y.issue y.cur with st := .ended, loops := [] })
            if e = .mx then { c with ext := { c.ext with p0 := Plane.none, p1 := Plane.none } } else c
          else if code % 256 = 0xF1 then c.modChain e (fun y => y.finish (c.histFrom e) y.i0)
          else c.modChain e (fun y => y.finish (c.histFrom e) (y.cur + 1))
        let m := m.modCtx t (fun _ => c)
        if ok && ok2 then m else m.chainFault t e x.cur .lbSemovf

/-- BLOCK_LATCH (R246). -/
def execBlockLatch (t : TileId) (e : Eng) (s : State) : Host.Outcome State Fault Refusal :=
  .next (s.onM (fun m => m.inCycle t e (fun m => m.blockLatch t e)))

/-- SEMAPHORE_WAIT_GRANT (R145, R146). -/
def execSemaphoreWaitGrant (t : TileId) (e : Eng) (s : State) : Host.Outcome State Fault Refusal :=
  .next (s.onM (fun m => m.inCycle t e (fun m => m.waitGrant t e)))

/-- ITERATION_SIGNAL (R145, R146). -/
def execIterationSignal (t : TileId) (e : Eng) (s : State) : Host.Outcome State Fault Refusal :=
  .next (s.onM (fun m => m.inCycle t e (fun m => m.iterSignal t e)))

/-- ST_WRITE_RESPONSE (R330): a non-zero STATUS of a sent write faults the chain, against the block that sent it. -/
def execStWriteResponse (t : TileId) (s : State) : Host.Outcome State Fault Refusal :=
  .next (s.onM (fun m =>
    let x := (m.ctx t).st
    if x.outst.1 = 0 ∨ (m.tile t).halting then m
    else
      let m := m.modChain t .st (fun y => { y with outst := (0, 0) })
      if x.st = .running ∨ x.st = .ended ∨ x.st = .parked then m.chainFault t .st x.outst.2 (statusChain x.outst.1) else m))

/-! ### One step of a latched block -/

def Mach.env (m : Mach) (t : TileId) (e : Eng) (b : Block) (cyc : Nat) : Env :=
  let x := (m.ctx t).chain e
  { t := t, e := e, b := b, j := x.cur, p := m.partOf t, charea := m.chareaOf t,
    rd := x.issue + Nat.min 1 cyc, wr := x.issue + cyc,
    early := (m.thr t).ktdbg.getLsbD 0 }

/-- The bits of the tile store from the tail of a ring to the end of its slot, which CLOSE writes zero (R322); the chain area is not
among them (R250). -/
def closeSpan (charea : Nat) (r : Ring) : Nat × Nat :=
  (ringBase r * 8 + r.tail.1 * ringSlotu r * 512 + r.tail.2 * fmtWidth (ringSrc r),
    Nat.min (ringBase r * 8 + (r.tail.1 + 1) * ringSlotu r * 512) (chainBase charea * 8))

/-- CLOSE of a producer after the block's last step (R322): the rest of an open slot is zero, whatever it held. A byte that held zero is
written all the same: the early-read check sees its word as written (R150), and an early read of a word that was poisoned its poison. -/
def Ctx.zeroSlot (c : Ctx) (v : Env) (q : Nat) : Ctx :=
  let r := c.ring q
  let (b0, b1) := closeSpan v.charea r
  let part : List (Nat × WByte) := if b0 % 8 = 0 then [] else [(b0 / 8, ⟨.store (b0 / 8), 255 - (2 ^ (b0 % 8) - 1), 0, false⟩)]
  let lo := (b0 + 7) / 8
  let hi := b1 / 8
  let words := if v.early then (List.range ((hi + 7) / 8 - lo / 8)).map (fun k => lo / 8 + k) else c.storePois
  let marks := (words.map (fun w => Nat.max lo (8 * w))).filter (fun a => decide (lo ≤ a ∧ a < hi) && !c.store.any (fun p => p.1 = a))
  let held := (c.store.map (·.1)).filter (fun a => decide (lo ≤ a ∧ a < hi))
  let c := c.putBytes v (part ++ (held ++ marks).map (fun a => (a, ⟨.store a, 255, 0, false⟩)))
  { c with storePois := c.storePois.filter (fun k => !decide (lo ≤ 8 * k ∧ 8 * k + 8 ≤ b1 / 8)) }.setRing q
    { r with tail := ((r.tail.1 + 1) % ringNslot r, 0) }

/-- The zeros of CLOSE reach the code words of the tile store (R13, R322): a word written in part is read first, one written whole is
encoded anew. -/
def Mach.eccClose (m : Mach) (v : Env) (rings : Tbl Ring) : Mach :=
  if m.sram1 = [] ∧ m.sram2 = [] || v.b.op0.kind ≠ 2 || !v.b.op0.opf.getLsbD 0 then m
  else
    let r := tget Ring.off rings v.b.op0.index.toNat
    if r.tail.2 = 0 then m
    else
      let (b0, b1) := closeSpan v.charea r
      let m := if b0 % 64 = 0 then m else m.decodeStore v.t (b0 / 64)
      m.dropMarks (fun w => match w with
        | .store u k => u = v.t && decide (b0 ≤ 64 * k.toNat ∧ 64 * k.toNat + 64 ≤ b1)
        | _ => false)

/-- CLOSE on the rings of a block that ends (R322): the context and the signals it adds. -/
def Ctx.closeRings (c : Ctx) (v : Env) : Ctx × List (BitVec 5 × Nat) :=
  let one := fun (acc : Ctx × List (BitVec 5 × Nat)) (x : Operand × Bool) =>
    let (c, l) := acc
    if x.1.kind ≠ 2 || x.1.opf.getLsbD 0 = false then acc
    else
      let q := x.1.index.toNat
      let r := c.ring q
      if x.2 then (if r.tail.2 = 0 then acc else (c.zeroSlot v q, l ++ [(ringFull r, 1)]))
      else if r.head.2 = 0 then acc
      else (c.setRing q { r with head := ((r.head.1 + 1) % ringNslot r, 0) }, l ++ [(ringFree r, 1)])
  [(v.b.op0, true), (v.b.op1, false), (v.b.op2, false), (v.b.op3, false)].foldl one (c, [])

/-- Where the step leaves the chain (R104, R145, R148): its writes land, the issue count and loop indices move on, and
its signals are due. `wk` is the kind of its accumulator writes. -/
def Mach.endStep (m : Mach) (v : Env) (code : Nat) (plan : Plan) (wk : Nat) (k : Wk) : Mach :=
  let gives := (m.ctx v.t).ringGives (ringMoves code v.b plan.its.length)
  let stores := storeBytes k.out
  let last := plan.next.isNone
  let m := m.eccWrites v.t (stores.map (fun x => (x.1, x.2.mask))) (k.acc.map (·.1))
  (if last then m.eccClose v k.rings else m).modCtx v.t (fun c =>
    let c := { c with rings := k.rings }
    let c := (c.putBytes v stores).putAcc v wk k.acc.reverse
    let (c, closes) := if last then c.closeRings v else (c, [])
    let i := plan.next.getD (blockIx (c.chain v.e))
    let popped := (gives.filter (fun g => g.2.2)).foldl (fun a g => a + g.2.1) 0
    let c := if popped = 0 then c else c.tileEvent 0x0C popped
    let c := c.tileEvent (0x02 + v.e.code.toNat) plan.cyc
    c.modChain v.e (fun x =>
      { x with flags := x.flags ||| k.fl, issue := x.issue + plan.cyc, i0 := i.1, i1 := i.2.1, i2 := i.2.2.1,
               i3 := i.2.2.2, due := plan.ends, dueSig := gives.map (fun g => (g.1, g.2.1)) ++ closes, last := last,
               phase := .signals, answers := [], wtaken := false }))

/-- Send what a step asks other dies for; it issues again once the answers are there. -/
def Mach.sendAsks (m : Mach) (v : Env) (asks : List (Place × Nat × Msg)) : Mach :=
  asks.foldl (fun m a =>
    let new := m.modChain v.t v.e (fun x => { x with answers := x.answers ++ [⟨a.1, a.2.1, none⟩] })
    match new.ask v.t.die a.2.2 (.eng v.t v.e) a.1 with
    | some m => m
    | none => m) m

/-- What an attempt at a step comes to: it waits, asks, parks or faults, with the machine that leaves; or it is taken, with
all its reads made and its messages sent. -/
inductive Tried where
  | stopped (m : Mach)
  | taken (v : Env) (plan : Plan) (k : Wk) (m : Mach)

/-- An access that a chain has sent and that is still to be performed (R180): its die, its place, and whether it is a
compare-and-swap that may have to be sent again (log 21). -/
structure Owed where
  die : BitVec 12 × DieId
  place : Place
  cas : Bool
deriving DecidableEq, Repr

/-- The accesses of a class which the chain has sent and that are still to be performed (R180). -/
def Mach.classOwed (m : Mach) (t : TileId) (e : Eng) (cls : BitVec 4) : List Owed :=
  let mine := fun (a : Agent) => match a.root with
    | .engW u f _ => u = t && f = e
    | .itemW r f _ => f = e && m.itemTile r = some t
    | _ => false
  ((m.die t.die).tags.filter (fun g => !g.retiring && g.cls = cls && mine g.agent)).map (fun g => ⟨(g.dpkg, g.ddie), g.place, g.agent.isCas⟩) ++
    ((m.die t.die).tagq.filter (fun z => z.1.cls = cls && mine z.2.1)).map (fun z => ⟨(z.1.dpkg, z.1.ddie), z.2.2, z.2.1.isCas⟩)

/-- Accesses to the two places, sent in this order to one die, are performed in it: those of a replica set only among
themselves, by their stamps (R41). -/
def sameOrder : Place → Place → Bool
  | .repl a _, .repl b _ => a = b
  | .repl _ _, _ => false
  | _, _ => true

/-- A step's accesses come after the earlier ones of its class (R180): all of those have been performed, or all go to one die,
which performs them in the order they were sent, and the step reads no memory. -/
def Mach.inOrder (m : Mach) (t : TileId) (e : Eng) (cls : BitVec 4) (read : Bool) (runs : List Run) : Bool :=
  let owed := m.classOwed t e cls
  owed.isEmpty || (!read && runs.all (fun r => match m.placeDie t.die r.place with
    | some q => owed.all (fun z => z.die = q && !z.cas && sameOrder z.place r.place)
    | none => false))

/-- Try one step of the block (R330): all reads, checks and translations come before its writes. A fault or a parking comes once the
accesses of the blocks before it have landed. -/
def Mach.tryStep (m : Mach) (t : TileId) (e : Eng) (code : Nat) (b : Block) (body : Env → List Ix → StepM Unit)
    (onFault : Mach → Cause → Mach) : Tried :=
  let x := (m.ctx t).chain e
  if !m.chainGoes t e || x.phase ≠ .steps then .stopped m
  else
    let plan := m.stepPlan t code b (blockIx x)
    let v := m.env t e b plan.cyc
    let k0 : Wk := ⟨m, (m.ctx t).rings, 0, [], false, [], [], [], false, []⟩
    match (do body v plan.its; memRuns v : StepM (List Run)) k0 with
    | .error (.fault c, m') => .stopped (if x.flight = [] then onFault m' c else m)
    | .error (.page va acc w, m') => .stopped (if x.flight = [] then m'.chainPark t e .lbPage va acc.code w else m)
    | .ok (runs, k) =>
      if !k.m.inOrder t e b.cls k.read runs then .stopped k.m
      else if k.pend then .stopped (k.m.sendAsks v k.asks)
      else if !k.m.tagRoom t.die (runs.filterMap (fun r => k.m.placeDie t.die r.place)) then .stopped k.m
      else
        match runs.foldlM (fun m r => Mach.putRun m v r) (k.m.dieEvent t.die 0x20 k.secs.length) with
        | .error (.fault c, m') => .stopped (if x.flight = [] then onFault m' c else m)
        | .error (.page _ _ _, m') => .stopped m'
        | .ok m => .taken v plan k m

/-- A fault of a step stops its chain at the block it was in. -/
def Mach.stepFault (m : Mach) (t : TileId) (e : Eng) (c : Cause) : Mach := m.chainFault t e ((m.ctx t).chain e).cur c

def noAfter (_ : Env) (_ : Plan) (_ : Wk) (m : Mach) : Mach := m

/-- What an operator's step is: its code and block, the latency kind of its accumulator writes, its reads and results, what
it does beside its writes, what it does before it and at a fault, and whether it uses the MX pipeline. -/
structure BlockStep where
  code : Nat
  b : Block
  wk : Nat := 0
  body : Mach → Env → List Ix → StepM Unit
  after : Env → Plan → Wk → Mach → Mach := noAfter
  before : TileId → Mach → Mach := fun _ m => m
  onFault : TileId → Eng → Mach → Cause → Mach := fun t e m c => m.stepFault t e c
  pipe : Bool := false

/-- The engine that the operator's code names (R238). -/
def BlockStep.eng (x : BlockStep) : Eng := Eng.ofCode (BitVec.ofNat 2 (x.code / 256))

/-- The attempt at a step on a tile. -/
def BlockStep.try_ (x : BlockStep) (t : TileId) (m : Mach) : Tried :=
  (x.before t m).tryStep t x.eng x.code x.b (x.body (x.before t m)) (x.onFault t x.eng)

/-- A parity error found in the array pipeline or the read path stands in the way of the step (R133). -/
def BlockStep.parity (x : BlockStep) (t : TileId) (m : Mach) : Bool :=
  x.pipe && (m.tile t).parity && m.chainGoes t .mx && (m.ctx t).mx.phase = .steps

/-- Run one step on a tile: a parity error replays the window or faults the chain (R133-R135). -/
def BlockStep.runOn (x : BlockStep) (t : TileId) (m : Mach) : Mach :=
  if x.parity t m then
    (m.modTile t (fun y => { y with parity := false })).mxError t .mxParity [(3, 8)]
      (some (m.ctx t).drainFrom)
  else
    match x.try_ t m with
    | .stopped m => m
    | .taken v plan k m => x.after v plan k (m.endStep v x.code plan x.wk k)

/-- Run one step on the turn's tile. -/
def BlockStep.run (x : BlockStep) (s : State) : Host.Outcome State Fault Refusal :=
  .next (s.onM (fun m => m.inCycle s.turn.tile x.eng (x.runOn s.turn.tile)))

/-- The code of a sequencer operator on the block's engine. -/
def sqCode (b : Block) (opn : Nat) : Nat := b.eng.toNat * 256 + opn

/-! ### Sequencer operators (R324-R328) -/

/-- sq.nop (R324). -/
def sqNopStep (b : Block) : BlockStep := { code := sqCode b 0xF0, b := b, body := fun _ _ _ => pure () }

/-- sq.nop (R324). -/
def execSqNop (b : Block) (s : State) : Host.Outcome State Fault Refusal := (sqNopStep b).run s

/-- sq.loop (R325): the next block is left in loop index 0 until the block ends. -/
def sqLoopStep (b : Block) : BlockStep :=
  { code := sqCode b 0xF1, b := b,
    body := fun m v _ => need ((loopPass ((m.ctx v.t).chain v.e).loops v.j b.d15).isSome) .lbRange,
    after := fun v _ _ m => m.modChain v.t v.e (fun x =>
      match loopPass x.loops v.j b.d15 with
      | some (l, n) => { x with loops := l, i0 := n }
      | none => x) }

/-- sq.loop (R325). -/
def execSqLoop (b : Block) (s : State) : Host.Outcome State Fault Refusal := (sqLoopStep b).run s

/-- sq.end (R326): deferred signals and held planes are issued before its own signals. -/
def sqEndStep (b : Block) : BlockStep :=
  { code := sqCode b 0xF2, b := b, body := fun _ _ _ => pure (),
    after := fun v _ _ m =>
      if v.e ≠ .mx then m
      else
        let (c, ok0) := (m.ctx v.t).releasePlane 0
        let (c, ok1) := c.releasePlane 1
        let (c, ok2) := c.signals c.deferred
        let m := m.modCtx v.t (fun _ => { c with ext := { c.ext with defer := [] } })
        if ok0 && ok1 && ok2 then m else m.chainFault v.t v.e v.j .lbSemovf }

/-- sq.end (R326). -/
def execSqEnd (b : Block) (s : State) : Host.Outcome State Fault Refusal := (sqEndStep b).run s

/-- The new value of a patched dword (R249). -/
def patchDword (d15 old : Dword) (x : Int) : Dword :=
  let p := d15.toNat
  let lsb := bits p 21 16
  let hi := lsb + bits p 27 22
  let v : Int := if bits p 29 28 = 1 then (d15.extractLsb' 32 32).toInt
    else if bits p 29 28 = 0 then x
    else Int.ofNat (bits old.toNat hi lsb) + x
  setBits old hi lsb (bits v (bits p 27 22) 0)

/-- Is a format one that sq.patch reads as an integer (R249). -/
def isPatchFmt (f : Byte) : Bool := f = 4 || f = 5 || f = 6 || f = 8

/-- The integer value of a code of i8, ui8, i16 or i32. -/
def intCode (f : Byte) (x : Nat) : Int :=
  if f = 5 then Int.ofNat x else (BitVec.ofNat (fmtWidth f) x).toInt

/-- sq.patch (R248-R250): one dword of a block in the chain area, whole, in the cycle that ends the step; a poisoned dword
of which a part stays faults (R138). -/
def sqPatchStep (b : Block) : BlockStep :=
  let d := b.d15.toNat
  let blk := bits d 11 0
  let dw := bits d 15 12
  { code := sqCode b 0xF3, b := b,
    body := fun m v _ => do
      need (decide (blk * 128 < v.charea * 4096)) .lbPatch
      need (decide (bits d 21 16 + bits d 27 22 + 1 ≤ 64)) .lbPatch
      need (!decide (dw = 0 ∧ bits d 21 16 ≤ 9)) .lbPatch
      let x ← if bits d 29 28 = 1 then pure (0 : Int)
        else do
          let w := (m.ctx v.t).win b.op1.index.toNat
          let f := winFmt w b.op1
          need (b.op1.kind = 1 && w.space = 0 && isPatchFmt f) .lbPatch
          let (c, p) ← readElem v b.op1 (0, 0, 0, 0) (storeKind v.e)
          need (!p) .lbPoison
          pure (intCode f c)
      let skip := v.e = .mx && (m.ctx v.t).ext.replaying.isSome
      if skip then pure ()
      else do
        let a := chainBase v.charea + 128 * blk + 8 * dw
        let m ← getM
        let m := m.decodeStore v.t (a / 8)
        let whole := decide (bits d 27 22 = 63) && bits d 29 28 ≠ 2
        need (whole || !(m.ctx v.t).storePois.contains (a / 8)) .lbPoison
        let old := BitVec.ofNat 64 (Memory.read (m.ctx v.t).store a 8)
        setM (m.modCtx v.t (fun c => { c with store := Memory.write c.store a 8 (patchDword b.d15 old x).toNat,
                                              storePois := ndel (a / 8) c.storePois })) }

/-- sq.patch (R248-R250). -/
def execSqPatch (b : Block) (s : State) : Host.Outcome State Fault Refusal := (sqPatchStep b).run s

/-- sq.event (R328): the engine's SQEV bit in the supervising thread's KEVT. -/
def sqEventStep (b : Block) : BlockStep :=
  { code := sqCode b 0xF4, b := b, body := fun _ _ _ => pure (),
    after := fun v _ _ m =>
      if v.e = .mx && (m.ctx v.t).ext.replaying.isSome then m
      else m.modThr v.t (fun th => { th with kevt := th.kevt ||| BitVec.ofNat 8 (2 ^ (4 + v.e.code.toNat)) }) }

/-- sq.event (R328). -/
def execSqEvent (b : Block) (s : State) : Host.Outcome State Fault Refusal := (sqEventStep b).run s

end Sys2Proof.Machine
end

