-- ==== Sys2Proof/Machine/LdSt.lean ====
section
/-! DEFINITION. The load and store operators (R329-R337): moves, gathers and scatters, broadcasts into the tile stores of a
slot, fills, prefetches into pools, and reductions at memory. -/
namespace Sys2Proof.Machine

/-! ### Moving elements (R329, R332, R335) -/

/-- move_block: each element of OP1 goes to OP0 with its poison. -/
def moveBody (v : Env) (its : List Ix) : StepM Unit := do
  let _ ← its.mapM (fun i => do
    let (x, p) ← readOp v v.b.op1 i
    writeOp v v.b.op0 i x p)
  return ()

/-- ld.copy (R332). -/
def ldCopyStep (b : Block) : BlockStep :=
  { code := 0x001, b := b,
    body := fun _ v its => moveBody v its }

/-- ld.copy (R332). -/
def execLdCopy (b : Block) (s : State) : Host.Outcome State Fault Refusal := (ldCopyStep b).run s

/-- st.copy (R332). -/
def stCopyStep (b : Block) : BlockStep :=
  { code := 0x301, b := b,
    body := fun _ v its => moveBody v its }

/-- st.copy (R332). -/
def execStCopy (b : Block) (s : State) : Host.Outcome State Fault Refusal := (stCopyStep b).run s

/-- ld.fill (R335). -/
def ldFillStep (b : Block) : BlockStep :=
  { code := 0x004, b := b,
    body := fun _ v its => do
    let _ ← its.mapM (fun i => writeOp v v.b.op0 i v.b.d15.toNat false)
    return () }

/-- ld.fill (R335). -/
def execLdFill (b : Block) (s : State) : Host.Outcome State Fault Refusal := (ldFillStep b).run s

/-! ### Gather and scatter (R333) -/

/-- The index of an iteration; a poisoned one faults (R331). -/
def indexOf (v : Env) (i : Ix) : StepM Int := do
  let m ← getM
  let f := rdFmt m v.t v.b.op2
  let (x, p) ← readOp v v.b.op2 i
  need (!p) .lbPoison
  return intCode f x

/-- Is an index inside the extent of a window's dimension. -/
def insideDim (w : Window) (g : Nat) (ix : Int) : Bool := decide (0 ≤ ix ∧ ix < Int.ofNat (w.ext g))

/-- ld.gather (R333): an index outside the extent writes zero under SKIP. -/
def ldGatherStep (b : Block) : BlockStep :=
  let g := bits b.d15.toNat 1 0
  let skip := b.d15.getLsbD 2
  { code := 0x002, b := b,
    body := fun m v its => do
    let w := (m.ctx v.t).win v.b.op1.index.toNat
    let _ ← its.mapM (fun i => do
      let ix ← indexOf v i
      if insideDim w g ix then
        let (x, p) ← readCoords v v.b.op1 ((operandCoords v.b.op1 i).set g ix) (storeKind v.e)
        writeOp v v.b.op0 i x p
      else do
        need skip .lbRange
        writeOp v v.b.op0 i 0 false)
    return () }

/-- ld.gather (R333). -/
def execLdGather (b : Block) (s : State) : Host.Outcome State Fault Refusal := (ldGatherStep b).run s

/-- st.scatter (R333): an index outside the extent writes nothing under SKIP; a source ring moves on all the same
(log 22). -/
def stScatterStep (b : Block) : BlockStep :=
  let g := bits b.d15.toNat 1 0
  let skip := b.d15.getLsbD 2
  { code := 0x302, b := b,
    body := fun m v its => do
    let w := (m.ctx v.t).win v.b.op0.index.toNat
    let _ ← its.mapM (fun i => do
      let ix ← indexOf v i
      let inside := insideDim w g ix
      need (inside || skip) .lbRange
      if inside then
        let (x, p) ← readOp v v.b.op1 i
        writeCoords v v.b.op0 ((operandCoords v.b.op0 i).set g ix) x p
      else if v.b.op1.kind = 2 then do
        let _ ← readOp v v.b.op1 i
        return ()
      else return ())
    return () }

/-- st.scatter (R333). -/
def execStScatter (b : Block) (s : State) : Host.Outcome State Fault Refusal := (stScatterStep b).run s

/-! ### Broadcast (R334) -/

/-- Bytes that another tile writes into a tile store. -/
def Ctx.putForeign (c : Ctx) (bs : List (Nat × WByte)) : Ctx :=
  ((bs.foldl (fun (c : Ctx) b => c.forget none (fun l => l = .store b.1)) c).withBytes bs).settlePoison none bs

/-- Where the item that ran on tile `d` under a launch and slot is now: on its tile, in a kennel slot of the cluster, or
spilled (R106, R109). -/
inductive Whereabouts where
  | onTile
  | kennel (t : TileId)
  | spilled (n : Nat)
  | gone
deriving DecidableEq

def Mach.whereIs (m : Mach) (lid : Word) (slot : Nat) (p : PartId) (d : TileId) : Whereabouts :=
  let mine := fun (b : Bind) => b.lid = lid && b.slot = slot
  if (((m.tile d).bind.map mine).getD false) then .onTile
  else
    match (List.range 8).find? (fun k =>
        match (m.tile (tileOf d.cluster (BitVec.ofNat 3 k))).kennel with
        | some im => mine im.bind && im.tile = d
        | none => false) with
    | some k => .kennel (tileOf d.cluster (BitVec.ofNat 3 k))
    | none =>
      match (m.part p).spilled.find? (fun x => match x.2 with
        | some im => mine im.bind && im.tile = d
        | none => false) with
      | some (n, _) => .spilled n
      | none => .gone

/-- The word or sector of a byte of a partition's memory is poisoned (R138). -/
def Mach.poisonVa (m : Mach) (p : PartId) (va : Nat) : Mach :=
  match m.vaPa p va .write with
  | some pa => m.poison pa 1
  | none => m

/-- Bytes that foreign writes put into a tile store, by address in ascending order: mask, value, poison. -/
def foreignBytes (bs : List (Nat × WByte)) : Tbl (Nat × Nat × Bool) :=
  bs.foldl (fun t b => tmod (0, 0, false) t b.1 (fun x =>
    (x.1 ||| b.2.mask, (x.2.1 &&& (255 - b.2.mask)) ||| (b.2.val &&& b.2.mask), x.2.2 || b.2.pois))) []

/-- Runs of consecutive whole clean bytes; every other byte is a run of its own. -/
def foreignRuns (t : Tbl (Nat × Nat × Bool)) : List (Nat × List (Nat × Nat × Bool)) :=
  let whole := fun (x : Nat × Nat × Bool) => x.1 = 255 && !x.2.2
  t.foldr (fun p acc => match acc with
    | (a, b :: l) :: r => if whole p.2 && whole b && p.1 + 1 = a then (p.1, p.2 :: b :: l) :: r else (p.1, [p.2]) :: acc
    | _ => (p.1, [p.2]) :: acc) []

/-- One run is written to a spilled image (R106, R138): whole words and sectors lose their poison; a byte written in part is read
first. -/
def Mach.foreignRun (m : Mach) (p : PartId) (base : Nat) (x : Nat × List (Nat × Nat × Bool)) : Mach :=
  let va := base + x.1
  let m := if x.2.any (fun b => b.1 ≠ 255) then m.portVa p va x.2.length else m
  let new := ((m.readVa p va x.2.length).zip x.2).map (fun y =>
    BitVec.ofNat 8 ((y.1.toNat &&& (255 - y.2.1)) ||| (y.2.2.1 &&& y.2.1)))
  let m := m.writeVa p va new
  if x.2.any (fun b => b.2.2) then m.poisonVa p va else m

/-- Write bytes into the tile store of tile `d` from another tile; a tile being parked takes them in its image. -/
def Mach.foreignStore (m : Mach) (lid : Word) (slot : Nat) (p : PartId) (d : TileId) (bs : List (Nat × WByte)) : Mach :=
  let waits := bs.map (fun b => (⟨b.1, b.2.mask, b.2.val, b.2.pois⟩ : KWrite))
  match m.whereIs lid slot p d with
  | .onTile =>
    if (m.tile d).halting then m.modTile d (fun t => { t with kwrites := t.kwrites ++ waits })
    else (m.eccWrites d (bs.map (fun b => (b.1, b.2.mask))) []).modCtx d (fun c => c.putForeign bs)
  | .kennel t =>
    m.modTile t (fun x =>
      if x.kwrites = [] then { x with kennel := x.kennel.map (fun im => { im with ctx := im.ctx.putForeign bs }) }
      else { x with kwrites := x.kwrites ++ waits })
  | .spilled n =>
    let base := m.imageAddr p n + 0x1000
    (foreignRuns (foreignBytes bs)).foldl (fun (m : Mach) x => m.foreignRun p base x) m
  | .gone => m

/-- Signal a semaphore of tile `d` from another tile; false if it would overflow. -/
def Mach.foreignSignal (m : Mach) (lid : Word) (slot : Nat) (p : PartId) (d : TileId) (sem : BitVec 5) (amt : Nat) :
    Mach × Bool :=
  match m.whereIs lid slot p d with
  | .onTile =>
    let (c, ok) := (m.ctx d).signal sem amt
    (m.modCtx d (fun _ => c), ok)
  | .kennel t =>
    match (m.tile t).kennel with
    | some im =>
      let (c, ok) := im.ctx.signal sem amt
      (m.modTile t (fun x => { x with kennel := some { im with ctx := c } }), ok)
    | none => (m, true)
  | .spilled n =>
    let a := m.imageAddr p n + 0x200 + 4 * sem.toNat
    let m := m.portVa p a 4
    let v := ofBytes (m.readVa p a 4) + amt
    if 65535 < v then (m, false) else (m.writeVa p a (toBytes 4 v), true)
  | .gone => (m, true)

/-- The tiles TMASK names. -/
def bcastTiles (v : Env) : List TileId :=
  ((List.range 8).filter (fun k => tst v.b.d15.toNat k)).map (fun k => tileOf v.t.cluster (BitVec.ofNat 3 k))

/-- ld.bcast (R334). -/
def ldBcastStep (b : Block) : BlockStep :=
  { code := 0x003, b := b,
    body := fun _ v its => do
      let own := (bcastTiles v).contains v.t
      let _ ← its.mapM (fun i => do
        let (x, p) ← readOp v v.b.op1 i
        let c := operandCoords v.b.op0 i
        writeCoordsTo v Dst.bcast v.b.op0 c x p
        if own then writeCoords v v.b.op0 c x p else return ())
      return (),
    after := fun v plan k m =>
      match (m.tile v.t).bind with
      | none => m
      | some bd =>
        let bs := k.out.reverse.filterMap (fun (x : WByte) => match x.dst with
          | .bcast a => some (a, x)
          | _ => none)
        let others := (bcastTiles v).filter (· ≠ v.t)
        let m := others.foldl (fun (m : Mach) d => m.foreignStore bd.lid bd.slot v.p d bs) m
        let amt := bits v.b.d15.toNat 16 13
        let sem := v.b.d15.extractLsb' 8 5
        let n := if amt = 0 then 0 else plan.ends
        let (m, ok) := ((bcastTiles v).flatMap (fun d => List.replicate n d)).foldl (fun (acc : Mach × Bool) d =>
          let (m, ok) := acc.1.foreignSignal bd.lid bd.slot v.p d sem amt
          (m, acc.2 && ok)) (m, true)
        if ok then m else m.chainFault v.t v.e v.j .lbSemovf }

/-- ld.bcast (R334). -/
def execLdBcast (b : Block) (s : State) : Host.Outcome State Fault Refusal := (ldBcastStep b).run s

/-! ### Prefetch (R336) -/

/-- What NF skips: a failed translation, a non-zero STATUS. -/
def skippable : Stop → Bool
  | .page _ _ _ => true
  | .fault c => c = .lbAccess || c = .lbPoison || c = .badop || c = .noroute || c = .hoplimit

/-- Read a source element, or none where NF skips it. -/
def readOr (nf : Bool) (rd : StepM (Nat × Bool)) : StepM (Option (Nat × Bool)) := fun k =>
  match rd k with
  | .ok ((x, p), k') => .ok (if nf && p then none else some (x, p), k')
  | .error (e, m) => if nf && skippable e then .ok (none, { k with m := m }) else .error (e, m)

/-- ld.pref (R336). -/
def ldPrefStep (b : Block) : BlockStep :=
  { code := 0x005, b := b,
    body := fun _ v its => do
    let _ ← its.mapM (fun i => do
      match ← readOr (v.b.d15.getLsbD 0) (readElem v v.b.op1 i 0) with
      | some (x, p) => writeElem v v.b.op0 i x p
      | none => return ())
    return () }

/-- ld.pref (R336). -/
def execLdPref (b : Block) (s : State) : Host.Outcome State Fault Refusal := (ldPrefStep b).run s

/-! ### Reduction at memory (R337) -/

/-- The code of R27 for ROP and destination format: `max` on fp32 is code 4. -/
def reduceCode (d15 : Dword) (f : Byte) : Nat := if bits d15.toNat 2 0 = 3 ∧ f = 1 then 4 else bits d15.toNat 2 0

/-- The checks of an update at a location of the own die, as for an atomic: the access tables, then poison (R170, R331). -/
def checkUpdate (v : Env) (p : Place) (n : Nat) : StepM Unit := do
  let m ← getM
  match p with
  | .here pa =>
    if paDie pa = v.t.die then
      let (ok, m) := m.checkGrant pa (masterEngine v.p) .atomic false
      let m := if ok then m.decodeRange pa n else m
      setM m
      need ok .lbAccess
      noteSectors pa n
      need (!m.poisoned pa n) .lbPoison
    else return ()
  | .host _ => stopWith .lbAccess
  | _ => return ()

/-- st.reduce (R337): the source is read, the location checked as for an atomic, and the update performed at its port. -/
def stReduceStep (b : Block) : BlockStep :=
  { code := 0x303, b := b,
    body := fun m v its => do
    let w := (m.ctx v.t).win v.b.op0.index.toNat
    let rop := reduceCode v.b.d15 (winFmt w v.b.op0)
    let n := reduceSize rop
    let _ ← its.mapM (fun i => do
      let (x, p) ← readOp v v.b.op1 i
      need (!p) .lbPoison
      match w.elemAt v.charea (operandCoords v.b.op0 i) (8 * n) with
      | none => stopWith .lbRange
      | some (a, _) =>
        match ← targetOf v w a n .atomic with
        | .mem pl =>
          checkUpdate v pl n
          emitByte ⟨.red pl n, rop, x, false⟩
        | _ => return ())
    return () }

/-- st.reduce (R337). -/
def execStReduce (b : Block) (s : State) : Host.Outcome State Fault Refusal := (stReduceStep b).run s

end Sys2Proof.Machine
end

