-- ==== Sys2Proof/Machine/Mx.lean ====
section
/-! DEFINITION. The matrix operators (R342-R360): weight planes and their loading, products into accumulators, initialising,
reading, draining, sending and rebasing accumulator tiles, and what the replay window keeps of them (R131-R135). -/
namespace Sys2Proof.Machine

/-! ### The replay window around a step -/

/-- The chain has come back to the first drain that the replay does not skip. -/
def Ctx.drainsReached (c : Ctx) : Ctx :=
  match c.ext.replaying with
  | some (a, some p) => if p = c.mx.point then { c with ext := { c.ext with replaying := some (a, none) } } else c
  | _ => c

/-- Is a drain of a replay one that had completed before the error (R134). -/
def Ctx.skipsDrains (c : Ctx) : Bool :=
  match c.ext.replaying with
  | some (_, some _) => true
  | _ => false

/-- What an MX operator writes is remembered by the replay window (R132) and in the tile's W bit (R143). -/
def Ctx.wrote (c : Ctx) (tiles init : List Nat) : Ctx :=
  let c := tiles.foldl (fun (c : Ctx) n =>
    { c with acfg := tput 0 c.acfg n (c.accCfg n ||| 0x4000000000000000),
             ext := { c.ext with writ := nins n c.ext.writ } }) c
  { c with ext := { c.ext with init := init.foldl (fun s e => nins e s) c.ext.init } }

/-- A compared element differs from its check copy (R130): what the block has written is poisoned, and the window replays
or the chain faults. -/
def Mach.dupMismatch (m : Mach) (t : TileId) : Mach :=
  let c := m.ctx t
  let new := (c.ext.drained.foldl (fun s a => nins (a / 8) s) []).filter (fun w => !c.storePois.contains w)
  let c := { c with storePois := new.foldl (fun s w => nins w s) c.storePois,
                    ext := { c.ext with dupPois := new.foldl (fun s w => nins w s) c.ext.dupPois } }
  (m.modCtx t (fun _ => c)).mxError t .mxDupmismatch [(4, 16)] (c.ext.drainAt.map (·.1))

/-- A fault of an MX step: a mismatch and an absent destination have their own ways; poison and bad metadata leave the plane of a
weight load at format none (R345, R346). -/
def Mach.mxFault (m : Mach) (t : TileId) (code : Nat) (b : Block) (c : Cause) : Mach :=
  if c = .mxDupmismatch then m.dupMismatch t
  else if c = .glAbsent then m.glPark t
  else
    let m := if (code = 0x101 ∨ code = 0x102) ∧ (c = .lbPoison ∨ c = .mxSpmeta) then
        let n := bits b.d15.toNat 0 0
        m.modCtx t (fun k =>
          let p : Plane := { Plane.none with held := (k.ext.plane n).held, heldWin := (k.ext.plane n).heldWin }
          { k with ext := k.ext.setPlane n p })
      else m
    m.stepFault t .mx c

/-- An MX operator's step: the replay window has a look before it, and faults have their own ways. -/
def mxStep (code : Nat) (b : Block) (wk : Nat) (pipe : Bool) (body : Mach → Env → List Ix → StepM Unit)
    (after : Env → Plan → Wk → Mach → Mach) : BlockStep :=
  { code := code, b := b, wk := wk, pipe := pipe, body := body, after := after,
    before := fun t m => m.modCtx t Ctx.drainsReached,
    onFault := fun t _ m c => m.mxFault t code b c }

/-! ### Weight planes (R344-R348) -/

/-- What one step of a weight load reads: (column, row or entry, code), index codes, and scales (column, group, code). -/
structure Weights where
  w : List (Nat × Nat × Nat)
  rows : List (Nat × Nat × Nat)
  scale : List (Nat × Nat × Nat)

/-- A weight, index or scale element; poison faults. -/
def readClean (v : Env) (o : Operand) (i : Ix) (rk : Nat) : StepM Nat := do
  let (x, p) ← readElem v o i rk
  need (!p) .lbPoison
  return x

/-- What row `r` of the step of a weight load sees: one row issues per cycle (R352). -/
def loadRow (v : Env) (its : List Ix) (r : Nat) : Env :=
  let r0 := (its.headD (0, 0, 0, 0)).2.1
  v.row (v.wr + 1 - v.rd) (r - r0)

/-- The reads of wload (R345). -/
def wloadReads (v : Env) (its : List Ix) (rk : Nat) : StepM Weights := do
  let nb := bits v.b.d15.toNat 23 16
  let kb := bits v.b.d15.toNat 15 8
  let l ← its.mapM (fun i => do
    let v := loadRow v its i.2.1
    let x ← readClean v v.b.op1 i rk
    let sc ← if v.b.op2.kind = 1 ∧ i.2.1 = 0 then do
        let y ← readClean v v.b.op2 (i.1, 0, 0, 0) rk
        pure [(nb + i.1, 0, y)]
      else pure []
    return ((nb + i.1, kb + i.2.1, x), sc))
  return ⟨l.map (·.1), [], (l.map (·.2)).flatten⟩

/-- Groups of a sparse plane (R346). -/
def sparseG (n : Nat) : Nat := Nat.min (128 / n) 4

/-- The metadata check of wloads (R346): below 128 and strictly ascending in every group of every column. -/
def metaOk (v : Env) (n rk : Nat) : StepM Unit := do
  let _ ← (List.range v.b.b0.toNat).mapM (fun i0 =>
    (List.range (sparseG n)).mapM (fun g => do
      let l ← (List.range n).mapM (fun j => readClean v v.b.op2 (i0, g * n + j, 0, 0) rk)
      need (l.all (fun x => decide (x < 128)) && (l.zip (l.drop 1)).all (fun p => decide (p.1 < p.2))) .mxSpmeta))
  return ()

/-- The reads of wloads (R346): every entry sets its column's scales again. -/
def wloadsReads (v : Env) (its : List Ix) (rk : Nat) : StepM Weights := do
  let nb := bits v.b.d15.toNat 23 16
  let n := bits v.b.d15.toNat 13 8 + 1
  let l ← its.mapM (fun i => do
    let v := loadRow v its i.2.1
    let x ← readClean v v.b.op1 i rk
    let k ← readClean v v.b.op2 i rk
    let sc ← if v.b.op3.kind = 1 then
        (List.range (sparseG n)).mapM (fun g => do
          let y ← readClean v v.b.op3 (i.1, g, 0, 0) rk
          pure (nb + i.1, g, y))
      else pure []
    return ((nb + i.1, i.2.1, x), (nb + i.1, i.2.1, 128 * (i.2.1 / n) + k + 1), sc))
  return ⟨l.map (·.1), l.map (·.2.1), (l.map (·.2.2)).flatten⟩

/-- A plane with what a step has read. -/
def Plane.fill (p : Plane) (x : Weights) : Plane :=
  let key := fun (y : Nat × Nat × Nat) => if p.sparse then y.1 * 128 + y.2.1 else y.2.1 * 128 + y.1
  { p with
    w := x.w.foldl (fun t y => tput 0 t (key y) y.2.2) p.w
    rows := x.rows.foldl (fun t y => tput 0 t (key y) y.2.2) p.rows
    scale := x.scale.foldl (fun t y => tput 128 t (y.1 * 4 + y.2.1) y.2.2) p.scale }

/-- The plane a load starts from. -/
def freshPlane (v : Env) (f : Byte) (sparse : Bool) (old : Plane) : Plane :=
  { Plane.none with fmt := f, sparse := sparse, n := if sparse then bits v.b.d15.toNat 13 8 + 1 else 0,
                    blk := BitVec.ofNat 12 v.j, held := old.held, heldWin := old.heldWin }

/-- One step of a weight load. -/
def loadStep (v : Env) (its : List Ix) (sparse : Bool) : StepM Unit := do
  let m ← getM
  let k := bits v.b.d15.toNat 0 0
  let first := its.any (fun i => i = (0, 0, 0, 0))
  let p := (m.ctx v.t).ext.plane k
  let p := if first then freshPlane v (rdFmt m v.t v.b.op1) sparse p else p
  if sparse && first then metaOk v p.n 3 else pure ()
  let x ← if sparse then wloadsReads v its 3 else wloadReads v its 3
  let m ← getM
  setM (m.modCtx v.t (fun c => { c with ext := c.ext.setPlane k (p.fill x) }))

/-- mx.wload (R345). -/
def mxWloadStep (b : Block) : BlockStep :=
  mxStep 0x101 b 0 false (fun _ v its => loadStep v its false) noAfter

/-- mx.wload (R345). -/
def execMxWload (b : Block) (s : State) : Host.Outcome State Fault Refusal := (mxWloadStep b).run s

/-- mx.wloads (R346). -/
def mxWloadsStep (b : Block) : BlockStep :=
  mxStep 0x102 b 0 false (fun _ v its => loadStep v its true) noAfter

/-- mx.wloads (R346). -/
def execMxWloads (b : Block) (s : State) : Host.Outcome State Fault Refusal := (mxWloadsStep b).run s

/-- Rebuild a plane from the block recorded for it (R348): all of it, or the steps that a block still in progress has
completed. -/
def Mach.rebuildPlane (m : Mach) (t : TileId) (k : Nat) : Mach :=
  let c := m.ctx t
  let p := c.ext.plane k
  if p.fmt = 0 then m
  else
    match decodeBlock .mx (c.blockWords (m.chareaOf t) p.blk.toNat) with
    | .ok i =>
      match i.block? with
      | some (code, b) =>
        let v := { m.env t .mx b 1 with j := p.blk.toNat }
        let rows := if c.mx.cur = p.blk.toNat ∧ c.mx.latched.isSome then c.mx.i1 else b.b1.toNat
        let its := ((List.range rows).map (fun r => (List.range b.b0.toNat).map (fun n => (n, r, 0, 0)))).flatten
        let fresh := { freshPlane v p.fmt p.sparse p with blk := p.blk }
        let k0 : Wk := ⟨m, [], 0, [], false, [], [], [], false, []⟩
        match (if code = 0x102 then wloadsReads v its 0 else wloadReads v its 0) k0 with
        | .ok (x, _) => m.modCtx t (fun c => { c with ext := c.ext.setPlane k (fresh.fill x) })
        | .error _ => m.modCtx t (fun c => { c with ext := c.ext.setPlane k { Plane.none with held := p.held, heldWin := p.heldWin } })
      | none => m
    | _ => m.modCtx t (fun c => { c with ext := c.ext.setPlane k { Plane.none with held := p.held, heldWin := p.heldWin } })

/-! ### Products (R349-R351) -/

/-- Elements popped one by one from a ring; a poisoned one faults. -/
def popClean (v : Env) (o : Operand) : Nat → StepM (List Nat)
  | 0 => pure []
  | n + 1 => do
    let (x, p) ← ringPop v o (storeKind v.e)
    need (!p) .lbPoison
    let r ← popClean v o n
    return x :: r

/-- The terms of column `n` (R349): row index, weight code, scale code. -/
def Plane.terms (p : Plane) (n klen : Nat) : List (Nat × Nat × Nat) :=
  if p.sparse then
    (List.range (sparseG p.n * p.n)).filterMap (fun e =>
      let k := tget 0 p.rows (n * 128 + e)
      if k = 0 ∨ klen < k then Option.none
      else some (k - 1, tget 0 p.w (n * 128 + e), tget 128 p.scale (n * 4 + (k - 1) / 128)))
  else (List.range klen).map (fun k => (k, tget 0 p.w (k * 128 + n), tget 128 p.scale (n * 4)))

/-- Add terms to an entry of an accumulator tile. -/
def addTerms (v : Env) (e : Nat) (ts : List Val) (anchor : Int) : StepM Unit := do
  let x ← readAcc v e 4
  writeAcc e (ts.foldl (fun x p => aqAccumulate x p anchor) x)

/-- One activation row of mx.mma (R349, R351). -/
def mmaRow (v : Env) (i : Ix) : StepM Unit := do
  let m ← getM
  let c := m.ctx v.t
  let d := v.b.d15.toNat
  let klen := bits d 17 8 + 1
  let p := c.ext.plane (bits d 0 0)
  let af := rdFmt m v.t v.b.op1
  let a ← popClean v v.b.op1 klen
  let sa ← if v.b.op2.kind = 2 then popClean v v.b.op2 (cdiv klen 128) else pure []
  let pos := operandCoords v.b.op0 i
  let tiles := v.b.op0.index.toNat :: (if v.b.dup then [bits d 37 32] else [])
  let _ ← (List.range (bits d 30 24 + 1)).mapM (fun n => do
    let ts := (p.terms n klen).map (fun (x : Nat × Nat × Nat) =>
      aqProduct (inVal af v.b.ftzi (a.getD x.1 0)) (inVal p.fmt v.b.ftzi x.2.1)
        (inVal b8p1u false (sa.getD (x.1 / 128) 128)) (inVal b8p1u false x.2.2))
    let _ ← tiles.mapM (fun q => do
      let e ← accEntry v q (pos.set 0 (pos.getD 0 0 + Int.ofNat n))
      addTerms v e ts (accAnchor (c.accCfg q)))
    return ())
  return ()

/-- Multiply-accumulates of `rows` activation rows of an mx.mma (R349): every term of every column, twice under DUP (R130; log 144). -/
def mmaTerms (p : Plane) (b : Block) (rows : Nat) : Nat :=
  let d := b.d15.toNat
  let cols := (List.range (bits d 30 24 + 1)).map (fun n => (p.terms n (bits d 17 8 + 1)).length)
  rows * cols.foldl (· + ·) 0 * (if b.dup then 2 else 1)

/-- Multiply-accumulates are counted in units of 1,024 (R157). -/
def Ctx.countMacs (c : Ctx) (n : Nat) : Ctx :=
  { c with macs := (c.macs + n) % 1024 }.tileEvent 0x0B ((c.macs + n) / 1024)

/-- mx.mma (R349): its rows issue one after another (R352). -/
def mxMmaStep (b : Block) : BlockStep :=
  let chk := bits b.d15.toNat 37 32
  mxStep 0x103 b 4 true
    (fun _ v its => do
      let _ ← its.zipIdx.mapM (fun (x : Ix × Nat) => mmaRow (v.row its.length x.2) x.1)
      return ())
    (fun v plan _ m => m.modCtx v.t (fun c =>
      let n := b.op0.index.toNat
      let c := c.countMacs (mmaTerms (c.ext.plane (bits b.d15.toNat 0 0)) b plan.its.length)
      let c := c.wrote (n :: (if b.dup then [chk] else [])) []
      { c with ext := { c.ext with
          dup := tput (false, 0) c.ext.dup n (b.dup, if b.dup then BitVec.ofNat 6 chk else 0) } }))

/-- mx.mma (R349). -/
def execMxMma (b : Block) (s : State) : Host.Outcome State Fault Refusal := (mxMmaStep b).run s

/-! ### Initialising (R353, R354) -/

/-- The entries a step has written are initialised in the window (R351). -/
def initAfter (b : Block) (v : Env) (_ : Plan) (k : Wk) (m : Mach) : Mach :=
  m.modCtx v.t (fun c => c.wrote [b.op0.index.toNat] (k.acc.map (·.1)))

/-- mx.azero (R353). -/
def mxAzeroStep (b : Block) : BlockStep :=
  mxStep 0x104 b 5 false
    (fun _ v its => do
      let _ ← its.mapM (fun i => do
        let e ← accEntry v v.b.op0.index.toNat (operandCoords v.b.op0 i)
        writeAcc e AqEntry.zero)
      return ())
    (initAfter b)

/-- mx.azero (R353). -/
def execMxAzero (b : Block) (s : State) : Host.Outcome State Fault Refusal := (mxAzeroStep b).run s

/-- mx.afill (R354): aq128 elements are written as they are. -/
def mxAfillStep (b : Block) : BlockStep :=
  mxStep 0x105 b 5 false
    (fun m v its => do
      let f := rdFmt m v.t v.b.op1
      let anchor := accAnchor ((m.ctx v.t).accCfg v.b.op0.index.toNat)
      let _ ← its.mapM (fun i => do
        let e ← accEntry v v.b.op0.index.toNat (operandCoords v.b.op0 i)
        let (x, p) ← readOp v v.b.op1 i
        need (!p) .lbPoison
        let q := BitVec.ofNat 128 x
        writeAcc e (if f = 7 then { AqEntry.zero with i := q, cnt := BitVec.ofNat 32 (Nat.min (aqTerms q) cntMax) }
          else aqFromValue (inVal f v.b.ftzi x) anchor))
      return ())
    (initAfter b)

/-- mx.afill (R354). -/
def execMxAfill (b : Block) (s : State) : Host.Outcome State Fault Refusal := (mxAfillStep b).run s

/-! ### Reading and draining (R355, R356, R130) -/

/-- The entry of an element to be drained; of a DUP tile it is compared with its check copy. -/
def drainEntry (v : Env) (i : Ix) : StepM AqEntry := do
  let m ← getM
  let n := v.b.op1.index.toNat
  let e ← accEntry v n (operandCoords v.b.op1 i)
  let x ← readAcc v e 5
  let (dup, chk) := tget (false, 0) (m.ctx v.t).ext.dup n
  if !dup then return x
  else
    let e' ← accEntry v chk.toNat (operandCoords v.b.op1 i)
    let y ← readAcc v e' 5
    need (x.i = y.i && x.spec = y.spec && x.loss = y.loss && x.range = y.range) .mxDupmismatch
    return x

/-- An epilogue operand (R356), 1 or 0 where there is none. -/
def epiOperand (v : Env) (o : Operand) (i : Ix) : StepM (Option Val) :=
  if o.kind = 1 then do
    let x ← readClean v o i 3
    return some (inVal 1 v.b.ftzi x)
  else pure none

/-- drain_value (R356): the exact value and the flags of its operations. -/
def drainValue (b : Block) (y : Val) (s c : Option Val) : Val × BitVec 16 :=
  let (y, f1) := match s with
    | some s => valMul y s
    | none => (y, 0)
  let (y, f2) := match c with
    | some c => valAdd b.rm y c
    | none => (y, 0)
  let act := bits b.d15.toNat 1 0
  let y := if act = 1 then valMax y (.num false 0 0)
    else if act = 2 then
      valMin (valMax y (decodeF bf16 (bits b.d15.toNat 47 32))) (decodeF bf16 (bits b.d15.toNat 63 48))
    else y
  (y, f1 ||| f2)

/-- One step of a read or drain: conversion under RM, SAT, SMAP and FTZO, with the flags of R206 and R210. -/
def drainStep (v : Env) (its : List Ix) (epi : Bool) : StepM Unit := do
  let m ← getM
  let f := drainFmt m v.t v.b
  let anchor := accAnchor ((m.ctx v.t).accCfg v.b.op1.index.toNat)
  let _ ← its.mapM (fun i => do
    let x ← drainEntry v i
    let s ← if epi then epiOperand v v.b.op2 i else pure none
    let c ← if epi then epiOperand v v.b.op3 i else pure none
    addFlags (aqFlags x)
    if f = 7 then writeOp v v.b.op0 i x.i.toNat false
    else do
      let r := if epi then drainValue v.b (aqValue x anchor v.b.smap) s c else (aqValue x anchor v.b.smap, 0)
      let (y, fl) := outRes f v.b.rm v.b.sat v.b.ftzo r
      addFlags fl
      writeOp v v.b.op0 i y false)
  return ()

/-- The bytes that a drain of a DUP tile has written so far; the whole drain of a replay has rewritten every element that its
mismatch had poisoned (R130). -/
def drainAfter (v : Env) (plan : Plan) (k : Wk) (m : Mach) : Mach :=
  m.modCtx v.t (fun c =>
    if (tget (false, 0) c.ext.dup v.b.op1.index.toNat).1 then
      let put := fun (s : NSet) (x : WByte) => match x.dst with
        | .store a => nins a s
        | _ => s
      let c := { c with ext := { c.ext with drained := k.out.foldl put c.ext.drained } }
      if plan.next.isSome then c
      else { c with storePois := c.storePois.filter (fun w => !c.ext.dupPois.contains w), ext := { c.ext with dupPois := [] } }
    else c)

/-- A drain; in a replay one that had completed only moves on, without output or signal (R134): those that its part before the window
withheld have been given too. -/
def drainOf (code : Nat) (b : Block) (epi skip : Bool) : BlockStep :=
  if skip then
    mxStep code { b with op0 := { b.op0 with opf := 0 } } 0 true (fun _ _ _ => pure ())
      (fun v _ _ m => m.modCtx v.t (fun c =>
        { c with mx := { c.mx with due := 0, dueSig := [] }, ext := { c.ext with withheld := [] } }))
  else mxStep code b 0 true (fun _ v its => drainStep v its epi) drainAfter

/-- The drain about to be run on a tile is one that a replay skips. -/
def Mach.skipsDrain (m : Mach) (t : TileId) : Bool := (m.ctx t).drainsReached.skipsDrains && !(m.tile t).parity

/-- mx.aread (R355). -/
def execMxAread (b : Block) (s : State) : Host.Outcome State Fault Refusal :=
  (drainOf 0x106 b false (s.m.skipsDrain s.turn.tile)).run s

/-- mx.adrain (R356). -/
def execMxAdrain (b : Block) (s : State) : Host.Outcome State Fault Refusal :=
  (drainOf 0x107 b true (s.m.skipsDrain s.turn.tile)).run s

/-! ### Gangline (R225-R227, R357) -/

/-- Indices of a step of a whole tile from element `k` on (R357, R358). -/
def flatStep (cfg : Dword) (k : Nat) : List Nat :=
  (List.range (Nat.min 64 (tileSize cfg - k))).map (fun j => k + j)

/-- The entry of element `k` in row-major order. -/
def flatEntry (cfg : Dword) (k : Nat) : Nat :=
  entryAt (accRow0 cfg + k / (accNCol cfg + 1)) (accCol0 cfg + k % (accNCol cfg + 1))

/-- The checks of R225 at a block's first step. -/
def glChecks (cfg h : Dword) : StepM Unit := do
  need (h.getLsbD 63 && !h.getLsbD 62) .glHandle
  need (accNRow cfg = bits h.toNat 17 11 && accNCol cfg = bits h.toNat 10 4) .glHandle
  need (accAnchor cfg = (h.extractLsb' 18 11).toInt) .glAnchor
  need (!h.getLsbD 61) .glAbsent

/-- Consecutive indices in messages of at most four (R226). -/
def glGroups : List (Nat × AqEntry) → List (List (Nat × AqEntry))
  | [] => []
  | x :: r =>
    match glGroups r with
    | [] => [[x]]
    | g :: gs =>
      match g with
      | [] => [x] :: gs
      | y :: _ => if x.1 + 1 = y.1 ∧ g.length < 4 then (x :: g) :: gs else [x] :: g :: gs

/-- A gangline message (R226). -/
def glMsg (m : Mach) (t : TileId) (p : PartId) (h : Dword) (cls : BitVec 4) (g : List (Nat × AqEntry)) : Msg :=
  let fl := fun (x : AqEntry) => x.spec.toNat + b2n x.loss * 4 + b2n x.range * 8
  let flags := (g.zipIdx.map (fun y => fl y.1.2 * 2 ^ (4 * y.2))).foldl (· + ·) 0
  let dt : TileId := h.extractLsb' 40 8
  let addr := p.toNat * 2 ^ 49 + flags * 2 ^ 33 + (g.headD (0, AqEntry.zero)).1 * 2 ^ 19 + bits h.toNat 36 29 * 2 ^ 11 +
    bits h.toNat 39 37 * 2 ^ 8 + dt.toNat
  { blankMsg with op := 0x20, addr := BitVec.ofNat 56 addr, ddie := dt.die,
                  dpkg := if h.getLsbD 60 then h.extractLsb' 48 12 else m.pkg, sagent := sagentGang t, cls := cls,
                  data := g.map (fun y => y.2.i) }

/-- mx.glsend (R357): a step sends the elements that its mask does not list. A handle that IMPORT has marked absent parks the block in
progress too (R227). -/
def mxGlsendStep (b : Block) : BlockStep :=
  mxStep 0x108 b 0 true
    (fun m v _ => do
      let c := m.ctx v.t
      let x := c.mx
      let cfg := c.accCfg v.b.op1.index.toNat
      let h := if x.glh = 0 then c.handle (v.b.d15.extractLsb' 0 3) else x.glh
      if x.glh = 0 then glChecks cfg h else need (!(c.handle (v.b.d15.extractLsb' 0 3)).getLsbD 61) .glAbsent
      let _ ← ((flatStep cfg x.i0).filter (fun k => !x.glmask.getLsbD (k % 64))).mapM (fun k => do
        let y ← readAcc v (flatEntry cfg k) 5
        addFlags (aqFlags y)
        sendAcc k y)
      return ())
    (fun v _ k m =>
      let c := m.ctx v.t
      let h := if c.mx.glh = 0 then c.handle (v.b.d15.extractLsb' 0 3) else c.mx.glh
      let m := m.modCtx v.t (fun c => { c with ext := { c.ext with glb := true }, mx := { c.mx with glh := h } })
      (glGroups k.got).foldl (fun (m : Mach) g =>
        let x := glMsg m v.t v.p h v.b.cls g
        let m := m.modChain v.t .mx (fun y => { y with outw := y.outw + 1 })
        match m.ask v.t.die x (.gang v.t (g.headD (0, AqEntry.zero)).1 g.length) (.here 0) with
        | some m => m
        | none => m) m)

/-- The die that the messages of an `mx.glsend` go to: that of the handle the block has latched, else of its handle. -/
def Mach.glDest (m : Mach) (t : TileId) (b : Block) : BitVec 12 × DieId :=
  let c := m.ctx t
  let h := if c.mx.glh = 0 then c.handle (b.d15.extractLsb' 0 3) else c.mx.glh
  (if h.getLsbD 60 then h.extractLsb' 48 12 else m.pkg, Sys2Proof.TileId.die (h.extractLsb' 40 8))

/-- mx.glsend (R357): it waits while fewer than 64 tags to its target are free (R32). -/
def execMxGlsend (b : Block) (s : State) : Host.Outcome State Fault Refusal :=
  let t := s.turn.tile
  if !s.m.tagRoom t.die (List.replicate 64 (s.m.glDest t b)) then .next s else (mxGlsendStep b).run s

/-! ### Rebasing (R358) -/

/-- mx.arebase (R358): the anchor is written with the last step. -/
def mxArebaseStep (b : Block) : BlockStep :=
  let anew := (b.d15.extractLsb' 0 11).toInt
  let n := b.op0.index.toNat
  mxStep 0x109 b 6 true
    (fun m v _ => do
      let c := m.ctx v.t
      let cfg := c.accCfg n
      need (!c.reserved n) .glAnchor
      let _ ← (flatStep cfg c.mx.i0).mapM (fun k => do
        let y ← readAcc v (flatEntry cfg k) 5
        writeAcc (flatEntry cfg k) (aqRebase y (accAnchor cfg) anew))
      return ())
    (fun v plan _ m => m.modCtx v.t (fun c =>
      let c := c.wrote [n] []
      if plan.next.isSome then c
      else { c with acfg := tput 0 c.acfg n (setBits (c.accCfg n) 42 32 (bits b.d15.toNat 10 0)) }))

/-- mx.arebase (R358). -/
def execMxArebase (b : Block) (s : State) : Host.Outcome State Fault Refusal := (mxArebaseStep b).run s

end Sys2Proof.Machine
end

