-- ==== Sys2Proof/Machine/Sched.lean ====
section
/-! DEFINITION. The die schedulers: partitions on clusters (R92, R93), teams and tickets (R94, R95, R98), slots and the start of
their threads (R96), priming (R100), retirement of items, the contribution log (R125), and the rounds of TKPULL (R97). -/
namespace Sys2Proof.Machine

/-! ### Reads by the Herder and the die schedulers -/

/-- A read that failed: its address, and the failed walk, or none where it returned poison or a STATUS. -/
structure HFail where
  va : Nat
  walk : Option WalkFail
deriving DecidableEq, Repr

/-- REASON and LEVEL of the record a failed read is reported with (R91, R176). -/
def HFail.reason (f : HFail) : Nat := (f.walk.map (·.reason)).getD 5
def HFail.level (f : HFail) : Nat := (f.walk.map (·.level)).getD 0

/-- The replica that the Herder reads (R169): that of its own die if the die is a member, else the sequencer's, where that is in
this package. -/
def Mach.replicaPa (m : Mach) (set : BitVec 16) (off : Nat) : Option Nat :=
  let d := m.herderDie
  let q := m.sequencer d set
  if m.isMember set d then some (hbmPa d off) else if q.1 = m.pkg then some (hbmPa q.2 off) else none

/-- One dword of a partition's memory read at a physical address of the package. -/
def Mach.hreadPa (m : Mach) (va pa : Nat) : Except (HFail × Mach) (Dword × Mach) :=
  let (ok, m) := m.checkGrant pa masterHerder .read false
  if !ok then .error (⟨va, none⟩, m)
  else
    let (v, pois, m) := m.readPa pa 8
    if pois then .error (⟨va, none⟩, m) else .ok (BitVec.ofNat 64 v, m)

/-- One dword of a partition's memory (R70, R86, R91, R100); a page of another package answers with free values
(log 5). -/
def Mach.hread (m : Mach) (p : PartId) (va : Nat) : Except (HFail × Mach) (Dword × Mach) :=
  let w := Walker.die m.herderDie
  let m := m.walked w p va
  match m.translate w p va 8 .read false with
  | .bad w => .error (⟨va, some w⟩, m)
  | .ok (.here pa) _ => m.hreadPa va pa
  | .ok (.host ba) _ => .ok (BitVec.ofNat 64 (Memory.read m.hostMem ba 8), m)
  | .ok (.repl set off) _ =>
    match m.replicaPa set off with
    | some pa => m.hreadPa va pa
    | none => if Config.awayStatus m.fresh = 0 then .ok (Config.awayDword m.fresh, m.bump) else .error (⟨va, none⟩, m.bump)
  | .ok (.away pkg _) _ =>
    if !m.routed m.herderDie pkg || pkg = m.pkg then .error (⟨va, none⟩, m)
    else if Config.awayStatus m.fresh = 0 then .ok (Config.awayDword m.fresh, m.bump) else .error (⟨va, none⟩, m.bump)

/-- `n` dwords in address order; the first that fails ends the read. -/
def Mach.hreads (m : Mach) (p : PartId) (va : Nat) : Nat → Except (HFail × Mach) (List Dword × Mach)
  | 0 => .ok ([], m)
  | n + 1 =>
    match m.hread p va with
    | .error e => .error e
    | .ok (x, m) =>
      match m.hreads p (va + 8) n with
      | .error e => .error e
      | .ok (r, m) => .ok (x :: r, m)

/-! ### Partitions on clusters (R92) -/

def clusterOf (d : DieId) (k : Nat) : ClusterId := d ++ BitVec.ofNat 3 k

/-- The partitions a cluster lists, in rotation order. -/
def CluEntry.rotation (e : CluEntry) : List PartId :=
  ((List.range 4).filter (fun k => e.valid.getLsbD k)).map (fun k => e.parts.extractLsb' (4 * k) 4)

/-- The partition holds a cluster of the die. -/
def Mach.dieHolds (m : Mach) (p : PartId) (d : DieId) : Bool :=
  (List.range 8).any (fun k => (m.clu (clusterOf d k)).rotation.contains p)

/-! ### Shares (R94) and teams -/

def launchShare (b : LaunchBody) (d : Nat) : Nat :=
  if b.sh0 = 0 ∧ b.sh1 = 0 ∧ b.sh2 = 0 ∧ b.sh3 = 0 then 1
  else (if d = 0 then b.sh0 else if d = 1 then b.sh1 else if d = 2 then b.sh2 else b.sh3).toNat

/-- Effective weights of the four dies. -/
def Mach.weights (m : Mach) (p : PartId) (b : LaunchBody) : List Nat :=
  (List.range 4).map (fun d => if m.dieHolds p (BitVec.ofNat 2 d) then launchShare b d else 0)

/-- start(d): the first team of die `d` when `n` teams from `lo` on are shared by the weights. -/
def dieStart (w : List Nat) (lo n d : Nat) : Nat := lo + n * (w.take d).sum / w.sum

/-- T of a launch: ⌈COUNT / t⌉. -/
def Launch.teams (l : Launch) : Nat := cdiv l.count l.team

/-- The items of a range of teams. -/
def Launch.itemsIn (l : Launch) (lo hi : Nat) : Nat := Nat.min l.count (hi * l.team) - Nat.min l.count (lo * l.team)

/-- The item of team `j` at position `p`, if it exists. -/
def Launch.itemAt (l : Launch) (j p : Nat) : Option Word :=
  if j * l.team + p < l.count then some (BitVec.ofNat 32 (l.first + j * l.team + p)) else none

/-- Does an item belong to a team of this package's own range (R99). -/
def Launch.ownItem (l : Launch) (i : Word) : Bool :=
  let j := (i.toNat - l.first) / l.team
  decide (l.teamLo ≤ j ∧ j < l.teamHi)

/-! ### Tickets (R95, R98) -/

/-- The counter a launch holds on a die: its number, NEXT and END. -/
def Die.ticketOf (y : Die) (lid : Word) : Option (Nat × Ticket) :=
  (List.range 16).findSome? (fun k => match tget none y.tickets k with
    | some x => if x.lid = lid then some (k, x) else none
    | none => none)

def Die.freeTicket (y : Die) : Option Nat := (List.range 16).find? (fun k => (tget none y.tickets k).isNone)

/-- Every die on which the partition holds a cluster has a free counter. -/
def Mach.ticketRoom (m : Mach) (p : PartId) : Bool :=
  (List.range 4).all (fun d => !m.dieHolds p (BitVec.ofNat 2 d) || (m.die (BitVec.ofNat 2 d)).freeTicket.isSome)

/-- The launch takes the lowest free counter of each such die. -/
def Mach.takeTickets (m : Mach) (p : PartId) (lid : Word) (w : List Nat) (lo n : Nat) : Mach :=
  (List.range 4).foldl (fun (m : Mach) d =>
    if m.dieHolds p (BitVec.ofNat 2 d) then
      m.modDie (BitVec.ofNat 2 d) (fun y => match y.freeTicket with
        | some k => { y with tickets := tput none y.tickets k (some ⟨lid, dieStart w lo n d, dieStart w lo n (d + 1)⟩) }
        | none => y)
    else m) m

/-- Teams left on the counter of a die. -/
def Mach.teamsLeft (m : Mach) (lid : Word) (d : DieId) : Nat :=
  match (m.die d).ticketOf lid with
  | some (_, x) => x.stop - x.next
  | none => 0

/-- Teams that a steal finds on the counter of a die: none of a launch that is being exported (R112). -/
def Mach.teamsFor (m : Mach) (lid : Word) (d : DieId) : Nat :=
  match m.launch lid with
  | some l => if l.exported then 0 else m.teamsLeft lid d
  | none => 0

/-- The die a steal takes from, and its remaining count (R98). -/
def Mach.victim (m : Mach) (lid : Word) (d : DieId) : Option (DieId × Nat) :=
  (List.range 4).foldl (fun (best : Option (DieId × Nat)) k =>
    let e := BitVec.ofNat 2 k
    let n := m.teamsFor lid e
    if e = d || n < 2 then best
    else match best with
      | some (_, b) => if b < n then some (e, n) else best
      | none => some (e, n)) none

def Mach.setTicket (m : Mach) (d : DieId) (lid : Word) (f : Ticket → Ticket) : Mach :=
  m.modDie d (fun y => match y.ticketOf lid with
    | some (k, x) => { y with tickets := tput none y.tickets k (some (f x)) }
    | none => y)

/-- A range of teams of other packages, first and count, none of which has been taken before (R98). -/
def Launch.others (l : Launch) (g : Nat × Nat) : Bool :=
  ((l.teamLo, l.teamHi - l.teamLo) :: l.took).all (fun x => decide (g.1 + g.2 ≤ x.1 ∨ x.1 + x.2 ≤ g.1))

/-- A die whose counter is empty steals (R98); from another package of the group it takes what that package gives up
(log 14). -/
def Mach.steal (m : Mach) (lid : Word) (d : DieId) : Mach :=
  match m.victim lid d with
  | some (e, n) =>
    match (m.die e).ticketOf lid with
    | some (_, x) =>
      ((m.setTicket e lid (fun x => { x with stop := x.stop - n / 2 })).setTicket d lid
        (fun y => { y with next := x.stop - n / 2, stop := x.stop })).dieEvent d 0x26 1
    | none => m
  | none =>
    match m.launch lid with
    | some l =>
      let g := Config.stolenTeams m.fresh
      if l.lgid ≠ 0 ∧ l.exported = false ∧ g.1 + g.2 ≤ l.teams ∧ l.others g then
        (((m.setTicket d lid (fun y => { y with next := g.1, stop := g.1 + g.2 })).setLaunch lid (some
          { l with took := l.took ++ [g] })).bump).dieEvent d 0x26 1
      else m
    | none => m

/-- Teams a die could take now: its own, or those of a steal. -/
def Mach.canTake (m : Mach) (lid : Word) (d : DieId) : Nat :=
  let n := m.teamsLeft lid d
  if n ≠ 0 then n else match m.victim lid d with
    | some (_, v) => v / 2
    | none => 0

/-! ### Slots (R96) -/

def Mach.leaseOf (m : Mach) (u : UnitId) : Option LeaseRec :=
  (m.unit u).lease.map (fun n => tget LeaseRec.free (m.die (unitDie u)).leases n)

/-- A lease of a unit is DRAINING or TESTING. -/
def Mach.onLease (m : Mach) (u : UnitId) : Bool :=
  match m.leaseOf u with
  | some r => leaseState r = 2 || leaseState r = 3
  | none => false

def Mach.underLease (m : Mach) (t : TileId) : Bool := m.onLease (tileUnit t)

def Mach.draining (m : Mach) (t : TileId) : Bool :=
  match m.leaseOf (tileUnit t) with
  | some r => leaseState r = 2
  | none => false

/-- A position of a slot of the resident partition whose thread has ended keeps its tile until the slot dissolves (R96, R97). -/
def Mach.goneTile (m : Mach) (t : TileId) : Bool :=
  (List.range 64).any (fun n => match m.slot t.cluster n with
    | some sl => (sl.tiles.zipIdx).any (fun x => x.1 = t && nhas sl.gone x.2) &&
        ((m.launch sl.lid).map (fun l => decide ((m.clu t.cluster).resident = some l.part))).getD false
    | none => false)

/-- A tile that nothing holds and that can be given work. -/
def Mach.tileIdle (m : Mach) (t : TileId) : Bool :=
  let x := m.tile t
  x.bind.isNone && x.service = .inService && !x.halting && !m.underLease t && (m.thr t).sup.isNone && !m.goneTile t

/-- Tiles of the cluster neither leased nor retired (R118). -/
def Mach.avail (m : Mach) (c : ClusterId) : Nat :=
  ((tilesOf c).filter (fun t => (m.tile t).service = .inService)).length

/-- Tiles of the cluster whose slot holds an image of a partition that waits for a tile (R111). -/
def Mach.waitingImages (m : Mach) (c : ClusterId) (p : PartId) : List TileId :=
  (tilesOf c).filter (fun t => match (m.tile t).kennel with
    | some im => im.part = p
    | none => false)

/-- Insert into a list that rises by a first number, behind its equals. -/
def insertBy {α : Type} (x : Nat × α) : List (Nat × α) → List (Nat × α)
  | [] => [x]
  | y :: r => if x.1 < y.1 then x :: y :: r else y :: insertBy x r

/-- The parked items of a partition on a cluster, in kennel slots and spilled, by the time they were parked (R109, R111); none of
a partition that is being exported. -/
def Mach.parkedOn (m : Mach) (c : ClusterId) (p : PartId) : List (Nat × ImagePlace) :=
  let slots := (m.waitingImages c p).filterMap (fun t => (m.tile t).kennel.map (fun im => (im.parkedAt.toNat, ImagePlace.kennel t)))
  let spills := (m.part p).spilled.filterMap (fun x => x.2.bind (fun im =>
    if im.tile.cluster = c then some (im.parkedAt.toNat, ImagePlace.spill p x.1) else none))
  if (m.part p).exported then [] else (slots ++ spills).foldl (fun l x => insertBy x l) []

/-- The tile an item that has waited since a time resumes on (R111): the lowest of the idle tiles whose slot is empty, or holds the
item itself; with none, the first tile to become idle since then (of several at one time the lowest; log 158). -/
def Mach.resumeOn (m : Mach) (since : Nat) (w : ImagePlace) (idle : List TileId) : Option TileId :=
  let at_ := fun (t : TileId) => (m.tile t).idleAt.toNat
  (idle.find? (fun t => (m.tile t).kennel.isNone || w = .kennel t)).orElse (fun _ =>
    (((idle.filter (fun t => decide (since ≤ at_ t))).foldl (fun l t => insertBy (at_ t, t) l) []).head?).map (·.2))

/-- Which idle tiles the waiting items of a partition claim, the item parked longest first (R111). -/
def Mach.claims (m : Mach) (c : ClusterId) (p : PartId) : List (ImagePlace × TileId) :=
  let idle := (tilesOf c).filter m.tileIdle
  (m.parkedOn c p).foldl (fun (acc : List (ImagePlace × TileId)) x =>
    match m.resumeOn x.1 x.2 (idle.filter (fun t => !acc.any (fun y => y.2 = t))) with
    | some t => acc ++ [(x.2, t)]
    | none => acc) []

/-- Idle tiles in ascending order that no waiting item claims (R96, R111). -/
def Mach.freeTiles (m : Mach) (c : ClusterId) (p : PartId) : List TileId :=
  let taken := m.claims c p
  (tilesOf c).filter (fun t => m.tileIdle t && !taken.any (fun y => y.2 = t))

/-- The start of a supervising thread (R96). -/
def Mach.startThread (m : Mach) (t : TileId) (l : Launch) (k pos slot : Nat) : Mach :=
  let th := m.thr t
  let exit := Config.exitAddr m.fresh &&& ~~~3
  let keep := th.lastPart = some l.part
  let g0 : Tbl Dword := [(1, exit), (3, l.kernel.gp), (4, l.args.setWidth 64), (5, BitVec.ofNat 64 k),
    (6, BitVec.ofNat 64 l.team), (7, BitVec.ofNat 64 pos), (8, t.setWidth 64)]
  let m := m.bump.setThr t
    { Thread.reset with
      g := g0.filter (fun x => x.2 ≠ 0), pc := l.kernel.entry, st := .ready, ktvec := th.ktvec, kscratch := th.kscratch,
      kcap := BitVec.ofNat 4 (m.avail t.cluster), ktdbg := if keep then th.ktdbg else 0,
      kbpa := if keep then th.kbpa else [], fence := none, sup := some ⟨l.lid, none, pos, slot, exit, false, false⟩,
      lastPart := some l.part }
  let fresh := fun (x : Chain) => { x with st := .idle, flags := 0 }
  (m.modTile t (fun x => { x with bind := some ⟨l.part, l.lid, none, pos, slot⟩ })).modCtx t (fun c =>
    { c with tec := [], tes := [], ld := fresh c.ld, mx := fresh c.mx, vx := fresh c.vx, st := fresh c.st })

/-- The dispatch acquire of a launch (R70, R184): of cluster scope or wider it invalidates the core's data cache, before a
slot's threads start and at the start of each item (log 111). -/
def Mach.launchAcquire (m : Mach) (l : Launch) (c : ClusterId) : Mach :=
  match m.work l.work with
  | some w => if 2 ≤ w.hdr.acq.toNat then m.dinvalidate c else m
  | none => m

/-- New participants of the launch's open die and package barriers wait for the next phase (R188). -/
def Mach.joinBars (m : Mach) (lid : Word) (d : DieId) (ks : List Nat) : Mach :=
  { m with bars := m.bars.map (fun x =>
      let b := x.2
      let mine := match x.1 with
        | .cb _ _ _ => false
        | .db e _ => e = d
        | .pb _ => true
      if mine && b.owned && b.owner = lid && !b.arrived.isEmpty then
        (x.1, { b with late := ks.foldl (fun s k => nins k s) b.late })
      else x) }

def Mach.startSlot (m : Mach) (c : ClusterId) (l : Launch) (k n : Nat) (ts : List TileId) : Mach :=
  let m := (m.setSlot c n (some ⟨l.lid, BitVec.ofNat 4 k, ts, none, false, []⟩)).launchAcquire l c
  let m := (ts.zipIdx).foldl (fun (m : Mach) x => m.startThread x.1 l k x.2 n) m
  m.joinBars l.lid c.die ((List.range ts.length).map (partKey c n))

def Mach.freeSlotNo (m : Mach) (c : ClusterId) : Option Nat := (List.range 64).find? (fun n => (m.slot c n).isNone)

def Mach.slotsOf (m : Mach) (c : ClusterId) (lid : Word) : List Slot :=
  (List.range 64).filterMap (fun n => match m.slot c n with
    | some s => if s.lid = lid then some s else none
    | none => none)

def Mach.dieSlots (m : Mach) (d : DieId) (lid : Word) : List Slot :=
  (List.range 8).flatMap (fun k => m.slotsOf (clusterOf d k) lid)

/-- Slots of the launch on a die that have still to take their first team. -/
def Mach.newSlots (m : Mach) (d : DieId) (lid : Word) : Nat :=
  ((m.dieSlots d lid).filter (fun s => s.team.isNone && !s.closing)).length

/-- Form slots of one launch on a cluster: while tiles are free and more teams can be taken than its new slots will take
(log 15). -/
def Mach.formFor (m : Mach) (c : ClusterId) (lid : Word) : Nat → Mach
  | 0 => m
  | n + 1 =>
    match m.launch lid, (m.die c.die).ticketOf lid, m.freeSlotNo c with
    | some l, some (k, _), some no =>
      let free := m.freeTiles c l.part
      if l.complete || l.exported || !l.await.isEmpty || free.length < l.team || l.team = 0 ||
          m.canTake lid c.die ≤ m.newSlots c.die lid then m
      else (m.startSlot c l k no (free.take l.team)).formFor c lid n
    | _, _, _ => m

/-- The launches of a partition by PRI, then in dispatch order. -/
def Mach.launchOrder (m : Mach) (p : PartId) : List Word :=
  let all := m.launches.filterMap (fun x => match x.2 with
    | some l => if l.part = p then some l else none
    | none => none)
  (List.range 8).flatMap (fun k => (all.filter (fun l => l.pri.toNat = 7 - k)).map (·.lid))

def Mach.formSlots (m : Mach) (c : ClusterId) : Mach :=
  match (m.clu c).resident with
  | none => m
  | some p => (m.launchOrder p).foldl (fun (m : Mach) lid => m.formFor c lid 8) m

/-! ### Residency (R93) -/

/-- A partition's priority on a cluster: none if it has no runnable work there. R93 speaks of items that run or are parked there and
of teams left; a launch counts too while one of its slots stands on the cluster (DESIGN CHOICE, log 152). -/
def Mach.prioOn (m : Mach) (c : ClusterId) (p : PartId) : Option Nat :=
  m.launches.foldl (fun (best : Option Nat) x =>
    match x.2 with
    | some l =>
      if l.part = p && !l.exported && l.await.isEmpty &&
          (!(m.slotsOf c l.lid).isEmpty || decide (0 < m.teamsLeft l.lid c.die)) then
        match best with
        | some b => some (Nat.max b l.pri.toNat)
        | none => some l.pri.toNat
      else best
    | none => best) none

/-- Nothing of a cluster is held by an item or by an exchange. -/
def Mach.cluEmpty (m : Mach) (c : ClusterId) : Bool :=
  (tilesOf c).all (fun t => (m.tile t).bind.isNone && !(m.tile t).halting)

/-- The listed partition of highest priority, the first in rotation order on a tie. -/
def Mach.topPart (m : Mach) (c : ClusterId) : Option (PartId × Nat) :=
  (m.clu c).rotation.foldl (fun (best : Option (PartId × Nat)) p =>
    match m.prioOn c p, best with
    | some k, some (_, b) => if b < k then some (p, k) else best
    | some k, none => some (p, k)
    | none, _ => best) none

/-- The places where images of a partition that ran on a cluster are spilled (R109). -/
def Mach.spilledOn (m : Mach) (p : PartId) (c : ClusterId) : List Nat :=
  (m.part p).spilled.filterMap (fun x => match x.2 with
    | some im => if im.tile.cluster = c then some x.1 else none
    | none => none)

/-- A partition becomes resident on a cluster that nothing runs on and that holds none of its images, or a switch to it is
ordered (R93). -/
def Mach.switchTo (m : Mach) (c : ClusterId) (p : PartId) : Mach :=
  if m.cluEmpty c && (m.waitingImages c p).isEmpty && (m.spilledOn p c).isEmpty then m.modClu c (fun e => { e with resident := some p, since := m.time, order := none })
  else m.modClu c (fun e => { e with order := some p })

/-- An exchange, or a halt for one, is in progress on some tile of a list. -/
def Mach.inExchange (m : Mach) (l : List TileId) : Bool := l.any (fun t => (m.tile t).halting || (m.tile t).exchanging)

/-- The orders of R93: a partition whose work has gone is not waited for; one of a higher priority than the ordered one, or than
the resident one where none is ordered, is ordered at once; a cluster with no partition takes the first. -/
def Mach.reside (m : Mach) (c : ClusterId) : Mach :=
  if m.inExchange (tilesOf c) then m
  else
    let m := if ((m.clu c).order.bind (m.prioOn c)).isNone then m.modClu c (fun e => { e with order := none }) else m
    let rival := ((m.clu c).order.orElse (fun _ => (m.clu c).resident)).bind (m.prioOn c)
    match m.topPart c, rival with
    | some (p, _), none => m.switchTo c p
    | some (p, k), some b => if b < k then m.switchTo c p else m
    | none, _ => m

/-- The schedulers look at every cluster. -/
def Mach.sched (m : Mach) : Mach :=
  (List.range 32).foldl (fun (m : Mach) k => (m.reside (BitVec.ofNat 5 k)).formSlots (BitVec.ofNat 5 k)) m

/-! ### Priming (R100) -/

/-- The blocks of a kernel's templates copied from memory into the chain area; a block that cannot be read is poisoned
(log 16). -/
def Mach.copyBlocks (m : Mach) (p : PartId) (base : Nat) (ks : List (Nat × Nat)) : Memory × NSet × Mach :=
  ks.foldl (fun (acc : Memory × NSet × Mach) x =>
    match acc.2.2.hreads p x.1 16 with
    | .ok (ds, m) => (Memory.writeBytes acc.1 (base + 128 * x.2) (ds.flatMap (fun d => toBytes 8 d.toNat)), acc.2.1, m)
    | .error (_, m) =>
      (acc.1, (List.range 16).foldl (fun s k => nins ((base + 128 * x.2) / 8 + k) s) acc.2.1, m)) ([], [], m)

/-- Source address and index in the chain area of every block, in table order. -/
def Kernel.blockList (k : Kernel) : List (Nat × Nat) :=
  ((k.tmpls.flatMap (fun t => (List.range t.nblk).map (fun i => t.blka + 128 * i))).zipIdx)

/-- A context as priming leaves it, before its PRIME chains start. -/
def Ctx.primed (c : Ctx) (k : Kernel) (store : Memory) (pois : NSet) : Ctx :=
  { Ctx.reset with
    store := store, storePois := pois, sems := k.sems, rings := k.rings,
    wins := tmap Window.off (fun _ w => { w with d3 := setBits w.d3 31 31 0 }) c.wins,
    acfg := tmap 0 (fun _ v => setBits v 63 63 0) c.acfg, acc := c.acc, accPois := c.accPois,
    hnd := tmap 0 (fun _ v => setBits v 63 63 0) c.hnd, tec := c.tec, tes := c.tes }

/-- Prime a tile for an item of a launch. -/
def Mach.prime (m : Mach) (t : TileId) (l : Launch) : Mach :=
  let k := l.kernel
  let m := m.dropMarks (fun w => match w with
    | .store u _ => u = t
    | _ => false)
  let (store, pois, m) := m.copyBlocks l.part (chainBase k.charea) k.blockList
  let key := match (m.tile t).bind with
    | some b => partKey t.cluster b.slot b.pos
    | none => 0
  let m := (List.range 8).foldl (fun (m : Mach) h => m.dropResv key (BitVec.ofNat 3 h)) m
  let m := (m.modCtx t (fun c => c.primed k store pois)).modTile t (fun x => { x with slotFrom := false })
  m.modCtx t (fun c => (k.tmpls.zipIdx).foldl (fun (c : Ctx) x =>
    if x.1.prime then c.startChain (Eng.ofCode x.1.eng) (k.firstBlock x.2) else c) c)

/-! ### The contribution log (R124, R125) -/

/-- Every tile the launch's entries of a die's log name. -/
def Die.loggedTiles (y : Die) (lid : Word) : NSet :=
  (y.clog.filter (fun r => r.lid = lid)).foldl (fun s r => nins r.tile.toNat s) []

/-- A tile runs an item (a part of it) of a launch with CONF ≠ 0. -/
def Die.logItem (y : Die) (lid : Word) (t : TileId) (i : Word) : Die :=
  if y.whole.any (fun w => w.1 = lid) then
    { y with whole := y.whole.map (fun w => if w.1 = lid then (w.1, nins t.toNat w.2) else w) }
  else
    let hit := fun (r : CRun) => r.lid = lid && r.tile = t && r.first + r.count = i
    let held := fun (r : CRun) => r.lid = lid && r.tile = t && decide (r.first.toNat ≤ i.toNat ∧ i.toNat < r.first.toNat + r.count.toNat)
    if y.clog.any held then y
    else if y.clog.any hit then { y with clog := modFirst y.clog hit (fun r => [{ r with count := r.count + 1 }]) }
    else if y.clog.length < 4096 then { y with clog := y.clog ++ [⟨lid, t, i, 1⟩] }
    else { y with clog := y.clog.filter (fun r => r.lid ≠ lid), whole := y.whole ++ [(lid, nins t.toNat (y.loggedTiles lid))] }

/-- An item starts on a tile, or arrives there by migration: the tile has executed part of it. -/
def Mach.contribute (m : Mach) (t : TileId) (lid : Word) (i : Word) : Mach :=
  match m.launch lid with
  | none => m
  | some l =>
    let m := m.setLaunch lid (some { l with tiles := nins t.toNat l.tiles })
    if l.conf = 0 then m else m.modDie t.die (fun y => y.logItem lid t i)

/-! ### Retirement and completion (R97, R138) -/

/-- A team of a launch runs or is parked on a die: an item of it is on a tile or in an image. -/
def Mach.runsOn (m : Mach) (lid : Word) (d : DieId) : Bool :=
  let mine := fun (b : Bind) => b.lid = lid && b.item.isSome
  let parked := fun (o : Option Image) => (o.map (fun im => decide (im.tile.die = d) && mine im.bind)).getD false
  m.tiles.any (fun x => decide (TileId.die (BitVec.ofNat 8 x.1) = d) && ((x.2.bind.map mine).getD false || parked x.2.kennel)) ||
    m.parts.any (fun x => x.2.spilled.any (fun y => parked y.2))

/-- A counter is freed once its launch has completed and no team of it runs, is parked or is left on the die (R95). -/
def Mach.freeTickets (m : Mach) (lid : Word) : Mach :=
  (List.range 4).foldl (fun (m : Mach) d =>
    let die := BitVec.ofNat 2 d
    match (m.die die).ticketOf lid with
    | some (k, x) =>
      let gone := match m.launch lid with
        | some l => l.complete
        | none => true
      if gone && x.next = x.stop && !m.runsOn lid die then
        m.modDie die (fun y => { y with tickets := tput none y.tickets k none })
      else m
    | none => m) m

/-- The threads of a launch, running or parked, forget their arrivals on barriers that have become free: those phases are over. -/
def Mach.dropArrivals (m : Mach) (lid : Word) (ids : List BarId) : Mach :=
  let mine := fun (s : Option Sup) => (s.map (fun u => decide (u.lid = lid))).getD false
  let keep := fun (l : List Arrival) => l.filter (fun a => !ids.contains a.bar)
  let parked := fun (o : Option Image) => o.map (fun im =>
    if mine im.thr.sup then { im with thr := { im.thr with arrivals := keep im.thr.arrivals } } else im)
  { m with
    threads := tmap Thread.reset (fun _ (th : Thread) => if mine th.sup then { th with arrivals := keep th.arrivals } else th) m.threads,
    tiles := tmap Tile.reset (fun _ (x : Tile) => { x with kennel := parked x.kennel }) m.tiles,
    parts := tmap Partition.reset (fun _ (x : Partition) => { x with spilled := tmap none (fun _ o => parked o) x.spilled }) m.parts }

/-- A die barrier, or a package barrier, is free once no team of its launch runs, is parked or is left there (R188); a phase that was
open is over with it (log 159). -/
def Mach.freeBars (m : Mach) (lid : Word) : Mach :=
  let spent := fun (d : DieId) => m.teamsLeft lid d = 0 && !m.runsOn lid d
  let free := m.bars.filter (fun x => x.2.owned && x.2.owner = lid && (match x.1 with
    | .cb _ _ _ => false
    | .db d _ => spent d
    | .pb _ => spent 0 && spent 1 && spent 2 && spent 3))
  if free.isEmpty then m
  else
    ({ m with bars := m.bars.filter (fun (x : BarId × Bar) => !free.any (fun (y : BarId × Bar) => y.1 = x.1)) } : Mach).dropArrivals lid (free.map (·.1))

/-- A launch that has completed, keeps no slot or counter and awaits no confirmation is forgotten. -/
def Mach.forget (m : Mach) (lid : Word) : Mach :=
  match m.launch lid with
  | none => m
  | some l =>
    if l.complete && l.conf = 0 && (List.range 4).all (fun d =>
        (m.dieSlots (BitVec.ofNat 2 d) lid).isEmpty && ((m.die (BitVec.ofNat 2 d)).ticketOf lid).isNone) then
      m.setLaunch lid none
    else m

/-- Every item of the own range has retired: the LAUNCH packet's work is done, or has failed with its lowest faulted
item (R72, R97). -/
def Mach.settleLaunch (m : Mach) (lid : Word) : Mach :=
  match m.launch lid with
  | none => m
  | some l =>
    if l.complete || !l.await.isEmpty || l.retired < l.total then m
    else
      let m := m.setLaunch lid (some { l with complete := true })
      let m := m.modWork l.work (fun w =>
        { w with count := l.retired, low := l.low, state := match l.low with
            | some i => .failed (statusVal 1 i)
            | none => .done })
      (m.freeTickets lid).forget lid

/-- An item leaves for good: what it has sent to memory is performed before its packet's work ends (R70), and no other answer
to it finds anything to complete (R326, R419). -/
def Mach.releaseItem (m : Mach) (t : TileId) (r : ItemRef) (work : Nat) : Mach :=
  let write : Agent → Bool := fun a => match a with
    | .engW x _ _ => x = t
    | .store x => x = t
    | .itemW q _ _ => q = r
    | .itemStore q => q = r
    | _ => false
  let other : Agent → Bool := fun a => match a with
    | .eng x _ => x = t
    | .gang x _ _ => x = t
    | .thread x => x = t
    | .itemThread q => q = r
    | _ => false
  let n := m.owedTo t.die write
  (m.handOver t.die (fun a => if write a then .rel work r.part a else if other a then .dead r.part a else a)).modWork work
    (fun w => { w with out := w.out + n })

def Bind.ref (b : Bind) (c : ClusterId) : ItemRef := ⟨b.part, c, b.lid, b.slot, b.pos⟩

/-- An item that is discarded with its image. -/
def Mach.discard (m : Mach) (t : TileId) (b : Bind) : Mach :=
  match m.launch b.lid with
  | some l => m.releaseItem t (b.ref t.cluster) l.work
  | none => m

/-- The item on a tile retires: its chains are idle again, and its launch counts it (R97, R141). -/
def Mach.retireItem (m : Mach) (t : TileId) : Mach :=
  match (m.tile t).bind with
  | none => m
  | some b =>
    match b.item with
    | none => m
    | some i =>
      let bad := match (m.thr t).sup with
        | some u => u.faulted
        | none => false
      let idle := fun (x : Chain) => { x with st := .idle, latched := none, outw := 0, outst := (0, 0), answers := [] }
      let m := m.discard t b
      let m := m.modTile t (fun x =>
        let c := x.ctx
        { x with bind := some { b with item := none },
                 ctx := { c with ld := idle c.ld, mx := idle c.mx, vx := idle c.vx, st := idle c.st } })
      let m := m.modThr t (fun th => { th with sup := th.sup.map (fun u => { u with item := none }) })
      let m := m.modLaunch b.lid (fun l =>
        if l.ownItem i then
          { l with retired := l.retired + 1,
                   low := if bad then some (match l.low with
                     | some k => Nat.min k i.toNat
                     | none => i.toNat) else l.low }
        else l)
      (m.settleLaunch b.lid).freeTickets b.lid

/-- The slot dissolves once its threads have ended: its tiles are idle again (R96, R97). -/
def Mach.dissolve (m : Mach) (c : ClusterId) (n : Nat) : Mach :=
  match m.slot c n with
  | none => m
  | some sl =>
    let m := m.setSlot c n none
    let m := sl.tiles.foldl (fun (m : Mach) t => m.modTile t (fun x =>
      match x.bind with
      | some b => if b.slot = n && b.lid = sl.lid then { x with bind := none, idleAt := m.time } else x
      | none => { x with idleAt := m.time })) m
    let own := fun (i : BarId) => match i with
      | .cb c' n' _ => c' = c && n' = n
      | _ => false
    let m := { m with bars := m.bars.filter (fun x => !own x.1) }
    (((m.freeTickets sl.lid).freeBars sl.lid).forget sl.lid).sched

/-- The records of the asynchronous traps that fall due after a thread's return (R419). -/
def Mach.lateTraps (m : Mach) (t : TileId) : Mach :=
  match (m.thr t).sup with
  | none => m
  | some u =>
    (m.thr t).asyncs.foldl (fun (m : Mach) a =>
      let p := m.partOf t
      let base : RecArgs :=
        if a.src then
          { lid := u.lid.toNat, item := (u.item.getD 0).toNat, code := a.code.toNat, tile := t.toNat,
            thread := t.num.toNat, eng := bits a.tval.toNat 17 16, block := bits a.tval.toNat 14 0 }
        else
          { lid := u.lid.toNat, item := (u.item.getD 0).toNat, code := a.code.toNat, tile := t.cluster.toNat,
            thread := t.num.toNat, src := 1, va := if tvalIsAddr a.code then a.tval.toNat else 0, aux := a.tval.toNat,
            acc := a.acc }
      (m.post p { base with reason := 5, info := true } .none).modThr t (fun th =>
        { th with sup := th.sup.map (fun u => { u with faulted := true }) })) m

/-- A thread ends its part in the launch (R96, R97): its item retires, its position is never given an item again, and nothing
of it is left to be saved (R105). -/
def Mach.threadEnd (m : Mach) (t : TileId) : Mach :=
  match (m.thr t).sup with
  | none => m
  | some u =>
    let m := (m.lateTraps t).retireItem t
    let m := m.modThr t (fun th =>
      { th with st := .idle, sup := none, arrivals := [], pull := .none, asyncs := [], hold := none, stepTrap := false })
    let m := m.modTile t (fun x => { x with bind := none })
    match m.slot t.cluster u.slot with
    | none => m
    | some sl =>
      let sl := { sl with gone := nins u.pos sl.gone, closing := true }
      let m := m.setSlot t.cluster u.slot (some sl)
      if sl.tiles.length ≤ sl.gone.length then m.dissolve t.cluster u.slot else m.freeBars u.lid

/-! ### Rounds of TKPULL (R97, R117) -/

/-- The tiles of a slot's positions whose threads have not ended. -/
def Slot.live (sl : Slot) : List (TileId × Nat) := sl.tiles.zipIdx.filter (fun x => !nhas sl.gone x.2)

def chainsOver (c : Ctx) : Bool :=
  [c.ld, c.mx, c.vx, c.st].all (fun x => (x.st = .idle || x.st = .ended) && x.outst.1 = 0)

/-- A round can start: every thread that has not ended waits in TKPULL with its buffer drained, and no chain runs. -/
def Mach.roundReady (m : Mach) (c : ClusterId) (n : Nat) (sl : Slot) : Bool :=
  !sl.live.isEmpty && sl.live.all (fun x =>
    let th := m.thr x.1
    let t := m.tile x.1
    (match th.pull with | .waiting _ _ => true | _ => false) && th.st = .waiting && th.asyncs.isEmpty && th.wbuf.isEmpty &&
      !t.halting && (match t.bind with | some b => b.lid = sl.lid && b.slot = n && x.1.cluster = c | none => false)) &&
    sl.tiles.all (fun t => chainsOver (m.ctx t))

/-- TKPULL of a thread has its value; the instruction completes as the thread goes on. -/
def Mach.givePull (m : Mach) (t : TileId) (v : Dword) : Mach :=
  m.modThr t (fun th => match th.pull with
    | .waiting _ d => { th with pull := .given d v, st := .ready }
    | _ => th)

/-- A position of a slot receives its part of team `j`: an index with its tile primed, or the value for none. -/
def Mach.startItem (m : Mach) (l : Launch) (t : TileId) (j p : Nat) : Mach :=
  match l.itemAt j p with
  | none => m.givePull t 0xFFFFFFFFFFFFFFFE
  | some i =>
    let m := m.modTile t (fun x => { x with bind := x.bind.map (fun b => { b with item := some i }) })
    let m := m.modThr t (fun th => { th with sup := th.sup.map (fun u => { u with item := some i }) })
    (((m.contribute t l.lid i).prime t l).launchAcquire l t.cluster).givePull t (i.setWidth 64)

/-- TKPULL_ROUND (R97). -/
def execTkpullRound (c : ClusterId) (slot : Nat) (s : State) : Host.Outcome State Fault Refusal :=
  .next (s.onM (fun m =>
    match m.slot c slot with
    | none => m
    | some sl =>
      match m.launch sl.lid with
      | none => m
      | some l =>
        let leased := sl.live.any (fun x => m.draining x.1)
        if !m.roundReady c slot sl || (leased && l.fixed) then m
        else
          let m := sl.live.foldl (fun (m : Mach) x => m.retireItem x.1) m
          let refuse := fun (m : Mach) (sl : Slot) =>
            (sl.live.foldl (fun (m : Mach) x => m.givePull x.1 0xFFFFFFFFFFFFFFFF) (m.setSlot c slot (some { sl with team := none }))).freeBars l.lid
          if sl.closing || leased then refuse m { sl with closing := true }
          else
            let m := if m.teamsLeft l.lid c.die = 0 then m.steal l.lid c.die else m
            match (m.die c.die).ticketOf l.lid with
            | none => refuse m sl
            | some (_, x) =>
              if m.teamsLeft l.lid c.die = 0 then refuse m sl
              else
                let m := m.setTicket c.die l.lid (fun x => { x with next := x.next + 1 })
                let m := m.setSlot c slot (some { sl with team := some x.next, closing := x.next + 1 = l.teams })
                sl.live.foldl (fun (m : Mach) y => m.startItem l y.1 x.next y.2) m))

end Sys2Proof.Machine
end

