-- ==== Sys2Proof/Machine/Herder.lean ====
section
/-! DEFINITION. The Herder's shared operations: signals (R72, R73), arbitration (R69, R70), completion, aborts and errors of
packets (R68, R73, R75, R76), the check of kernel objects (R91), and graph instances (R86, R87). -/
namespace Sys2Proof.Machine

/-! ### Signals (R72-R74) -/

def isWaitsig (i : Instr) : Bool :=
  match i with
  | .waitsig _ _ => true
  | _ => false

def isDrain (i : Instr) : Bool :=
  match i with
  | .drain _ _ => true
  | _ => false

/-- Every waiting WAITSIG is to be evaluated at once after an update by the Herder (R74, R396). -/
def Mach.evalAll (m : Mach) : Mach :=
  { m with evalNow := m.works.foldl (fun s w => match w.2 with
      | some x => if isWaitsig x.pkt then nins w.1 s else s
      | none => s) m.evalNow }

/-- Where a signal lies: HBM or a die pool of this package, unpoisoned and granted (R72, R73). -/
def Mach.sigPlace (m : Mach) (p : PartId) (va : Nat) (acc : Acc) : Except (HFail × Mach) (Nat × Mach) :=
  let w := Walker.die m.herderDie
  let m := m.walked w p va
  match m.translate w p va 8 acc false with
  | .bad w => .error (⟨va, some w⟩, m)
  | .ok (.here pa) _ =>
    if paRegion pa = 1 then .error (⟨va, none⟩, m)
    else
      let (ok, m) := m.checkGrant pa masterHerder acc false
      let m := if ok then m.readPort pa 8 else m
      if ok && !m.poisoned pa 8 then .ok (pa, m) else .error (⟨va, none⟩, m)
  | .ok _ _ => .error (⟨va, none⟩, m)

/-- One atomic update of a signal by the Herder (R73). -/
def Mach.sigUpdate (m : Mach) (p : PartId) (va : Nat) (op : SigOp) : Except (HFail × Mach) Mach :=
  match m.sigPlace p va .atomic with
  | .error e => .error e
  | .ok (pa, m) =>
    .ok (m.writePa pa (toBytes 8 (sigNew (BitVec.ofNat 64 (Memory.read m.mem pa 8)) op).toNat)).evalAll

/-- An update whose failure changes nothing: of the CSIG of a packet aborted or cancelled unread (R75). -/
def Mach.sigTry (m : Mach) (p : PartId) (va : Nat) (op : SigOp) : Mach :=
  if va = 0 then m
  else match m.sigUpdate p va op with
    | .ok m => m
    | .error (_, m) => m

def Mach.sigRead (m : Mach) (p : PartId) (va : Nat) : Except (HFail × Mach) (Dword × Mach) :=
  match m.sigPlace p va .read with
  | .error e => .error e
  | .ok (pa, m) => .ok (BitVec.ofNat 64 (Memory.read m.mem pa 8), m)

/-! ### Packets and their sources -/

def hdrOf : Instr → Option PktHdr
  | .nop h => some h
  | .launch h _ => some h
  | .copy h _ => some h
  | .waitsig h _ => some h
  | .signal h _ => some h
  | .cond h _ => some h
  | .graph h _ _ => some h
  | .iinvPacket h _ _ _ _ => some h
  | .timestamp h _ => some h
  | .drain h _ => some h
  | _ => none

/-- COND and DRAIN behave as if B = 1 (R70). -/
def waitsForEarlier (i : Instr) : Bool :=
  match i with
  | .cond _ _ => true
  | .drain _ _ => true
  | i => match hdrOf i with
    | some h => h.bar
    | none => false

/-- A packet at its dispatch: where it comes from and whose it is. -/
structure Disp where
  src : Src
  idx : Nat
  queue : QueueId
  part : PartId
  func : FuncId
deriving DecidableEq, Repr

def Mach.queueDisp (m : Mach) (q : QueueId) (idx : Nat) : Disp :=
  ⟨.queue q, idx, q, (m.queue q).part, (m.queue q).owner⟩

def Mach.instDisp (m : Mach) (n : Nat) (x : Inst) (idx : Nat) : Disp :=
  ⟨.inst n, idx, x.queue, x.part, (m.queue x.queue).owner⟩

def Mach.worksOf (m : Mach) (src : Src) : List (Nat × Work) :=
  m.works.filterMap (fun w => match w.2 with
    | some x => if x.src = src then some (w.1, x) else none
    | none => none)

/-- WAITSIG and DRAIN block their queue or instance until they complete (R70). -/
def Mach.blocked (m : Mach) (src : Src) : Bool := (m.worksOf src).any (fun w => isWaitsig w.2.pkt || isDrain w.2.pkt)

/-- The running instances of a graph object (R87). -/
def Mach.liveInsts (m : Mach) (p : PartId) (gobj : BitVec 56) : List Inst :=
  m.insts.filterMap (fun x => match x.2 with
    | some i => if i.ended || i.gobj ≠ gobj || i.part ≠ p then none else some i
    | none => none)

/-- The oldest running instance of an object, named by its GRAPH packet's work: works are numbered in order of dispatch. -/
def Mach.oldestInst (m : Mach) (p : PartId) (gobj : BitVec 56) : Option Nat :=
  (m.liveInsts p gobj).foldl (fun o i => match o with
    | none => some i.work
    | some n => some (Nat.min n i.work)) none

/-- Room for another instance of a graph object (R87): two are the limit, and a packet that has stalled waits for the end of the
instance that was the oldest then. -/
def Mach.graphRoom (m : Mach) (p : PartId) (gobj : BitVec 56) (stall : Option Nat) : Bool :=
  let live := m.liveInsts p gobj
  decide (live.length < 2) && !live.any (fun i => some i.work = stall) && (List.range 256).any (fun k => (m.inst k).isNone)

/-- A checked packet can dispatch now (R70, R87, R95). -/
def Mach.canDispatch (m : Mach) (d : Disp) (i : Instr) : Bool :=
  !m.blocked d.src && (!waitsForEarlier i || (m.worksOf d.src).isEmpty) &&
    (match i with
     | .launch _ p => p.count = 0 || m.ticketRoom d.part
     | .graph _ g _ => m.graphRoom d.part g (m.queue d.queue).stall
     | _ => true)

/-! ### Errors and aborts of queues (R68, R75) -/

/-- The record of a Q error whose cause is a failed access (R68, R176). -/
def Mach.qRecord (m : Mach) (d : Disp) (code : Nat) (f : HFail) : Mach :=
  m.post d.part { va := f.va, item := d.idx, qerr := code, src := 3, reason := f.reason, level := f.level,
                  acc := (f.walk.map (·.acc)).getD 0, info := true, aux := d.queue.toNat } .none

/-- Packet `i` of a ring: its address (R66). -/
def Queue.slotVa (q : Queue) (i : Nat) : Nat := q.base.toNat + 64 * (i % 2 ^ q.log2n.toNat)

/-- FAIL with a status to the CSIG of every packet still to be dispatched (R75 step 3, R76 step 5): the checked copy,
then those in the ring whose header is valid. -/
def Mach.failPending (m : Mach) (q : QueueId) (v : Dword) : Mach :=
  let x := m.queue q
  let m := match x.held with
    | some i => (match hdrOf i with
      | some h => m.sigTry x.part h.csig.toNat (.fail v)
      | none => m)
    | none => m
  let lo := x.cidx.toNat + x.skip
  let n := Nat.min (x.latch.toNat - lo) (2 ^ x.log2n.toNat)
  (List.range n).foldl (fun (m : Mach) k =>
    match m.hreads x.part (x.slotVa (lo + k)) 2 with
    | .ok (ds, m) => if headerValid ds then m.sigTry x.part (addrOf (dwAt ds 1)).toNat (.fail v) else m
    | .error (_, m) => m) m

/-- A queue enters ERROR (R67, R68, R75): its pending packets receive a status. -/
def Mach.queueError (m : Mach) (q : QueueId) (code idx : Nat) (v : Dword) : Mach :=
  if (m.queue q).state ≠ .active then m
  else
    let m := m.modQueue q (fun x =>
      { x with state := .error, errcode := BitVec.ofNat 8 code, erridx := BitVec.ofNat 64 idx })
    (m.failPending q v).modQueue q (fun x => { x with held := none, skip := 0 })

def cancelled (n : Nat) : Dword := statusVal 2 n

/-- A node of an instance fails (R72, R87): the failure of the lowest node is kept, the nodes not yet dispatched are dropped. -/
def Inst.failWith (x : Inst) (idx : Nat) (v : Dword) (code : Byte) : Inst :=
  { x with next := x.nodes,
           fail := match x.fail with
             | some (k, y) => if k ≤ idx then some (k, y) else some (idx, v, code)
             | none => some (idx, v, code) }

def Mach.modInst (m : Mach) (n : Nat) (f : Inst → Inst) : Mach := m.setInst n ((m.inst n).map f)

/-- An instance past its last node, or failed, ends once its nodes have completed (R83, R87): the GRAPH packet is to
complete or fail. A failure that comes after that and before the packet's end still fails it (R73). -/
def Mach.instSettle (m : Mach) (n : Nat) : Mach :=
  match m.inst n with
  | none => m
  | some x =>
    if decide (x.next < x.nodes) || !(m.worksOf (.inst n)).isEmpty then m
    else
      let m := m.setInst n (some { x with ended := true })
      m.modWork x.work (fun w => { w with state := match x.fail with
        | some (_, v, _) => .failed v
        | none => .done })

def Mach.settleSrc (m : Mach) (src : Src) : Mach :=
  match src with
  | .queue _ => m
  | .inst n => m.instSettle n

/-- A packet error (R68, R87). -/
def Mach.packetError (m : Mach) (d : Disp) (code : Nat) : Mach :=
  match d.src with
  | .queue q => m.queueError q code d.idx (cancelled 0)
  | .inst n => (m.modInst n (fun x => x.failWith d.idx (statusVal 1 d.idx) (BitVec.ofNat 8 code))).instSettle n

/-- A packet error whose cause is a failed access: its record too. -/
def Mach.accessError (m : Mach) (d : Disp) (code : Nat) (f : HFail) : Mach := (m.qRecord d code f).packetError d code

/-- R75 steps 2 and 3, and R87, after a packet's own FAIL. -/
def Mach.abort (m : Mach) (d : Disp) (v : Dword) (loop : Bool) : Mach :=
  let code := if loop then 2 else 3
  match d.src with
  | .queue q => m.queueError q code d.idx v
  | .inst n => (m.modInst n (fun x => x.failWith d.idx v (BitVec.ofNat 8 code))).instSettle n

/-- The end of a packet: DEC 1 or FAIL on its CSIG, then its vector (R71, R73); a CSIG that cannot be written is
Q.BADSIG. -/
def Mach.endSignal (m : Mach) (d : Disp) (h : PktHdr) (op : SigOp) : Mach :=
  let vec := fun (m : Mach) => if h.irq then m.irq d.func h.vec else m
  if h.csig = 0 then vec m
  else
    match m.sigUpdate d.part h.csig.toNat op with
    | .ok m => vec m
    | .error (f, m) => m.accessError d 5 f

/-- A packet completes (R73). -/
def Mach.finishPkt (m : Mach) (d : Disp) (h : PktHdr) : Mach :=
  let m := match d.src with
    | .queue _ => m
    | .inst n => match m.inst n with
      | some x => m.modWork x.work (fun w => { w with count := w.count + 1 })
      | none => m
  (m.endSignal d h (.dec 1)).settleSrc d.src

/-- A packet fails through its own work (R75). -/
def Mach.failPkt (m : Mach) (d : Disp) (h : PktHdr) (v : Dword) (loop : Bool) : Mach :=
  (m.endSignal d h (.fail v)).abort d v loop

/-! ### Work (dispatched packets that go on) -/

def workDisp (w : Work) (q : QueueId) : Disp := ⟨w.src, w.idx, q, w.part, w.func⟩

/-- The queue a source belongs to. -/
def Mach.queueOf (m : Mach) : Src → QueueId
  | .queue q => q
  | .inst n => ((m.inst n).map (·.queue)).getD 0

def Mach.dispOf (m : Mach) (w : Work) : Disp := workDisp w (m.queueOf w.src)

def blankWork (m : Mach) (d : Disp) (i : Instr) (h : PktHdr) : Work :=
  { src := d.src, idx := d.idx, pkt := i, hdr := h, part := d.part, func := d.func, start := m.time, state := .running,
    acks := [], dropped := false, count := 0, low := none, out := 0 }

/-- A packet's work starts: its number and the machine. -/
def Mach.startWork (m : Mach) (d : Disp) (i : Instr) (h : PktHdr) : Nat × Mach :=
  (m.nextWork, { m.setWork m.nextWork (some (blankWork m d i h)) with nextWork := m.nextWork + 1 })

/-- Writes of a packet's work that are not yet performed (R70, R326): of items that have retired, and of the chains that still
hold their tiles. -/
def Mach.writesOut (m : Mach) (n : Nat) : Bool :=
  ((m.work n).map (fun w => decide (0 < w.out))).getD false || m.launches.any (fun x => match x.2 with
    | some l => l.work = n && l.tiles.any (fun t =>
        let c := m.ctx (BitVec.ofNat 8 t)
        decide (0 < c.ld.outw + c.mx.outw + c.vx.outw + c.st.outw))
    | none => false)

/-- The error code an ended instance gives its queue, if this work is its GRAPH packet. -/
def Mach.instOfWork (m : Mach) (n : Nat) : Option (Nat × Inst) :=
  m.insts.findSome? (fun x => match x.2 with
    | some i => if i.work = n then some (x.1, i) else none
    | none => none)

/-- The informational record of a TIMESTAMP whose write was answered with a STATUS (R85). -/
def Mach.stampRecord (m : Mach) (d : Disp) (i : Instr) : Mach :=
  match i with
  | .timestamp _ dst =>
    m.post d.part { va := dst.toNat, item := d.idx, src := 3, reason := 5, acc := 1, info := true, aux := d.queue.toNat } .none
  | _ => m

/-- The end of a packet whose work is over (R73, R75, R76 step 4, R87). -/
def Mach.endWork (m : Mach) (n : Nat) : Mach :=
  match m.work n with
  | none => m
  | some w =>
    let d := m.dispOf w
    let inst := m.instOfWork n
    let gone := fun (m : Mach) =>
      match inst with
      | some (k, x) => { (m.setWork n none).setInst k none with iterLeft := tput [] m.iterLeft k x.iters }
      | none => m.setWork n none
    match w.state with
    | .running => m
    | .done =>
      if w.dropped then ((gone m).endSignal d w.hdr (.fail (cancelled w.count))).settleSrc d.src
      else (gone m).finishPkt d w.hdr
    | .failed v =>
      if w.dropped then ((gone m).endSignal d w.hdr (.fail (cancelled w.count))).settleSrc d.src
      else
        match inst with
        | some (_, x) =>
          let code := match x.fail with
            | some (_, _, c) => c.toNat
            | none => 3
          let pend := if code = 2 ∨ code = 3 then v else cancelled 0
          ((gone m).endSignal d w.hdr (.fail v)).queueError d.queue code d.idx pend
        | none => ((gone m).failPkt d w.hdr v false).stampRecord d w.pkt

/-! ### Arbitration (R69) -/

/-- The Herder can run packets: booted, not gated, not at an update's boundary (R50, R60, R63). -/
def State.herding (s : State) : Bool := s.fw.boot = .ready && s.m.arb = .running && s.fw.upd ≠ .atBoundary

/-- The node an instance dispatches next, as read now with its patched dwords (R86). -/
def Mach.readNode (m : Mach) (x : Inst) : Except (HFail × Mach) (Option Instr × Mach) :=
  match m.hreads x.part (x.nodea.toNat + 64 * x.next) 8 with
  | .error e => .error e
  | .ok (ds, m) =>
    let ds := (List.range 8).map (fun k =>
      match x.patched.reverse.find? (fun p => p.1 = x.next * 8 + k) with
      | some p => p.2
      | none => dwAt ds k)
    .ok (decodePacket ds (some x.next), m)

/-- An instance has a node that can dispatch, or whose error is to be found. -/
def Mach.nodeReady (m : Mach) (n : Nat) : Bool :=
  match m.inst n with
  | none => false
  | some x =>
    if x.ended || x.fail.isSome || decide (x.nodes ≤ x.next) || m.blocked (.inst n) then false
    else
      match m.readNode x with
      | .ok (some i, _) => m.canDispatch (m.instDisp n x x.next) i
      | _ => true

/-- A queue has a packet or a node ready to dispatch, or a packet still to be read. -/
def Mach.queueReady (m : Mach) (q : QueueId) : Bool :=
  let x := m.queue q
  (x.state = .active && !m.blocked (.queue q) &&
    (match x.held with
     | some i => m.canDispatch (m.queueDisp q (x.cidx.toNat - 1)) i
     | none => decide (x.cidx.toNat < x.latch.toNat))) ||
  m.insts.any (fun p => match p.2 with
    | some i => i.queue = q && m.nodeReady p.1
    | none => false)

/-- The queues of a priority that have something ready, in ascending number. -/
def Mach.readyAt (m : Mach) (prio : BitVec 3) : List QueueId :=
  m.queues.filterMap (fun x =>
    let q := BitVec.ofNat 10 x.1
    if x.2.prio = prio && x.2.state ≠ .free && m.queueReady q then some q else none)

/-- The queue of a priority whose turn is under way. -/
def Mach.midTurn (m : Mach) (prio : BitVec 3) : Option QueueId :=
  (m.queues.find? (fun x => x.2.prio = prio && x.2.state ≠ .free && x.2.used ≠ 0)).map (fun x => BitVec.ofNat 10 x.1)

/-- The queue that is served: the highest priority that has one ready; there the turn under way, else the next above
the queue whose turn ended last, wrapping (R69); before any turn has ended, from queue 0 (log 2). -/
def Mach.served (m : Mach) : Option QueueId :=
  match (List.range 8).find? (fun k => !(m.readyAt (BitVec.ofNat 3 (7 - k))).isEmpty) with
  | none => none
  | some k =>
    let prio := BitVec.ofNat 3 (7 - k)
    let l := m.readyAt prio
    let mid := m.midTurn prio
    match mid with
    | some q => if l.contains q then some q
      else (l.find? (fun x => decide (q.toNat < x.toNat))).orElse (fun _ => l.head?)
    | none =>
      let last := tget (1023 : QueueId) m.rr prio.toNat
      (l.find? (fun x => decide (last.toNat < x.toNat))).orElse (fun _ => l.head?)

/-- The turn of a queue ends: its priority's round goes on above it (R69). -/
def Mach.endTurn (m : Mach) (q : QueueId) : Mach :=
  { m.modQueue q (fun x => { x with used := 0 }) with rr := tput 1023 m.rr (m.queue q).prio.toNat q }

/-- A dispatch spends one of the queue's weight; another queue's turn that was under way has ended (R69). -/
def Mach.spend (m : Mach) (q : QueueId) : Mach :=
  let m := match m.midTurn (m.queue q).prio with
    | some k => if k = q then m else m.endTurn k
    | none => m
  let n := (m.queue q).used + 1
  if n < (m.queue q).weight.toNat then m.modQueue q (fun x => { x with used := n }) else m.endTurn q

/-- A queue's turn ends as soon as its next packet cannot dispatch (R69); a GRAPH packet that cannot dispatch for want of room for
a third instance stalls on the oldest one (R87). -/
def Mach.endTurns (m : Mach) : Mach :=
  m.queues.foldl (fun (m : Mach) x =>
    let q := BitVec.ofNat 10 x.1
    let m := if (m.queue q).used ≠ 0 && !m.queueReady q then m.endTurn q else m
    let y := m.queue q
    match y.held with
    | some (.graph h g _) =>
      if y.state = .active && y.stall.isNone && !m.blocked (.queue q) && (!h.bar || (m.worksOf (.queue q)).isEmpty) &&
          decide (2 ≤ (m.liveInsts y.part g).length) then
        m.modQueue q (fun y => { y with stall := m.oldestInst y.part g })
      else m
    | _ => m) m

/-! ### Kernel objects (R89-R91) -/

/-- A check that failed: address of the object, OBJ, INDEX, CHECK. -/
structure KFail where
  va : Nat
  obj : Nat
  index : Nat
  check : Nat
deriving DecidableEq, Repr

def tmplOf (d0 d1 : Dword) : Tmpl :=
  { blka := bits d0.toNat 55 0, prime := d1.getLsbD 18, eng := d1.extractLsb' 16 2, nblk := bits d1.toNat 11 0 }

/-- The checks of the header that need no other read. -/
def kernelHeader (va : Nat) (ds : List Dword) : Option KFail :=
  let d0 := dwAt ds 0
  let bad := fun (c : Nat) => some (⟨va, 0, 0, c⟩ : KFail)
  if d0.extractLsb' 0 32 ≠ 0x4B4F424A then bad 1
  else if 1 < bits d0.toNat 39 32 then bad 2
  else if bits d0.toNat 63 48 ≠ 0 || !addrOk (dwAt ds 1) || !addrOk (dwAt ds 2) || !addrOk (dwAt ds 3) ||
      bits (dwAt ds 4).toNat 63 7 ≠ 0 || !zeros ds [6, 7] then bad 3
  else if !decide (1 ≤ bits d0.toNat 47 40 ∧ bits d0.toNat 47 40 ≤ 16) || !aligned 4 (dwAt ds 1) ||
      !aligned 64 (dwAt ds 2) || !aligned 64 (dwAt ds 3) ||
      !decide (1 ≤ bits (dwAt ds 4).toNat 6 0 ∧ bits (dwAt ds 4).toNat 6 0 ≤ 64) then bad 4
  else none

/-- The first failing template entry of a table. -/
def tmplTable (va : Nat) (ds : List Dword) (n : Nat) : Option KFail :=
  (List.range n).findSome? (fun k =>
    let d0 := dwAt ds (2 * k)
    let d1 := dwAt ds (2 * k + 1)
    let t := tmplOf d0 d1
    let bad := fun (c : Nat) => some (⟨va + 16 * k, 1, k, c⟩ : KFail)
    if !addrOk d0 || bits d1.toNat 63 19 ≠ 0 || bits d1.toNat 15 12 ≠ 0 then bad 3
    else if t.blka % 128 ≠ 0 || t.nblk = 0 then bad 4
    else if t.prime && (List.range k).any (fun j =>
        let u := tmplOf (dwAt ds (2 * j)) (dwAt ds (2 * j + 1))
        u.prime && u.eng = t.eng) then bad 5
    else none)

/-- Set-up block: the semaphores and rings it gives (R90), or its failing check. -/
def setupRing (ds : List Dword) (q : Nat) : Dword × Dword := (dwAt ds (9 + 2 * q), dwAt ds (10 + 2 * q))

def setupBad (va : Nat) (ds : List Dword) : Option KFail :=
  let d0 := dwAt ds 0
  if bits d0.toNat 63 48 ≠ 0 then some ⟨va, 2, 0, 3⟩
  else (List.range 16).findSome? (fun q =>
    if d0.getLsbD (32 + q) && ringBad (setupRing ds q).1 (setupRing ds q).2 then some ⟨va, 2, q, 7⟩ else none)

def setupSems (ds : List Dword) : Tbl (BitVec 16) :=
  (List.range 32).foldl (fun t k =>
    tput 0 t k (if (dwAt ds 0).getLsbD k then (dwAt ds (1 + k / 4)).extractLsb' (16 * (k % 4)) 16 else 0)) []

def setupRings (ds : List Dword) : Tbl Ring :=
  (List.range 16).foldl (fun t q =>
    tput Ring.off t q (if (dwAt ds 0).getLsbD (32 + q) then
      Ring.ofWords (setupRing ds q).1 (setupRing ds q).2 else Ring.off)) []

/-- The Herder's check of the kernel object, its template table and the set-up block in use (R91). -/
def Mach.checkKernel (m : Mach) (p : PartId) (kobj init : Nat) : Except (KFail × Mach) (Kernel × Mach) :=
  match m.hreads p kobj 8 with
  | .error (_, m) => .error (⟨kobj, 0, 0, 8⟩, m)
  | .ok (h, m) =>
    match kernelHeader kobj h with
    | some f => .error (f, m)
    | none =>
      let n := bits (dwAt h 0).toNat 47 40
      let ta := (addrOf (dwAt h 2)).toNat
      match m.hreads p ta (2 * n) with
      | .error (f, m) => .error (⟨f.va / 16 * 16, 1, (f.va - ta) / 16, 8⟩, m)
      | .ok (tab, m) =>
        match tmplTable ta tab n with
        | some f => .error (f, m)
        | none =>
          let ts := (List.range n).map (fun k => tmplOf (dwAt tab (2 * k)) (dwAt tab (2 * k + 1)))
          let charea := bits (dwAt h 4).toNat 6 0
          let k : Kernel := { entry := dwAt h 1, gp := dwAt h 5, charea := charea, tmpls := ts, sems := [], rings := [] }
          if charea * 4096 < 128 * (ts.map (·.nblk)).sum then .error (⟨kobj, 0, 0, 6⟩, m)
          else
            let sa := if init ≠ 0 then init else (addrOf (dwAt h 3)).toNat
            if sa = 0 then .ok (k, m)
            else
              match m.hreads p sa 41 with
              | .error (_, m) => .error (⟨sa, 2, 0, 8⟩, m)
              | .ok (ds, m) =>
                match setupBad sa ds with
                | some f => .error (f, m)
                | none => .ok ({ k with sems := setupSems ds, rings := setupRings ds }, m)

/-- A rejected LAUNCH (R91): FAIL with FAULT and FIRST, R75, and the informational record. ITEM is the packet's index in its queue; of a
node of a graph, which has none, its index in the instance (DESIGN CHOICE, log 153). -/
def Mach.rejectLaunch (m : Mach) (d : Disp) (h : PktHdr) (first : Nat) (f : KFail) : Mach :=
  (m.failPkt d h (statusVal 1 first) false).post d.part
    { va := f.va, item := d.idx, src := 3, reason := 5, info := true,
      aux := f.index * 2 ^ 16 + f.obj * 2 ^ 8 + f.check } .none

/-! ### Graph objects (R86) -/

/-- A malformed header or patch entry. -/
def graphHeaderBad (ds : List Dword) (param : Nat) : Bool :=
  let d0 := dwAt ds 0
  let patches := bits d0.toNat 63 48
  let nodes := bits d0.toNat 47 32
  let pdw := (dwAt ds 1).toNat
  d0.extractLsb' 0 32 ≠ 0x47524146 || nodes = 0 || decide (4096 < nodes) || decide (4096 < patches) ||
    decide (4096 < pdw) || !addrOk (dwAt ds 2) || !aligned 64 (dwAt ds 2) || !addrOk (dwAt ds 3) ||
    (patches = 0 && dwAt ds 3 ≠ 0) || !zeros ds [4, 5, 6, 7] || (param = 0 && pdw ≠ 0)

def patchBad (e : Dword) (nodes pdw : Nat) : Bool :=
  bits e.toNat 63 28 ≠ 0 || e.getLsbD 15 || bits e.toNat 14 12 = 0 || decide (nodes ≤ bits e.toNat 11 0) ||
    decide (pdw ≤ bits e.toNat 27 16)

/-- What a GRAPH packet's reads give: nodes, node array and patched dwords; or the failed read, absent where the object
is malformed. -/
def Mach.readGraph (m : Mach) (p : PartId) (gobj param : Nat) :
    Except (Option HFail × Mach) (Nat × BitVec 56 × List (Nat × Dword) × Mach) :=
  match m.hreads p gobj 8 with
  | .error (f, m) => .error (some f, m)
  | .ok (h, m) =>
    if graphHeaderBad h param then .error (none, m)
    else
      let nodes := bits (dwAt h 0).toNat 47 32
      let pdw := (dwAt h 1).toNat
      match m.hreads p (dwAt h 3).toNat (bits (dwAt h 0).toNat 63 48) with
      | .error (f, m) => .error (some f, m)
      | .ok (tab, m) =>
        match m.hreads p param pdw with
        | .error (f, m) => .error (some f, m)
        | .ok (ps, m) =>
          if tab.any (fun e => patchBad e nodes pdw) then .error (none, m)
          else .ok (nodes, addrOf (dwAt h 2),
            tab.map (fun e => (bits e.toNat 11 0 * 8 + bits e.toNat 14 12, dwAt ps (bits e.toNat 27 16))), m)

end Sys2Proof.Machine
end

