-- ==== Sys2Proof/Machine/Packets.lean ====
section
/-! DEFINITION. The packets (R77-R86) and the Herder's own steps: fetching a packet, dispatching a graph node, evaluating a
WAITSIG, copy rows (R340), acknowledgements, completion and confirmation. -/
namespace Sys2Proof.Machine

/-! ### Dispatch (R69, R70) -/

/-- The packet of the turn as the Herder may dispatch it now: from its queue's checked copy, or the next node of its
graph instance. -/
def State.dispatchOf (s : State) (i : Instr) : Option Disp :=
  if !s.herding then none
  else
    match s.turn.act with
    | .node =>
      let n := s.turn.inst.toNat
      match s.m.inst n with
      | none => none
      | some x =>
        match s.m.readNode x with
        | .ok (some j, _) =>
          if j = i ∧ s.m.nodeReady n ∧ s.m.served = some x.queue then some (s.m.instDisp n x x.next) else none
        | _ => none
    | _ =>
      let q := s.turn.queue
      let x := s.m.queue q
      let d := s.m.queueDisp q (x.cidx.toNat - 1)
      if x.held = some i ∧ x.state = .active ∧ s.m.canDispatch d i ∧ s.m.served = some q then some d else none

/-- The bounding ranges of source and destination overlap (R79). -/
def copyRows (p : CopyBody) : Nat := if p.rows = 0 then 1 else p.rows.toNat

def copyOverlaps (p : CopyBody) : Bool :=
  let span := fun (stride : Nat) => (copyRows p - 1) * stride + p.len.toNat
  !p.fill && decide (p.src.toNat < p.dst.toNat + span p.dstr.toNat ∧ p.dst.toNat < p.src.toNat + span p.sstr.toNat)

/-- A COPY that fails the overlap check has not dispatched (R396). -/
def failsCheck (i : Instr) : Bool :=
  match i with
  | .copy _ p => p.len ≠ 0 && copyOverlaps p
  | _ => false

/-- The packet leaves its place, the checked copy or the instance's next node, and spends its queue's weight where it dispatches
(R69, R396). -/
def Mach.takePkt (m : Mach) (d : Disp) (i : Instr) : Mach :=
  let m := if failsCheck i then m else m.spend d.queue
  match d.src with
  | .queue q => m.modQueue q (fun x => { x with held := none })
  | .inst n => m.modInst n (fun x => { x with next := d.idx + 1 })

/-- Dispatch a packet if it is its turn. -/
def State.dispatch (s : State) (i : Instr) (f : Mach → Disp → Mach) : Host.Outcome State Fault Refusal :=
  .next (match s.dispatchOf i with
    | none => s
    | some d => s.onM (fun m => f (m.takePkt d i) d))

/-! ### WAITSIG (R74, R80) -/

def waitPairs (p : WaitBody) : List (Nat × Nat) :=
  [(p.sig0.toNat, p.t0.toNat), (p.sig1.toNat, p.t1.toNat), (p.sig2.toNat, p.t2.toNat), (p.sig3.toNat, p.t3.toNat)].filter
    (fun x => x.1 ≠ 0)

/-- Read the signals in order. -/
def Mach.sigReads (m : Mach) (p : PartId) : List (Nat × Nat) → Except (HFail × Mach) (List (Dword × Nat) × Mach)
  | [] => .ok ([], m)
  | x :: r =>
    match m.sigRead p x.1 with
    | .error e => .error e
    | .ok (v, m) =>
      match m.sigReads p r with
      | .error e => .error e
      | .ok (l, m) => .ok ((v, x.2) :: l, m)

/-- One evaluation of a waiting WAITSIG (R74). -/
def Mach.evaluate (m : Mach) (n : Nat) : Mach :=
  let m := { m with evalNow := ndel n m.evalNow, evalDue := ndel n m.evalDue, noteFirst := ndel n m.noteFirst }
  match m.work n with
  | none => m
  | some w =>
    match w.pkt with
    | .waitsig h p =>
      let d := m.dispOf w
      let gone := fun (m : Mach) => m.setWork n none
      match m.sigReads w.part (waitPairs p) with
      | .error (f, m) => (gone m).accessError d 5 f
      | .ok (l, m) =>
        match l.find? (fun x => x.1.toInt < 0) with
        | some (v, _) => (gone m).failPkt d h v false
        | none =>
          if l.all (fun x => decide (x.1.toNat ≤ x.2)) then (gone m).finishPkt d h
          else if p.tmo ≠ 0 ∧ p.tmo.toNat * 1600 ≤ (m.time - w.start).toNat then (gone m).failPkt d h (statusVal 5 0) false
          else m
    | _ => m

/-- Every waiting WAITSIG is evaluated at once after an update by the Herder, and again after each update that this makes (R74,
R396), in ascending work number. -/
def Mach.evalPass (m : Mach) : Nat → Mach
  | 0 => m
  | n + 1 =>
    match m.evalNow with
    | [] => m
    | w :: _ => (m.evaluate w).evalPass n

/-- Each completion or abort that an evaluation makes has all the others evaluated again: more rounds than that are never
needed. -/
def Mach.evalNowAll (m : Mach) : Mach := if m.evalNow = [] then m else m.evalPass ((m.works.length + 1) * (m.works.length + 1))

def Mach.runWaitsig (m : Mach) (d : Disp) (i : Instr) (h : PktHdr) : Mach :=
  let (n, m) := m.startWork d i h
  m.evaluate n

/-! ### NOP, SIGNAL, COND, TIMESTAMP, DRAIN -/

/-- A SIGNAL updates its signal, then completes (R81); the waiting WAITSIGs are evaluated after either update (R74). -/
def Mach.runSignal (m : Mach) (d : Disp) (h : PktHdr) (p : SignalBody) : Mach :=
  let op : SigOp := if p.op = 0 then .dec p.val.toNat else if p.op = 1 then .inc p.val.toNat else .set p.val
  match m.sigUpdate d.part p.sig.toNat op with
  | .ok m => m.evalNowAll.finishPkt d h
  | .error (f, m) => m.accessError d 5 f

/-- The comparison of a COND (R82). -/
def condTrue (p : CondBody) (x : Dword) : Bool :=
  let sx := fun (y : Dword) => if p.dword then y else sextLow y 32
  let zx := fun (y : Dword) => if p.dword then y else zextLow y 32
  match p.cmp.toNat with
  | 0 => sx x = sx p.cmpv
  | 1 => sx x ≠ sx p.cmpv
  | 2 => (sx x).slt (sx p.cmpv)
  | 3 => !(sx x).slt (sx p.cmpv)
  | 4 => (zx x).ult (zx p.cmpv)
  | _ => !(zx x).ult (zx p.cmpv)

/-- The predicate: a word or a dword (R82). -/
def Mach.readPred (m : Mach) (p : PartId) (c : CondBody) : Except (HFail × Mach) (Dword × Mach) :=
  match m.hread p (c.pred.toNat / 8 * 8) with
  | .error (f, m) => .error ({ f with va := c.pred.toNat }, m)
  | .ok (x, m) => .ok (if c.dword then x else zextLow (x >>> (8 * (c.pred.toNat % 8))) 32, m)

/-- A COND acts on its predicate (R82). -/
def Mach.runCond (m : Mach) (d : Disp) (h : PktHdr) (c : CondBody) : Mach :=
  match m.readPred d.part c with
  | .error (f, m) => m.accessError d 4 f
  | .ok (x, m) =>
    let go := condTrue c x
    match d.src with
    | .queue q =>
      let m := if go then m.modQueue q (fun y => { y with skip := y.skip + c.n.toNat }) else m
      m.finishPkt d h
    | .inst n =>
      let passes := match m.inst n with
        | some y => tget 0 y.iters d.idx + 1
        | none => 1
      let count := fun (m : Mach) (k : Nat) => m.modInst n (fun y => { y with iters := tput 0 y.iters d.idx k })
      if !go then (count m 0).finishPkt d h
      else if c.act = 0 then (m.modInst n (fun y => { y with next := d.idx + 1 + c.n.toNat })).finishPkt d h
      else if c.limit.toNat < passes then (count m passes).failPkt d h (statusVal 4 d.idx) true
      else
        let back := if c.act = 1 then 1 else c.n.toNat
        (count m passes).modInst n (fun y => { y with next := d.idx - back })

/-- A TIMESTAMP writes package time to DST and completes once the write has been performed (R85, R186): at once in this package
and at the host; a write of another package or of a replicated page is a message, whose answer ends the packet's work. -/
def Mach.runTimestamp (m : Mach) (d : Disp) (i : Instr) (h : PktHdr) (dst : BitVec 56) : Mach :=
  let bs := toBytes 8 m.time.toNat
  let e := m.herderDie
  let fail := fun (m : Mach) (w : Option WalkFail) =>
    let f : HFail := ⟨dst.toNat, w⟩
    (m.failPkt d h (statusVal 1 0) false).post d.part
      { va := f.va, item := d.idx, src := 3, reason := f.reason, level := f.level, acc := 1, info := true,
        aux := d.queue.toNat } .none
  let away := fun (x : Msg) (pl : Place) =>
    if !m.routed e x.dpkg then fail m none
    else
      let (n, m) := m.startWork d i h
      m.requestOrWait e x (.work n) pl
  let m := m.walked (.die e) d.part dst.toNat
  match m.translate (.die e) d.part dst.toNat 8 .write false with
  | .bad w => fail m (some w)
  | .ok (.here pa) _ =>
    let (ok, m) := m.checkGrant pa masterHerder .write false
    if ok then (m.writePa pa bs).finishPkt d h else fail m none
  | .ok (.host ba) _ => { m with hostMem := Memory.writeBytes m.hostMem ba bs }.finishPkt d h
  | .ok (.away pkg pa) _ =>
    if pkg = m.pkg then fail m none else away (writeMsg pkg pa bs 0 sagentHerder 0) (.away pkg pa)
  | .ok (.repl set off) _ =>
    let (pkg, q) := m.sequencer e set
    away (updateWriteMsg pkg e q set off bs 0 sagentHerder 0) (.repl set off)

/-- Every packet of the partition dispatched before work `n` has completed. -/
def Mach.earlierDone (m : Mach) (p : PartId) (n : Nat) : Bool :=
  m.works.all (fun w => match w.2 with
    | some x => !(x.part = p && decide (w.1 < n))
    | none => true)

/-- A DRAIN with ALL set whose time has come is done. -/
def Mach.drainSettle (m : Mach) (n : Nat) : Mach :=
  match m.work n with
  | some w => if isDrain w.pkt && m.earlierDone w.part n then m.modWork n (fun w => { w with state := .done }) else m
  | none => m

/-- A DRAIN (R85): its queue's earlier packets have completed when it dispatches (R70). -/
def Mach.runDrain (m : Mach) (d : Disp) (i : Instr) (h : PktHdr) (all : Bool) : Mach :=
  if !all then m.finishPkt d h
  else
    let (n, m) := m.startWork d i h
    (m.drainSettle n).endWork n

/-! ### COPY (R79, R340) -/

/-- Split [a, a + n) at 64-byte lines: offset and length of each piece. -/
def linePieces (a n : Nat) : List (Nat × Nat) :=
  (List.range ((a + n + 63) / 64 - a / 64)).map (fun k =>
    let lo := Nat.max a ((a / 64 + k) * 64)
    let hi := Nat.min (a + n) ((a / 64 + k + 1) * 64)
    (lo - a, hi - lo))

/-- The die whose HBM or pool holds a byte. -/
def Mach.byteDie (m : Mach) (p : PartId) (va : Nat) : Option DieId :=
  match m.translate (.die 0) p va 1 .read false with
  | .ok (.here pa) _ => some (paDie pa)
  | .ok (.repl set off) _ => (m.replicaPa set off).map paDie
  | _ => none

/-- The die and engine a copy is given to (R79). -/
def Mach.copyEngine (m : Mach) (p : PartId) (b : CopyBody) : DieId × BitVec 2 :=
  let die := ((m.byteDie p b.dst.toNat).orElse (fun _ => if b.fill then none else m.byteDie p b.src.toNat)).getD 0
  let load := fun (k : Nat) => (tget [] (m.die die).copies k).length
  let best := (List.range 4).foldl (fun b k => if load k < load b then k else b) 0
  (die, BitVec.ofNat 2 best)

def Mach.setJobs (m : Mach) (die : DieId) (e : BitVec 2) (f : List CopyJob → List CopyJob) : Mach :=
  m.modDie die (fun y => { y with copies := tmod [] y.copies e.toNat f })

/-- Change the job an engine is working on. -/
def Mach.modJob (m : Mach) (die : DieId) (e : BitVec 2) (f : CopyJob → CopyJob) : Mach :=
  m.setJobs die e (fun l => match l with
    | [] => []
    | j :: r => f j :: r)

def Mach.runCopy (m : Mach) (d : Disp) (i : Instr) (h : PktHdr) (p : CopyBody) : Mach :=
  if p.len = 0 then m.finishPkt d h
  else if copyOverlaps p then m.failPkt d h (statusVal 1 0) false
  else
    let (die, e) := m.copyEngine d.part p
    let (n, m) := m.startWork d i h
    m.setJobs die e (fun l => l ++ [⟨n, d.part, p, 0, 0, none, []⟩])

/-- The job of an engine is over. -/
def Mach.jobEnd (m : Mach) (die : DieId) (e : BitVec 2) (st : WState) (low : Option Nat) : Mach :=
  match tget [] (m.die die).copies e.toNat with
  | [] => m
  | j :: r =>
    let m := m.setJobs die e (fun _ => r)
    m.modWork j.work (fun w => { w with state := st, count := j.row, low := low })

/-- A row fails: FAULT with its index (R79, R171). -/
def Mach.rowFault (m : Mach) (die : DieId) (e : BitVec 2) (row : Nat) : Mach :=
  m.jobEnd die e (.failed (statusVal 1 row)) (some row)

/-- Translate the pieces of a chunk; the first that fails parks the copy. -/
def Mach.placePieces (m : Mach) (die : DieId) (p : PartId) (va : Nat) (acc : Acc) :
    List (Nat × Nat) → Except (Nat × WalkFail) (List (Nat × Nat × Place))
  | [] => .ok []
  | x :: r =>
    match m.translate (.die die) p (va + x.1) x.2 acc true with
    | .bad w => .error (va + x.1, w)
    | .ok pl _ =>
      match m.placePieces die p va acc r with
      | .error e => .error e
      | .ok l => .ok ((x.1, x.2, pl) :: l)

/-- The walks for the pieces of a chunk (R172). -/
def Mach.walkPieces (m : Mach) (die : DieId) (p : PartId) (va : Nat) (l : List (Nat × Nat)) : Mach :=
  l.foldl (fun (m : Mach) x => m.walked (.die die) p (va + x.1)) m

/-- A place that another die must be asked for: the request that reads it (R408). -/
def Mach.copyReadMsg (m : Mach) (die : DieId) (p : PartId) (e : BitVec 2) (pl : Place) (n : Nat) : Option Msg :=
  match pl with
  | .here pa => if paDie pa = die then none else some (readMsg m.pkg pa n p (sagentCopy e) 0)
  | .away pkg pa => some (readMsg pkg pa n p (sagentCopy e) 0)
  | .repl set off =>
    if m.isMember set die then none
    else
      let (pkg, d) := m.sequencer die set
      some (readMsg pkg (hbmPa d off) n p (sagentCopy e) 0)
  | _ => none

/-- Read a piece that needs no message: STATUS (3 is poison), bytes, machine. -/
def Mach.copyRead (m : Mach) (die : DieId) (e : BitVec 2) (pl : Place) (n : Nat) : Nat × Nat × Mach :=
  match pl with
  | .here pa => m.readHere pa n (masterCopy die e)
  | .host ba => (0, Memory.read m.hostMem ba n, m)
  | .repl _ off => m.readHere (hbmPa die off) n (masterCopy die e)
  | .away _ _ => (0, 0, m)

/-- Write a piece on the own die or the host: refused or not. -/
def Mach.copyWrite (m : Mach) (die : DieId) (e : BitVec 2) (pl : Place) (bs : List (Byte × Bool)) : Bool × Mach :=
  match pl with
  | .here pa =>
    if paDie pa ≠ die then (true, m)
    else
      let (ok, m) := m.checkGrant pa (masterCopy die e) .write false
      if !ok then (false, m)
      else
        let m := m.writePa pa (bs.map (·.1))
        (true, (bs.zipIdx).foldl (fun (m : Mach) x => if x.1.2 then m.poison (pa + x.2) 1 else m) m)
  | .host ba => (true, { m with hostMem := Memory.writeBytes m.hostMem ba (bs.map (·.1)) })
  | _ => (true, m)

/-- The message that writes a piece on another die, another package or a replicated page, and which of its bytes are poisoned (R138; log 63). -/
def Mach.copyWriteMsg (m : Mach) (die : DieId) (p : PartId) (e : BitVec 2) (pl : Place) (bs : List (Byte × Bool)) :
    Option (Msg × List Nat) :=
  let data := bs.map (·.1)
  let pois := bs.zipIdx.filterMap (fun x => if x.1.2 then some x.2 else none)
  match pl with
  | .here pa => if paDie pa = die then none else some (writeMsg m.pkg pa data p (sagentCopy e) 0, slotPois pa pois)
  | .away pkg pa => some (writeMsg pkg pa data p (sagentCopy e) 0, slotPois pa pois)
  | .repl set off =>
    let (pkg, d) := m.sequencer die set
    some (updateWriteMsg pkg die d set off data p (sagentCopy e) 0, slotPois off pois)
  | _ => none

/-- The mark of a write among a job's answers: size 0. -/
def isWriteAns (a : RAns) : Bool := a.size = 0

/-- Send what a job waits for, as far as the tags reach. -/
def Mach.copyAsk (m : Mach) (die : DieId) (e : BitVec 2) (l : List (Place × Nat × Msg × List Nat)) : Mach :=
  l.foldl (fun (m : Mach) x =>
    let new := m.modJob die e (fun j => { j with answers := j.answers ++ [⟨x.1, x.2.1, none⟩] })
    match new.ask die x.2.2.1 (.copy die e) x.1 x.2.2.2 with
    | some m => m
    | none => m) m

/-- A chunk has been written: the next chunk, row or the end of the packet. -/
def Mach.chunkDone (m : Mach) (die : DieId) (e : BitVec 2) (j : CopyJob) (n : Nat) : Mach :=
  if j.pos + n < j.body.len.toNat then m.modJob die e (fun j => { j with pos := j.pos + n, answers := [] })
  else
    let m := m.modJob die e (fun j => { j with pos := 0, row := j.row + 1, answers := [] })
    if j.row + 1 < copyRows j.body then m else m.jobEnd die e .done none

/-- The data of a chunk: STATUS of the first piece that fails, and bytes with their poison. -/
def Mach.copyData (m : Mach) (die : DieId) (e : BitVec 2) (j : CopyJob) (l : List (Nat × Nat × Place)) :
    Nat × List (Byte × Bool) × Mach :=
  l.foldl (fun (acc : Nat × List (Byte × Bool) × Mach) (x : Nat × Nat × Place) =>
    let (st0, bs, m) := acc
    let (st, v, m) := match m.copyReadMsg die j.part e x.2.2 x.2.1 with
      | none => m.copyRead die e x.2.2 x.2.1
      | some _ =>
        match j.answers.find? (fun (a : RAns) => a.place = x.2.2 && a.size = x.2.1) with
        | some a => match a.resp with
          | some (st, data) => (st, answerBytes x.2.2 x.2.1 data false, m)
          | none => (0, 0, m)
        | none => (0, 0, m)
    let bad := if st = 0 ∨ st = 3 then 0 else st
    (if st0 = 0 then bad else st0, bs ++ (toBytes x.2.1 v).map (fun b => (b, decide (st = 3))), m)) (0, [], m)

/-- The pattern's bytes from byte `k` of a row on. -/
def fillBytes (pat : Dword) (k n : Nat) : List (Byte × Bool) :=
  (List.range n).map (fun i => (pat.extractLsb' (8 * ((k + i) % 8)) 8, false))

/-- The copy parks on a failed translation and its record is posted (R79, R174). -/
def Mach.copyPark (m : Mach) (die : DieId) (e : BitVec 2) (j : CopyJob) (va : Nat) (acc : Acc) (w : WalkFail) : Mach :=
  let seq := m.nextSeq j.part
  (m.modJob die e (fun j => { j with parked := some seq, answers := [] })).post j.part
    { va := va, item := ((m.work j.work).map (·.idx)).getD 0, src := 2, eng := e.toNat, acc := acc.code, reason := w.reason, level := w.level, aux := j.row }
    (.copy die e)

/-- One chunk of at most 4 KiB of the job an engine works on: it waits for what it has sent, and goes on once that is
answered. -/
def Mach.copyChunk (m : Mach) (die : DieId) (e : BitVec 2) (j : CopyJob) : Mach :=
  let b := j.body
  let n := Nat.min 4096 (b.len.toNat - j.pos)
  let sva := b.src.toNat + j.row * b.sstr.toNat + j.pos
  let dva := b.dst.toNat + j.row * b.dstr.toNat + j.pos
  let failed := fun (a : RAns) => match a.resp with
    | some (st, _) => st ≠ 0
    | none => false
  if j.answers.any (fun a => a.resp.isNone) then m
  else if j.answers.any isWriteAns then
    if (j.answers.filter isWriteAns).any failed then m.rowFault die e j.row else m.chunkDone die e j n
  else
    let m := m.walkPieces die j.part dva (linePieces dva n)
    let m := if b.fill then m else m.walkPieces die j.part sva (linePieces sva n)
    match (if b.fill then .ok [] else m.placePieces die j.part sva .read (linePieces sva n)) with
    | .error (va, w) => m.copyPark die e j va .read w
    | .ok src =>
      match m.placePieces die j.part dva .write (linePieces dva n) with
      | .error (va, w) => m.copyPark die e j va .write w
      | .ok dst =>
        let asks := src.filterMap (fun x =>
          if j.answers.any (fun (a : RAns) => a.place = x.2.2 && a.size = x.2.1) then none
          else (m.copyReadMsg die j.part e x.2.2 x.2.1).map (fun q => (x.2.2, x.2.1, q, ([] : List Nat))))
        if !asks.isEmpty then m.copyAsk die e asks
        else
          let (st, bs, m) := if b.fill then (0, fillBytes b.src j.pos n, m) else m.copyData die e j src
          if st ≠ 0 then m.rowFault die e j.row
          else
            let outs := dst.filterMap (fun x =>
              (m.copyWriteMsg die j.part e x.2.2 ((bs.drop x.1).take x.2.1)).map (fun q => (x.2.2, 0, q)))
            if !m.tagRoom die (outs.map (fun x => (x.2.2.1.dpkg, x.2.2.1.ddie))) then m
            else
              let (ok, m) := dst.foldl (fun (acc : Bool × Mach) x =>
                let (ok, m) := acc.2.copyWrite die e x.2.2 ((bs.drop x.1).take x.2.1)
                (acc.1 && ok, m)) (true, m)
              if !ok then m.rowFault die e j.row
              else if outs.isEmpty then m.chunkDone die e j n
              else m.copyAsk die e outs

/-- COPY_ROW_COMPLETE (R79, R340): the engine moves the next chunk of its row. -/
def execCopyRowComplete (die : DieId) (eng : BitVec 2) (s : State) : Host.Outcome State Fault Refusal :=
  .next (s.onM (fun m =>
    match tget [] (m.die die).copies eng.toNat with
    | [] => m
    | j :: _ => if j.parked.isSome then m else m.copyChunk die eng j))

/-! ### IINV (R84) -/

/-- A die's Mushers of the partition drop the lines of a range. -/
def Mach.iinvDie (m : Mach) (die : DieId) (p : PartId) (a n : Nat) : Mach :=
  (List.range 8).foldl (fun (m : Mach) k =>
    let c := clusterOf die k
    if (m.clu c).rotation.contains p || (m.clu c).resident = some p then m.iinvCore c p a n else m) m

def Mach.runIinv (m : Mach) (d : Disp) (i : Instr) (h : PktHdr) (len : BitVec 40) (die : DieId) (scope : BitVec 3) : Mach :=
  if len = 0 then m.finishPkt d h
  else
    let (n, m) := m.startWork d i h
    m.modWork n (fun w => { w with acks := if scope = 3 then [die.toNat] else [0, 1, 2, 3] })

/-- IINV_ACKNOWLEDGE (R84): a die has dropped the lines and acknowledges. -/
def execIinvAcknowledge (w : Nat) (die : DieId) (s : State) : Host.Outcome State Fault Refusal :=
  .next (s.onM (fun m =>
    match m.work w with
    | none => m
    | some x =>
      match x.pkt with
      | .iinvPacket _ start len _ _ =>
        if !x.acks.contains die.toNat then m
        else
          let left := x.acks.filter (· ≠ die.toNat)
          (m.iinvDie die x.part start.toNat len.toNat).modWork w (fun x =>
            { x with acks := left, state := if left.isEmpty then .done else x.state })
      | _ => m))

/-! ### GRAPH (R83, R86, R87) -/

def Mach.freeInst (m : Mach) : Nat := ((List.range 256).find? (fun k => (m.inst k).isNone)).getD 0

def Mach.runGraph (m : Mach) (d : Disp) (i : Instr) (h : PktHdr) (gobj param : BitVec 56) : Mach :=
  match m.readGraph d.part gobj.toNat param.toNat with
  | .error (some f, m) => m.accessError d 7 f
  | .error (none, m) => m.packetError d 7
  | .ok (nodes, nodea, patched, m) =>
    let (n, m) := m.startWork d i h
    m.setInst m.freeInst (some
      { gobj := gobj, queue := d.queue, part := d.part, work := n, nodes := nodes, nodea := nodea, patched := patched,
        next := 0, iters := [], ended := false, fail := none, start := m.time })

/-! ### LAUNCH (R78, R91, R94, R99) -/

/-- The address of the packet itself (R91). -/
def Mach.packetVa (m : Mach) (d : Disp) : Nat :=
  match d.src with
  | .queue q => (m.queue q).slotVa d.idx
  | .inst n => match m.inst n with
    | some x => x.nodea.toNat + 64 * d.idx
    | none => 0

def Mach.groupOf (m : Mach) (lgid : BitVec 16) : Option (Nat × LGroup) := m.groups.find? (fun g => g.2.lgid = lgid)

/-- Do the four values a member sent agree with a LAUNCH (R99). -/
def agrees (p : LaunchBody) (x : BitVec 12 × BitVec 56 × Word × Word × BitVec 4) : Bool :=
  x.2.1 = p.kobj && x.2.2.1 = p.first && x.2.2.2.1 = p.count && x.2.2.2.2 = p.team

/-- The first values heard from each member, and what stays for a later launch. -/
def takeHeard (l : List (BitVec 12 × BitVec 56 × Word × Word × BitVec 4)) :
    List (BitVec 12 × BitVec 56 × Word × Word × BitVec 4) × List (BitVec 12 × BitVec 56 × Word × Word × BitVec 4) :=
  l.foldl (fun acc x => if acc.1.any (fun y => y.1 = x.1) then (acc.1, acc.2 ++ [x]) else (acc.1 ++ [x], acc.2)) ([], [])

/-- The launch a LAUNCH packet starts: group size `P`, rank `r`, the members still to be heard. -/
def Mach.startLaunch (m : Mach) (d : Disp) (i : Instr) (h : PktHdr) (p : LaunchBody) (k : Kernel) (w : List Nat)
    (size rank : Nat) (await : List (BitVec 12)) : Mach :=
  let (n, m) := m.startWork d i h
  let lid := m.nextLid
  let teams := cdiv p.count.toNat p.team.toNat
  let lo := teams * rank / size
  let hi := teams * (rank + 1) / size
  let prio := (m.queue d.queue).prio
  let l : Launch :=
    { lid := lid, part := d.part, func := d.func, work := n, queue := d.queue,
      idx := d.idx,
      qidx := match d.src with
        | .queue _ => d.idx
        | .inst k => ((m.inst k).bind (fun x => m.work x.work)).elim 0 (·.idx)
      graph := match d.src with
        | .queue _ => none
        | .inst k => (m.inst k).map (·.work)
      pri := if prio.toNat < p.pri.toNat then prio else p.pri, fixed := p.fixed, team := p.team.toNat,
      first := p.first.toNat, count := p.count.toNat, args := p.args, conf := p.conf, lgid := p.lgid, kobj := p.kobj,
      kernel := k, teamLo := lo, teamHi := hi, took := [], retired := 0, total := 0, low := none, complete := false, tiles := [],
      away := [], owed := [], await := await, exported := false }
  let m := { m.setLaunch lid (some { l with total := l.itemsIn lo hi }) with nextLid := lid + 1 }
  ((m.takeTickets d.part lid w lo (hi - lo)).settleLaunch lid).sched

/-- The update of CONF (R73, R124, R126): a signal that cannot be written is Q.BADSIG of the LAUNCH's queue, or of the instance it
was a node of while that runs. -/
def Mach.confSignal (m : Mach) (l : Launch) (op : SigOp) : Mach :=
  if l.conf = 0 then m
  else
    match m.sigUpdate l.part l.conf.toNat op with
    | .ok m => m
    | .error (f, m) =>
      let q := m.queue l.queue
      match l.graph.bind m.instOfWork with
      | some (k, _) => m.accessError ⟨.inst k, l.idx, l.queue, l.part, l.func⟩ 5 f
      | none =>
        if q.part = l.part ∧ q.owner = l.func then m.accessError ⟨.queue l.queue, l.qidx, l.queue, l.part, l.func⟩ 5 f
        else m.qRecord ⟨.queue l.queue, l.qidx, l.queue, l.part, l.func⟩ 5 f

/-- A LAUNCH dispatches (R78, R91): its checks, then its launch. One of no items has nothing to be confirmed by a lease
(R124). -/
def Mach.runLaunch (m : Mach) (d : Disp) (i : Instr) (h : PktHdr) (p : LaunchBody) : Mach :=
  match m.checkKernel d.part p.kobj.toNat p.init.toNat with
  | .error (f, m) => m.rejectLaunch d h p.first.toNat f
  | .ok (k, m) =>
    let self := fun (c : Nat) => (⟨m.packetVa d, 3, 0, c⟩ : KFail)
    let w := m.weights d.part p
    if p.count = 0 then
      let m := (m.finishPkt d h).evalNowAll
      if p.conf = 0 then m
      else match m.sigUpdate d.part p.conf.toNat (.dec 1) with
        | .ok m => m
        | .error (f, m) => m.accessError d 5 f
    else if w.sum = 0 then m.rejectLaunch d h p.first.toNat (self 9)
    else if p.lgid = 0 then m.startLaunch d i h p k w 1 0 []
    else
      match m.groupOf p.lgid with
      | none => m.rejectLaunch d h p.first.toNat (self 10)
      | some (n, g) =>
        let (now, later) := takeHeard g.heard
        let m := { m with groups := tput LGroup.free m.groups n { g with heard := later } }
        if !now.all (agrees p) then m.rejectLaunch d h p.first.toNat (self 11)
        else
          let others := (g.members.zipIdx.filter (fun x => x.2 ≠ g.rank)).map (·.1)
          m.startLaunch d i h p k w g.size g.rank (others.filter (fun x => !now.any (fun y => y.1 = x)))

/-- LAUNCH_GROUP_EXCHANGE (R99): a member's four values reach the oldest dispatched LAUNCH that waits for them, or are
kept for the next one, also where they come late for a LAUNCH that has failed here (DESIGN CHOICE, log 154). -/
def execLaunchGroupExchange (lgid : BitVec 16) (pkg : BitVec 12) (kobj : BitVec 56) (first count : Word) (team : BitVec 4)
    (s : State) : Host.Outcome State Fault Refusal :=
  .next (s.onM (fun m =>
    match m.groupOf lgid with
    | none => m
    | some (n, g) =>
      match m.launches.findSome? (fun x => match x.2 with
        | some l => if l.lgid = lgid && l.await.contains pkg then some l else none
        | none => none) with
      | none =>
        { m with groups := tput LGroup.free m.groups n { g with heard := g.heard ++ [(pkg, kobj, first, count, team)] } }
      | some l =>
        if kobj = l.kobj ∧ first.toNat = l.first ∧ count.toNat = l.count ∧ team.toNat = l.team then
          ((m.setLaunch l.lid (some { l with await := l.await.filter (· ≠ pkg) })).settleLaunch l.lid).sched
        else
          match m.work l.work with
          | none => m
          | some w =>
            let d := m.dispOf w
            let va := m.packetVa d
            let m := ((m.setLaunch l.lid (some { l with complete := true, await := [], conf := 0 })).setWork l.work none)
            let m := (List.range 4).foldl (fun (m : Mach) k =>
              m.setTicket (BitVec.ofNat 2 k) l.lid (fun x => { x with stop := x.next })) m
            ((m.freeTickets l.lid).forget l.lid).rejectLaunch d w.hdr l.first ⟨va, 3, 0, 11⟩))

/-! ### The packets' meanings -/

/-- NOP (R77). -/
def execNop (h : PktHdr) (s : State) : Host.Outcome State Fault Refusal :=
  s.dispatch (.nop h) (fun m d => m.finishPkt d h)

/-- LAUNCH (R78). -/
def execLaunch (h : PktHdr) (p : LaunchBody) (s : State) : Host.Outcome State Fault Refusal :=
  s.dispatch (.launch h p) (fun m d => m.runLaunch d (.launch h p) h p)

/-- COPY (R79). -/
def execCopy (h : PktHdr) (p : CopyBody) (s : State) : Host.Outcome State Fault Refusal :=
  s.dispatch (.copy h p) (fun m d => m.runCopy d (.copy h p) h p)

/-- WAITSIG (R80): evaluated when it dispatches. -/
def execWaitsig (h : PktHdr) (p : WaitBody) (s : State) : Host.Outcome State Fault Refusal :=
  s.dispatch (.waitsig h p) (fun m d => m.runWaitsig d (.waitsig h p) h)

/-- SIGNAL (R81). -/
def execSignal (h : PktHdr) (p : SignalBody) (s : State) : Host.Outcome State Fault Refusal :=
  s.dispatch (.signal h p) (fun m d => m.runSignal d h p)

/-- COND (R82). -/
def execCond (h : PktHdr) (p : CondBody) (s : State) : Host.Outcome State Fault Refusal :=
  s.dispatch (.cond h p) (fun m d => m.runCond d h p)

/-- GRAPH (R83). -/
def execGraph (h : PktHdr) (gobj param : BitVec 56) (s : State) : Host.Outcome State Fault Refusal :=
  s.dispatch (.graph h gobj param) (fun m d => m.runGraph d (.graph h gobj param) h gobj param)

/-- IINV (R84). -/
def execIinvPacket (h : PktHdr) (start : BitVec 56) (len : BitVec 40) (die : DieId) (scope : BitVec 3) (s : State) :
    Host.Outcome State Fault Refusal :=
  s.dispatch (.iinvPacket h start len die scope) (fun m d =>
    m.runIinv d (.iinvPacket h start len die scope) h len die scope)

/-- TIMESTAMP (R85). -/
def execTimestamp (h : PktHdr) (dst : BitVec 56) (s : State) : Host.Outcome State Fault Refusal :=
  s.dispatch (.timestamp h dst) (fun m d => m.runTimestamp d (.timestamp h dst) h dst)

/-- DRAIN (R85). -/
def execDrain (h : PktHdr) (all : Bool) (s : State) : Host.Outcome State Fault Refusal :=
  s.dispatch (.drain h all) (fun m d => m.runDrain d (.drain h all) h all)

/-- What a packet does once it has left its queue or instance. -/
def Mach.runPkt (m : Mach) (d : Disp) (i : Instr) : Mach :=
  match i with
  | .nop h => m.finishPkt d h
  | .launch h p => m.runLaunch d i h p
  | .copy h p => m.runCopy d i h p
  | .waitsig h _ => m.runWaitsig d i h
  | .signal h p => m.runSignal d h p
  | .cond h p => m.runCond d h p
  | .graph h g p => m.runGraph d i h g p
  | .iinvPacket h _ len die scope => m.runIinv d i h len die scope
  | .timestamp h dst => m.runTimestamp d i h dst
  | .drain h all => m.runDrain d i h all
  | _ => m

/-! ### The Herder's steps -/

/-- LATCH − CIDX above the ring size is an error of an ACTIVE queue (R67). -/
def Mach.overrun (m : Mach) (q : QueueId) : Mach :=
  let x := m.queue q
  if x.state = .active ∧ 2 ^ x.log2n.toNat < x.latch.toNat - x.cidx.toNat then
    m.queueError q 8 x.erridx.toNat (cancelled 0)
  else m

/-- PACKET_FETCH (R70): the Herder reads and checks the next valid packet; CIDX passes it. A packet that cannot be read
is Q.FETCH, and its CSIG is not written (R68). -/
def execPacketFetch (q : QueueId) (s : State) : Host.Outcome State Fault Refusal :=
  .next (if !s.herding then s else s.onM (fun m =>
    let x := m.queue q
    if x.state ≠ .active || x.held.isSome || m.blocked (.queue q) || decide (x.latch.toNat ≤ x.cidx.toNat) then m
    else if 2 ^ x.log2n.toNat < x.latch.toNat - x.cidx.toNat then m.overrun q
    else if x.skip ≠ 0 then m.modQueue q (fun x => { x with skip := x.skip - 1, cidx := x.cidx + 1 })
    else
      let d := m.queueDisp q x.cidx.toNat
      match m.hreads x.part (x.slotVa x.cidx.toNat) 8 with
      | .error (f, m) => (m.modQueue q (fun x => { x with skip := 1 })).accessError d 4 f
      | .ok (ds, m) =>
        let m := m.modQueue q (fun x => { x with cidx := x.cidx + 1 })
        match decodePacket ds none with
        | none => m.packetError d 1
        | some i => m.modQueue q (fun x => { x with held := some i, stall := none })))

/-- GRAPH_NODE_DISPATCH (R86, R87): the next node of an instance is read with its patched dwords, and dispatches if it
can. -/
def execGraphNodeDispatch (inst : BitVec 8) (s : State) : Host.Outcome State Fault Refusal :=
  .next (if !s.herding then s else s.onM (fun m =>
    let n := inst.toNat
    match m.inst n with
    | none => m
    | some x =>
      if !m.nodeReady n || m.served ≠ some x.queue then m
      else
        let d := m.instDisp n x x.next
        match m.readNode x with
        | .error (f, m) => m.accessError d 4 f
        | .ok (none, m) => m.packetError d 1
        | .ok (some i, m) => (m.takePkt d i).runPkt d i))

/-- PACKET_COMPLETE (R70, R73): the work of a packet has retired and its writes are performed: its end is signalled. -/
def execPacketComplete (w : Nat) (s : State) : Host.Outcome State Fault Refusal :=
  .next (s.onM (fun m => if m.writesOut w then m else (m.drainSettle w).endWork w))

/-- Another WAITSIG of the partition names the signal of a SIGNOTE and is evaluated before this one (R305). -/
def Mach.noteBefore (m : Mach) (w : Nat) : Bool :=
  nhas m.evalDue w && !nhas m.noteFirst w && m.noteFirst.any (fun k =>
    ((m.work k).map (fun x => isWaitsig x.pkt && decide (some x.part = (m.work w).map (·.part)))).getD false)

/-- WAITSIG_EVALUATION (R74, R305). -/
def execWaitsigEvaluation (w : Nat) (s : State) : Host.Outcome State Fault Refusal :=
  .next (if s.fw.boot = .ready ∧ s.fw.upd ≠ .atBoundary ∧ s.m.noteBefore w = false then s.onM (fun m => m.evaluate w) else s)

/-- LAUNCH_CONFIRMED (R124): CONF receives DEC 1. -/
def execLaunchConfirmed (lid : Word) (s : State) : Host.Outcome State Fault Refusal :=
  .next (s.onM (fun m =>
    match m.launch lid with
    | none => m
    | some l =>
      if l.complete && l.conf ≠ 0 && l.tiles.isEmpty && l.owed.isEmpty then
        let m := m.confSignal l (.dec 1)
        (m.setLaunch lid (some { l with conf := 0 })).forget lid
      else m))

end Sys2Proof.Machine
end

