-- ==== Sys2Proof/Machine/Image.lean ====
section
/-! DEFINITION. Portable context images (R103, R104, R108, R418): capture of a tile and its thread, the image's bytes, reading
them back, and the restore onto a tile (R108, R229, R348). -/
namespace Sys2Proof.Machine

/-! ### Bytes of the state section -/

def ChainSt.code : ChainSt → Nat
  | .idle => 0 | .running => 1 | .ended => 2 | .parked => 3 | .faulted => 4

def ChainSt.ofCode (n : Nat) : ChainSt :=
  if n = 1 then .running else if n = 2 then .ended else if n = 3 then .parked else if n = 4 then .faulted else .idle

/-- Indices below level AT of the latched block (R143, R145): an iteration is under way while one is not 0. -/
def Chain.insideAt (x : Chain) (lvl : Nat) : Bool :=
  ([x.i0, x.i1, x.i2].take lvl).any (fun i => i ≠ 0)

def Chain.lvl (x : Chain) : Nat := ((x.latched.bind Instr.block?).map (fun p => p.2.lvl.toNat)).getD 0

def ixDword (i : Nat × Nat × Nat × Nat) : Nat := i.2.2.2 * 2 ^ 48 + i.2.2.1 * 2 ^ 32 + i.2.1 * 2 ^ 16 + i.1

def dwordIx (d : Nat) : Nat × Nat × Nat × Nat := (bits d 15 0, bits d 31 16, bits d 47 32, bits d 63 48)

def ctrWord (c : SqCtr) : Nat := if c.active then c.remaining.toNat * 2 ^ 16 + c.block.toNat * 2 ^ 4 + 1 else 0

def wordCtr (w : Nat) : SqCtr :=
  if tst w 0 then ⟨true, BitVec.ofNat 12 (bits w 15 4), BitVec.ofNat 16 (bits w 31 16)⟩ else SqCtr.off

/-- NPF and PF0 to PF3 of a chain (R247): a chain that neither runs nor is parked holds no block fetched ahead (log 23). -/
def aheadDword (c : Ctx) (charea : Nat) (e : Eng) : Nat :=
  let l := if (c.chain e).st = .running || (c.chain e).st = .parked then c.ahead charea e else []
  l.length * 2 ^ 48 + (l.zipIdx.map (fun p => p.1 * 2 ^ (12 * p.2))).sum

/-- WTAKEN of a chain (R418): the waits of its current iteration of level AT have been taken. -/
def Chain.waitsTaken (x : Chain) : Bool := x.latched.isSome && (x.phase = .steps || x.insideAt x.lvl)

/-- Dwords 0-5 of an engine's state, the last one given. -/
def chainHead (x : Chain) (pf : Nat) : List Nat :=
  let ctr := fun (n : Nat) => ctrWord (tget SqCtr.off x.loops n)
  [ x.pseq.toNat * 2 ^ 32 + x.cur * 2 ^ 16 + x.cause.toNat * 2 ^ 8 + b2n x.waitsTaken * 16 + b2n x.latched.isSome * 8 + x.st.code,
    x.flags.toNat * 2 ^ 48 + x.issue % 2 ^ 48,
    ixDword (x.i0, x.i1, x.i2, x.i3),
    ctr 0 + ctr 1 * 2 ^ 32, ctr 2 + ctr 3 * 2 ^ 32, pf ]

/-- A held signal list as HELD0 and HELD1 lay it out (R347). -/
def heldDword (l : List (BitVec 5 × Nat)) : Nat :=
  let one := fun (s : BitVec 5 × Nat) => 2 ^ 21 + s.1.toNat * 2 ^ 16 + Nat.min s.2 65535
  match l with
  | [] => 0
  | [a] => one a
  | a :: b :: _ => one a + one b * 2 ^ 22

def dwordHeld (d : Nat) : List (BitVec 5 × Nat) :=
  let one := fun (x : Nat) => if tst x 21 then [(BitVec.ofNat 5 (bits x 20 16), bits x 15 0)] else []
  one (d % 2 ^ 22) ++ one (d / 2 ^ 22 % 2 ^ 22)

def setMask (s : NSet) : Nat := s.foldl (fun a n => a + 2 ^ n) 0
def maskSet (d n : Nat) : NSet := (List.range n).filter (fun k => tst d k)

/-- INIT: the configured tiles every entry of which has been initialised in the window (R132, R418). -/
def initMask (acfg : Tbl Dword) (init : NSet) : Nat :=
  setMask ((List.range 64).filter (fun n => accV (tget 0 acfg n) && (tileEntries (tget 0 acfg n)).all (fun e => nhas init e)))

/-- The MX engine part, dwords 6-13. -/
def mxPart (x : Chain) (acfg : Tbl Dword) (e : MxExt) : List Nat :=
  [ b2n e.p1.sparse * 2 ^ 57 + e.p1.fmt.toNat * 2 ^ 49 + e.p1.blk.toNat * 2 ^ 37 + b2n e.p0.sparse * 2 ^ 36 +
      e.p0.fmt.toNat * 2 ^ 28 + e.p0.blk.toNat * 2 ^ 16 + b2n e.glb * 2 ^ 13 + b2n e.repl * 2 ^ 12 + e.tsblk.toNat,
    heldDword (addSigs e.p0.held e.p0.heldWin), heldDword (addSigs e.p1.held e.p1.heldWin), x.glmask.toNat, ixDword e.win0, setMask e.writ, initMask acfg e.init,
    x.glh.toNat ]

/-- The VX engine part: sixteen partial values. -/
def vxPart (x : Chain) : List Nat :=
  (List.range 8).map (fun k => (tget 0 x.red (2 * k)).toNat + (tget 0 x.red (2 * k + 1)).toNat * 2 ^ 32)

/-- The state of engine `e`, 14 dwords. -/
def chainDwords (c : Ctx) (charea : Nat) (e : Eng) : List Nat :=
  chainHead (c.chain e) (aheadDword c charea e) ++ (match e with
    | .mx => mxPart c.mx c.acfg c.ext
    | .vx => vxPart c.vx
    | _ => List.replicate 8 0)

def ringPos (r : Ring) : List Nat :=
  let eng := fun (o : Option Eng) => match o with
    | some e => 4 + e.code.toNat
    | none => 0
  [ r.tail.1 * 2 ^ 54 + r.tail.2 * 2 ^ 32 + r.head.1 * 2 ^ 22 + r.head.2, eng r.cons * 2 ^ 4 + eng r.prod ]

/-- The state section, offsets 0x40 to 0xFFF, as bytes (R108). -/
def stateBytes (c : Ctx) (charea : Nat) : List Byte :=
  let dw := fun (l : List Nat) => l.flatMap (toBytes 8)
  let x := c.ext
  dw (chainDwords c charea .ld) ++ dw (chainDwords c charea .mx) ++ dw (chainDwords c charea .vx) ++
    dw (chainDwords c charea .st) ++
    (List.range 32).flatMap (fun k => toBytes 4 (c.sem (BitVec.ofNat 5 k)).toNat) ++
    (List.range 16).flatMap (fun q => dw [(c.ring q).d0.toNat, (c.ring q).d1.toNat]) ++
    (List.range 16).flatMap (fun q => dw (ringPos (c.ring q))) ++
    (List.range 64).flatMap (fun w => dw [(c.win w).d0.toNat, (c.win w).d1.toNat, (c.win w).d2.toNat, (c.win w).d3.toNat]) ++
    (List.range 8).flatMap (fun h => toBytes 8 (c.handle (BitVec.ofNat 3 h)).toNat) ++
    (List.range 64).flatMap (fun a => toBytes 8 (c.accCfg a).toNat) ++
    (List.range 8).flatMap (fun k => toBytes 8 (tget 0 c.tec k).toNat) ++
    (List.range 8).map (fun k => tget 0 c.tes k) ++
    (List.range 64).map (fun a => let d := tget (false, 0) x.dup a; BitVec.ofNat 8 (b2n d.1 * 128 + d.2.toNat)) ++
    (List.range 32).flatMap (fun s => toBytes 2 (tget 0 x.defer s)) ++
    (List.range 16).flatMap (fun q => let h := tget (0, 0) x.ringHeads q; toBytes 4 (h.1 * 2 ^ 22 + h.2)) ++
    List.replicate 56 0

/-- The supervising-thread image, 512 bytes (R108, R307). -/
def threadBytes (t : ThreadImage) : List Byte :=
  let dw := fun (x : Dword) => toBytes 8 x.toNat
  (List.range 32).flatMap (fun r => dw (if r = 0 then 0 else tget 0 t.g r)) ++
    ([t.kstat, t.kepc, t.kcause, t.ktval, t.kcap.setWidth 64, t.kevt.setWidth 64, t.ktdbg].flatMap dw) ++
    (List.range 4).flatMap (fun k => dw (tget 0 t.kbpa k)) ++ List.replicate 168 0

def imageMagic : Nat := 0x4B4E4E4C

/-- Accumulator tiles that are configured (R143: V, bit 63). -/
def Ctx.accMask (c : Ctx) : Nat := setMask ((List.range 64).filter (fun a => (c.accCfg a).getLsbD 63))

/-- The header, 64 bytes (R108). -/
def headerBytes (im : Image) : List Byte :=
  [ 2 ^ 40 + im.level.toNat * 2 ^ 32 + imageMagic,
    im.lid.toNat * 2 ^ 32 + im.item.toNat, im.ctx.accMask,
    b2n (im.ctx.storePois ≠ [] || im.ctx.accPois ≠ []) * 2 ^ 21 + b2n im.complete * 2 ^ 20 + im.part.toNat * 2 ^ 16 +
      im.pos.toNat * 2 ^ 8 + im.tile.toNat, 0, 0, 0, 0 ].flatMap (toBytes 8)

def accFlags (e : AqEntry) : Nat := e.spec.toNat + b2n e.loss * 4 + b2n e.range * 8

/-- The whole image, 1,389,056 bytes (R108), of an item whose chain area is given. The flags of entries 2k and 2k + 1 share
byte k, the even index in the low nibble (R387). -/
def imageBytes (im : Image) (charea : Nat) : List Byte :=
  let c := im.ctx
  let e := fun (n : Nat) => tget AqEntry.zero c.acc n
  headerBytes im ++ stateBytes c charea ++ Memory.bytes c.store 0 (2 ^ 20) ++
    (List.range 16384).flatMap (fun n => toBytes 16 (e n).i.toNat) ++
    (List.range 8192).map (fun k => BitVec.ofNat 8 (accFlags (e (2 * k)) + accFlags (e (2 * k + 1)) * 16)) ++
    (List.range 16384).flatMap (fun n => toBytes 4 (e n).cnt.toNat) ++ threadBytes im.thr

/-! ### Reading an image back -/

/-- A reader of numbers in an image's bytes: offset, length. -/
abbrev Rd := Nat → Nat → Nat

def engOff (e : Eng) : Nat := 0x40 + 112 * e.code.toNat

/-- The engine's chain from its 112 bytes; what they do not lay out stays as in `x`. A chain that stands where `x` stood has taken the
ring waits that `x` had taken (R109). -/
def readChain (rd : Rd) (e : Eng) (words : Nat → List Dword) (x : Chain) : Chain :=
  let d := fun (k : Nat) => rd (engOff e + 8 * k) 8
  let cur := bits (d 0) 27 16
  let i := dwordIx (d 2)
  let ctr := fun (n : Nat) => wordCtr (rd (engOff e + 24 + 4 * n) 4)
  let ins := match decodeBlock e (words cur) with
    | .ok i => if tst (d 0) 3 then some i else none
    | _ => none
  let red := (List.range 16).foldl (fun t k => tput (0 : Word) t k (BitVec.ofNat 32 (rd (engOff e + 48 + 4 * k) 4))) []
  let y : Chain :=
    { x with
      st := ChainSt.ofCode (bits (d 0) 2 0), cur := cur, latched := if x.cur = cur ∧ x.latched.isSome ∧ tst (d 0) 3 then x.latched else ins,
      cause := BitVec.ofNat 8 (bits (d 0) 15 8), pseq := BitVec.ofNat 32 (bits (d 0) 63 32),
      flags := BitVec.ofNat 16 (bits (d 1) 63 48), issue := x.issue / 2 ^ 48 * 2 ^ 48 + bits (d 1) 47 0,
      i0 := i.1, i1 := i.2.1, i2 := i.2.2.1, i3 := i.2.2.2,
      loops := (List.range 4).foldl (fun t n => tput SqCtr.off t n (ctr n)) [],
      red := if e = .vx then red else x.red,
      glmask := if e = .mx then BitVec.ofNat 64 (d 9) else x.glmask,
      glh := if e = .mx then BitVec.ofNat 64 (d 13) else x.glh }
  let same := x.cur = cur ∧ x.latched.isSome = tst (d 0) 3 ∧ (x.i0, x.i1, x.i2, x.i3) = i ∧ x.waitsTaken = tst (d 0) 4
  let steps := y.latched.isSome && tst (d 0) 4 && !y.insideAt y.lvl
  if same then y else { y with phase := if steps then .steps else .waits, wtaken := steps }

/-- A plane's part of an image; signals that the bytes still name keep the window they belong to. -/
def readPlane (d6 held : Nat) (lo : Nat) (p : Plane) : Plane :=
  let same := heldDword (addSigs p.held p.heldWin) = held
  { p with fmt := BitVec.ofNat 8 (bits d6 (lo + 19) (lo + 12)), blk := BitVec.ofNat 12 (bits d6 (lo + 11) lo),
           sparse := tst d6 (lo + 20), held := if same then p.held else dwordHeld held, heldWin := if same then p.heldWin else [] }

/-- The entries initialised in the window, from INIT: those that are known where the mask is what they give, else every entry of
the tiles it names (R132, R418). -/
def initOf (acfg : Tbl Dword) (known : NSet) (mask : Nat) : NSet :=
  if initMask acfg known = mask then known
  else ((maskSet mask 64).flatMap (fun n => tileEntries (tget 0 acfg n))).foldl (fun s e => nins e s) []

/-- The MX part beyond the chain. -/
def readExt (rd : Rd) (acfg : Tbl Dword) (x : MxExt) : MxExt :=
  let d := fun (k : Nat) => rd (engOff .mx + 8 * k) 8
  let h := fun (q : Nat) => rd (0xF88 + 4 * q) 4
  let dupOf := fun (b : Nat) => (tst b 7, BitVec.ofNat 6 (bits b 5 0))
  { x with
    p0 := readPlane (d 6) (d 7) 16 x.p0, p1 := readPlane (d 6) (d 8) 37 x.p1, glb := tst (d 6) 13, repl := tst (d 6) 12,
    tsblk := BitVec.ofNat 12 (bits (d 6) 11 0), win0 := dwordIx (d 10), writ := maskSet (d 11) 64,
    init := initOf acfg x.init (d 12),
    dup := (List.range 64).foldl (fun t a => tput (false, 0) t a (dupOf (rd (0xF08 + a) 1))) [],
    defer := (List.range 32).foldl (fun t s => tput 0 t s (rd (0xF48 + 2 * s) 2)) [],
    ringHeads := (List.range 16).foldl (fun t q => tput (0, 0) t q (bits (h q) 31 22, bits (h q) 21 0)) [] }

def readRing (rd : Rd) (q : Nat) : Ring :=
  let a := rd (0x380 + 16 * q) 8
  let b := rd (0x388 + 16 * q) 8
  { d0 := BitVec.ofNat 64 (rd (0x280 + 16 * q) 8), d1 := BitVec.ofNat 64 (rd (0x288 + 16 * q) 8),
    tail := (bits a 63 54, bits a 53 32), head := (bits a 31 22, bits a 21 0),
    prod := if tst b 2 then some (Eng.ofCode (BitVec.ofNat 2 (bits b 1 0))) else none,
    cons := if tst b 6 then some (Eng.ofCode (BitVec.ofNat 2 (bits b 5 4))) else none }

/-- The context of an image from its bytes; what R108 does not lay out stays as in `c`. `store` is its tile store. -/
def readCtx (rd : Rd) (store : Memory) (charea : Nat) (c : Ctx) : Ctx :=
  let dw := fun (a : Nat) => BitVec.ofNat 64 (rd a 8)
  let words := fun (j : Nat) => ({ c with store := store } : Ctx).blockWords charea j
  let win := fun (w : Nat) => (⟨dw (0x480 + 32 * w), dw (0x488 + 32 * w), dw (0x490 + 32 * w), dw (0x498 + 32 * w)⟩ : Window)
  let entry := fun (n : Nat) =>
    let f := rd (0x141000 + n / 2) 1 / 16 ^ (n % 2) % 16
    (⟨BitVec.ofNat 128 (rd (0x101000 + 16 * n) 16), BitVec.ofNat 2 f, tst f 2, tst f 3,
      BitVec.ofNat 32 (rd (0x143000 + 4 * n) 4)⟩ : AqEntry)
  let acfg := (List.range 64).foldl (fun t a => tput 0 t a (dw (0xCC0 + 8 * a))) []
  { c with
    store := store,
    acc := (List.range 16384).foldl (fun t n => tput AqEntry.zero t n (entry n)) [],
    sems := (List.range 32).foldl (fun t k => tput 0 t k (BitVec.ofNat 16 (rd (0x200 + 4 * k) 4))) [],
    rings := (List.range 16).foldl (fun t q => tput Ring.off t q (readRing rd q)) [],
    wins := (List.range 64).foldl (fun t w => tput Window.off t w (win w)) [],
    hnd := (List.range 8).foldl (fun t h => tput 0 t h (dw (0xC80 + 8 * h))) [],
    acfg := acfg,
    tec := (List.range 8).foldl (fun t k => tput 0 t k (dw (0xEC0 + 8 * k))) [],
    tes := (List.range 8).foldl (fun t k => tput 0 t k (BitVec.ofNat 8 (rd (0xF00 + k) 1))) [],
    ld := readChain rd .ld words c.ld, mx := readChain rd .mx words c.mx, vx := readChain rd .vx words c.vx,
    st := readChain rd .st words c.st, ext := readExt rd acfg c.ext }

def readThread (rd : Rd) (t : ThreadImage) : ThreadImage :=
  let dw := fun (k : Nat) => BitVec.ofNat 64 (rd (0x153000 + 8 * k) 8)
  { t with
    g := (List.range 32).foldl (fun x r => if r = 0 then x else tput 0 x r (dw r)) [],
    kstat := dw 32, kepc := dw 33 &&& ~~~3, kcause := dw 34, ktval := dw 35, kcap := (dw 36).setWidth 4, kevt := (dw 37).setWidth 8,
    ktdbg := dw 38, kbpa := (List.range 4).foldl (fun x k => tput 0 x k (dw (39 + k))) [] }

/-- MAGIC, VER or LEVEL differs, a reserved field of the header is not zero, or COMPLETE is clear (R108). -/
def headerBad (rd : Rd) : Bool :=
  let d0 := rd 0 8
  let d3 := rd 24 8
  bits d0 31 0 ≠ imageMagic || bits d0 39 32 ≠ 1 || bits d0 47 40 ≠ 1 || bits d0 63 48 ≠ 0 || bits d3 63 22 ≠ 0 ||
    !tst d3 20 || (List.range 4).any (fun k => rd (32 + 8 * k) 8 ≠ 0)

/-- The bits of an engine's dword `k` that R418 lays out, and R210 of its flag word. -/
def engineMask (e k : Nat) : Nat :=
  if k = 0 then 0xFFFFFFFF0FFFFF1F
  else if k = 1 then 0x01FFFFFFFFFFFFFF
  else if k = 2 then 2 ^ 64 - 1
  else if k ≤ 4 then 0xFFFFFFF1FFFFFFF1
  else if k = 5 then 0x0007FFFFFFFFFFFF
  else if e = 1 then (if k = 6 then 0x03FFFFFFFFFF3FFF else if k ≤ 8 then 0x00000FFFFFFFFFFF else 2 ^ 64 - 1)
  else if e = 2 then 2 ^ 64 - 1
  else 0

/-- The bits of the dword at an offset of the state section that R108, R143, R145, R163, R220, R251 and R418 lay out; those of a
gangline handle depend on its K, in `v`. -/
def stateMask (a v : Nat) : Nat :=
  if a < 0x200 then engineMask ((a - 0x40) / 112) ((a - 0x40) % 112 / 8)
  else if a < 0x280 then 0x0000FFFF0000FFFF
  else if a < 0x380 then (if a % 16 = 0 then 0x80FFFFFFFFFFFFFF else 0x00003FFF00000007)
  else if a < 0x480 then (if a % 16 = 0 then 2 ^ 64 - 1 else 0x77)
  else if a < 0xC80 then (if a % 32 = 24 then 0xFFFFFFFFFC3FFFF8 else 2 ^ 64 - 1)
  else if a < 0xCC0 then (if tst v 62 then 0xFFFFFFFE3FFFFFFF else 0xFFFFFFFFFFFFFFF0)
  else if a < 0xEC0 then 0xC00007FFFFFFFFFF
  else if a < 0xF08 then 2 ^ 64 - 1
  else if a < 0xF48 then 0xBFBFBFBFBFBFBFBF
  else if a < 0xFC8 then 2 ^ 64 - 1
  else 0

/-- The bits of dword `k` of the thread image that R108 and R307 to R312 lay out; g0 is stored as zero. -/
def threadMask (k : Nat) : Nat :=
  if k = 0 then 0
  else if k = 32 then 0xFD33
  else if k = 34 then 0x81FF
  else if k = 36 then 0xF
  else if k = 37 then 0xF7
  else if k = 38 then 3
  else if k < 39 then 2 ^ 64 - 1
  else if k < 43 then 0x00FFFFFFFFFFFFFD
  else 0

/-- A reserved field of the state section or of the thread image is not zero (R108; log 24). -/
def stateBad (rd : Rd) : Bool :=
  let off := fun (v mask : Nat) => v &&& (2 ^ 64 - 1 - mask) ≠ 0
  (List.range 504).any (fun k => let v := rd (0x40 + 8 * k) 8; off v (stateMask (0x40 + 8 * k) v)) ||
    (List.range 64).any (fun k => off (rd (0x153000 + 8 * k) 8) (threadMask k))

/-! ### Capture -/

/-- Is this what a thread's outstanding request completes that is done again after a resume (R103). -/
def OFin.redone : OFin → Bool
  | .load _ _ _ => true
  | .loadm _ _ => true
  | .fetch _ => true
  | .amo _ _ => false
  | .aqadd => false

/-- The thread with what counts as completed at a halt (R103): a TKPULL whose round has started, an atomic already sent. -/
def Thread.completeSent (th : Thread) (now : Dword) : Thread :=
  match th.pull with
  | .given d v => (({ th with pull := .none }).wr d v).finish (th.pc + 4)
  | _ =>
    match th.out with
    | none => th
    | some o =>
      if o.fin.redone then { th with out := none }
      else
        let th := { th with out := some { o with late := true } }.finish (th.pc + 4)
        match o.resp with
        | some (st, data) => th.land o st data now
        | none => th

/-- The thread as it halts (R103): KEPC at the first instruction not completed, which of a thread in a trap is the one that
trapped; the faults of stores already answered are kept. -/
def Thread.capture (th : Thread) (now : Dword) : ThreadImage :=
  let th := th.completeSent now
  ThreadImage.settleStores
    { g := th.g, st := th.st, kstat := th.kstat, kepc := if th.tip then th.kepc else th.pc &&& ~~~3,
      kcause := th.kcause, ktval := th.ktval, kcap := th.kcap, kevt := th.kevt, ktdbg := th.ktdbg, kbpa := th.kbpa,
      asyncs := th.asyncs, wbuf := th.wbuf, out := th.out, arrivals := th.arrivals, pull := .none, hold := th.hold,
      stepTrap := th.stepTrap, sup := th.sup } now

/-- The chain as it halts (R104): reads not yet returned are dropped, and so are the pending marks of the early-read check (R150). -/
def Chain.capture (x : Chain) : Chain :=
  { x with answers := [], halted := false, hist := x.hist.map (fun h => { h with early := false }) }

/-- Landing handles whose last element has arrived and whose completion is not yet made: V := 0, the rest owed (R228, R229). -/
def Ctx.settleLandings (c : Ctx) : Ctx :=
  (List.range 8).foldl (fun (c : Ctx) k =>
    let h := BitVec.ofNat 3 k
    let v := c.handle h
    if landing v && bits v.toNat 29 0 = 0 then { c.setHandle h (setBits v 63 63 0) with owed := c.owed ++ [h] } else c) c

def Ctx.capture (c : Ctx) : Ctx :=
  let c := c.settleLandings
  { c with ld := c.ld.capture, mx := { c.mx.capture with outw := 0 }, vx := c.vx.capture, st := c.st.capture }

/-- The image of the item on a tile (R108); absent where none is bound. -/
def Mach.capture (m : Mach) (t : TileId) : Option Image :=
  (m.tile t).bind.map (fun b =>
    { level := 1, lid := b.lid, item := b.item.getD 0, part := b.part, pos := BitVec.ofNat 8 b.pos, tile := t, bind := b,
      complete := (m.tile t).kwrites.isEmpty, capEvt := false, ctx := (m.ctx t).capture, thr := (m.thr t).capture m.time, parkedAt := m.time })

/-! ### Restore -/

/-- The registers of a restored thread: it resumes at KEPC, or waits on where trap firmware holds it. -/
def Thread.restore (old : Thread) (t : ThreadImage) (p : PartId) (cap : BitVec 4) (evt : Bool) : Thread :=
  let held := t.hold.isSome || (match t.sup with
    | some u => u.ended
    | none => false)
  { old with
    g := t.g, pc := t.kepc, st := if held then t.st else .ready, kstat := t.kstat,
    kepc := t.kepc, kcause := t.kcause, ktval := t.ktval, kcap := cap,
    kevt := if evt || t.kcap ≠ cap then t.kevt ||| 1 else t.kevt,
    ktdbg := t.ktdbg, kbpa := t.kbpa, wbuf := t.wbuf, asyncs := t.asyncs, out := t.out, sup := t.sup,
    arrivals := t.arrivals, pull := t.pull, hold := t.hold, stepTrap := t.stepTrap, fence := none, lastPart := some p }

/-- Steps 3 and 4 of a completion on a tile (R228), and the thread's event (R310). -/
def Mach.completeResv (m : Mach) (t : TileId) (h : BitVec 3) : Mach :=
  let c := m.ctx t
  let v := (c.handle h).toNat
  let amt := bits v 42 39
  let (c, ok) := if amt = 0 then (c, true) else c.signal (BitVec.ofNat 5 (bits v 47 43)) amt
  let m := (m.modCtx t (fun _ => c)).modThr t (fun th =>
    { th with kevt := th.kevt ||| 4,
              asyncs := if ok then th.asyncs else th.asyncs ++ [⟨Cause.code .lbSemovf, true, 0x1FFFF, 0, m.time⟩] })
  match (m.tile t).bind with
  | some b => if bits v 38 37 = 0 then m else m.dropResv (partKey t.cluster b.slot b.pos) h
  | none => m

/-- Steps 3 and 4 of completions that the image owes (R229). -/
def Mach.payOwed (m : Mach) (t : TileId) : Mach :=
  (m.ctx t).owed.foldl (fun (m : Mach) h => m.completeResv t h) (m.modCtx t (fun c => { c with owed := [] }))

/-- The forwards of an item that leaves a tile: one per landing handle in use (R226, R230). -/
def Mach.leaveForwards (m : Mach) (im : Image) : Mach :=
  let r : ItemRef := ⟨im.part, im.tile.cluster, im.bind.lid, im.bind.slot, im.bind.pos⟩
  let fs := (List.range 8).filterMap (fun h =>
    let v := im.ctx.handle (BitVec.ofNat 3 h)
    if v.getLsbD 63 && v.getLsbD 62 then some (⟨im.tile, BitVec.ofNat 3 h, v.extractLsb' 48 8, r⟩ : Fwd) else none)
  m.modDie im.tile.die (fun y => { y with fwds := y.fwds ++ fs })

/-- Words of a tile's store and accumulator file. -/
def ofCtx (t : TileId) (w : SramWord) : Bool :=
  match w with
  | .store u _ => u = t
  | .acc u _ => u = t
  | .flags u _ => u = t
  | .counts u _ => u = t
  | _ => false

/-- An image comes onto a tile (R105, R108, R348): the tile and its thread carry it on, and no accumulator tile has been
written since (R143, W). -/
def Mach.restore (m : Mach) (t : TileId) (im : Image) : Mach :=
  let b := { im.bind with part := im.part }
  let m := if t = im.tile then m else m.leaveForwards im
  let ctx := { im.ctx with acfg := tmap 0 (fun _ v => setBits v 62 62 0) im.ctx.acfg }
  let m := ((m.dropMarks (ofCtx t)).tlbStart t im.part).modTile t (fun x => { x with ctx := ctx, bind := some b })
  let m := m.modThr t (fun th => th.restore im.thr im.part (BitVec.ofNat 4 (m.avail t.cluster)) im.capEvt)
  let m := match m.slot t.cluster b.slot with
    | some sl => m.setSlot t.cluster b.slot (some
        { sl with tiles := (sl.tiles.zipIdx).map (fun (x : TileId × Nat) => if x.2 = b.pos then t else x.1) })
    | none => m
  let m := match b.item with
    | some i => m.contribute t b.lid i
    | none => m
  if im.level ≠ 1 then m.faultItem t else ((m.rebuildPlane t 0).rebuildPlane t 1).payOwed t

end Sys2Proof.Machine
end

