-- ==== Sys2Proof/Machine/Preempt.lean ====
section
/-! DEFINITION. Pre-emption and context exchange (R93, R101-R107), spills (R109), moves between slots (R111), and the
capacity of a cluster (R118). -/
namespace Sys2Proof.Machine

/-! ### What is parked where -/

/-- The tiles of a cluster that still run something under partition work. -/
def Mach.busyTiles (m : Mach) (c : ClusterId) : List TileId :=
  (tilesOf c).filter (fun t => (m.tile t).bind.isSome || (m.thr t).sup.isSome)

/-- The partition an exchange of a cluster brings in: the ordered one, unless the resident one is being exported. -/
def Mach.incoming (m : Mach) (c : ClusterId) : Option PartId :=
  match (m.clu c).resident with
  | some r => if (m.part r).exported then none else (m.clu c).order
  | none => (m.clu c).order

/-- The resident partition of a cluster is being exported (R110). -/
def Mach.leaving (m : Mach) (c : ClusterId) : Bool :=
  match (m.clu c).resident with
  | some r => (m.part r).exported
  | none => false

/-- Herder firmware runs and begins new work: no live update is waiting for its boundary (R63). -/
def State.orders (s : State) : Bool := s.fw.boot = .ready && s.fw.upd = .none

/-- The tiles whose slot must be free of any but an incoming image before a PREEMPT (R101, R109). -/
def Mach.slotsReady (m : Mach) (ts : List TileId) (inc : Option PartId) : Bool :=
  ts.all (fun t => match (m.tile t).kennel with
    | none => true
    | some im => some im.part = inc && im.complete && !m.underLease t)

/-- Tiles of a cluster that take an image of the incoming partition: in service, and not under a lease (R112). -/
def Mach.restorable (m : Mach) (c : ClusterId) : List TileId :=
  (tilesOf c).filter (fun t => (m.tile t).service = .inService && !m.underLease t)

/-- Images of a partition on a cluster are complete, and none that a tile could take is still spilled (R101, R109, R112). -/
def Mach.imagesReady (m : Mach) (c : ClusterId) (p : PartId) : Bool :=
  let has := fun (t : TileId) => match (m.tile t).kennel with
    | some im => im.part = p
    | none => false
  ((tilesOf c).filter has).all (fun t => match (m.tile t).kennel with
    | some im => im.complete
    | none => true) &&
    ((m.spilledOn p c).isEmpty || (m.restorable c).all has)

/-! ### Slices (R93) -/

/-- SLICE_EXPIRY (R93): at the end of the resident's slice the next partition of equal priority in rotation order is to
become resident; with none waiting, the resident begins another slice. -/
def execSliceExpiry (c : ClusterId) (s : State) : Host.Outcome State Fault Refusal :=
  .next (if !s.orders then s else s.onM (fun m =>
    let e := m.clu c
    match e.resident with
    | none => m
    | some r =>
      if e.order.isSome || decide ((m.time - e.since).toNat < e.slice * 160000) then m
      else
        let rot := e.rotation
        let k := ((rot.zipIdx).find? (fun x => x.1 = r)).map (·.2)
        let next := match k with
          | some k => rot.drop (k + 1) ++ rot.take k
          | none => rot
        match next.find? (fun p => (m.prioOn c p).isSome && m.prioOn c p = m.prioOn c r) with
        | some p => (m.switchTo c p).sched
        | none => m.modClu c (fun e => { e with since := m.time })))

/-! ### PREEMPT and HALTED (R101-R103) -/

/-- HALT is asserted on tiles and their threads. -/
def Mach.halt (m : Mach) (ts : List TileId) : Mach :=
  ts.foldl (fun (m : Mach) t => m.modTile t (fun x => { x with halting := true, thrHalted := false })) m

/-- A FIXED launch's slot waits for its round with the tile under a draining lease (R117). -/
def Mach.fixedRound (m : Mach) (t : TileId) : Bool :=
  match (m.tile t).bind with
  | some b =>
    match m.slot t.cluster b.slot, m.launch b.lid with
    | some sl, some l => l.fixed && m.roundReady t.cluster b.slot sl
    | _, _ => false
  | none => false

/-- The lease that drains a tile notes the partition it pre-empts (R114). -/
def Mach.noteLease (m : Mach) (t : TileId) (p : PartId) : Mach :=
  match (m.unit (tileUnit t)).lease with
  | some n => m.modDie t.die (fun y =>
      { y with leases := tmod LeaseRec.free y.leases n (fun r => { r with d0 := setBits r.d0 51 47 (p.toNat * 2 + 1) }) })
  | none => m

/-- A tile is pre-empted alone, under its draining lease. -/
def Mach.preemptTile (m : Mach) (t : TileId) : Mach :=
  match (m.tile t).bind with
  | none => m
  | some b =>
    if m.draining t && (m.clu t.cluster).order.isNone && !m.inExchange (tilesOf t.cluster) && (m.tile t).kennel.isNone then
      ((m.halt [t]).noteLease t b.part).dieEvent t.die 0x27 1
    else m

/-- A tile's lease has been DRAINING for 200 µs (R117). -/
def Mach.graceOver (m : Mach) (t : TileId) : Bool := decide (320000 ≤ (m.time - (m.unit (tileUnit t)).drainAt).toNat)

/-- PREEMPT (R101, R117): for a partition switch or an export, or for a tile whose lease can wait no longer. -/
def execPreempt (tgt : PreTarget) (s : State) : Host.Outcome State Fault Refusal :=
  .next (if !s.orders then s else s.onM (fun m =>
    match tgt with
    | .cluster c =>
      let m := m.reside c
      let ready := match m.incoming c with
        | some p => m.imagesReady c p
        | none => m.leaving c
      if !ready || m.inExchange (tilesOf c) || !m.slotsReady (m.busyTiles c) (m.incoming c) then m
      else (m.halt (tilesOf c)).dieEvent c.die 0x27 1
    | .tile t => if m.graceOver t || m.fixedRound t then m.preemptTile t else m))

/-- The stores in a halting thread's buffer leave it in class order (R103). -/
def Mach.drainAll (m : Mach) (t : TileId) : Mach :=
  (List.range 16).foldl (fun (m : Mach) c =>
    (List.range 8).foldl (fun (m : Mach) _ => m.drainStore t (BitVec.ofNat 4 c)) m) m

/-- UNIT_HALTED (R101, R102): an engine at a step boundary, or the thread with its buffer handed over, reports
HALTED. -/
def execUnitHalted (t : TileId) (u : Option Eng) (s : State) : Host.Outcome State Fault Refusal :=
  .next (s.onM (fun m =>
    if !(m.tile t).halting then m
    else
      match u with
      | some e =>
        let x := (m.ctx t).chain e
        if x.st = .running && (x.phase = .signals || !x.flight.isEmpty) then m
        else m.modChain t e (fun x => { x with halted := true, answers := [] })
      | none =>
        let m := m.drainAll t
        if buffered (m.thr t).wbuf = 0 then m.modTile t (fun x => { x with thrHalted := true }) else m))

/-- Every engine and the thread of a halting tile have reported HALTED. -/
def Mach.allHalted (m : Mach) (t : TileId) : Bool :=
  let x := m.tile t
  x.halting && (x.thrHalted || (m.thr t).sup.isNone) &&
    [x.ctx.ld, x.ctx.mx, x.ctx.vx, x.ctx.st].all (fun c => c.halted || c.st ≠ .running)

/-! ### The exchange (R105-R107) -/

/-- Answers still on their way to a tile's item follow the item (R103, R106); what answers a read that was dropped at the halt,
or a contribution of a chain that has faulted, finds nothing to complete. -/
def Mach.retarget (m : Mach) (t : TileId) (r : ItemRef) : Mach :=
  let dropped := match (m.thr t).out with
    | some o => o.fin.redone
    | none => true
  let move : Agent → Agent := fun a => match a with
    | .thread x => if x = t then (if dropped then .dead r.part a else .itemThread r) else a
    | .store x => if x = t then .itemStore r else a
    | .eng x _ => if x = t then .dead r.part a else a
    | .gang x _ _ => if x = t then .dead r.part a else a
    | .engW x e blk => if x = t then .itemW r e blk else a
    | a => a
  m.handOver t.die (fun a => match a with
    | .rel w p x => .rel w p (move x)
    | a => move a)

/-- A tile after its item has been captured: nothing runs on it. -/
def Tile.vacate (x : Tile) (out : Option Image) : Tile :=
  { x with ctx := { Ctx.reset with acc := x.ctx.acc, accPois := x.ctx.accPois, store := x.ctx.store, storePois := x.ctx.storePois,
                                   hnd := tmap 0 (fun _ v => setBits v 63 63 0) x.ctx.hnd },
           bind := none, kennel := out }

/-- A thread whose item has left it. -/
def Thread.vacate (th : Thread) : Thread :=
  { th with st := .idle, sup := none, arrivals := [], pull := .none, asyncs := [], hold := none, stepTrap := false,
            wbuf := [], out := none }

/-- The poisoned halves of accumulator entries that one word of the accumulator sections of an image spoils (log 101). -/
def spoiltHalves (w : Nat) : NSet :=
  let k := w - 131584
  if w < 131584 then []
  else if k < 32768 then [k]
  else if k < 33792 then (List.range 16).map (fun i => 2 * (16 * (k - 32768) + i))
  else [4 * (k - 33792), 4 * (k - 33792) + 2]

/-- An image of which one accumulator entry or one word of the tile store is poisoned, or that cannot be restored. -/
def Image.spoil (im : Image) (w : Nat) : Image :=
  if w < 512 then { im with level := 0 }
  else if w < 512 + 131072 then { im with ctx := { im.ctx with storePois := nins (w - 512) im.ctx.storePois } }
  else { im with ctx := { im.ctx with accPois := (spoiltHalves w).foldl (fun s e => nins e s) im.ctx.accPois } }

/-- An SRAM word is read through its decoder (R13, R121, R136): the kennel store and the thread save area hold the words
of an image, and count their errors. -/
def Mach.decodeSram (m : Mach) (w : SramWord) : Mach :=
  let other := fun (t : TileId) (k : Nat) (hs : NSet) (spoil : Image → Image) =>
    if m.sram2.contains w then
      ((m.dropMarks (fun x => x = w)).modTile t (fun x =>
        { x with kennel := x.kennel.map spoil, slotPois := hs.foldl (fun s e => nins e s) x.slotPois })).countSram t.die (k + 1)
    else if m.sram1.contains w then ((m.dropMarks (fun x => x = w)).countSram t.die k).dieEvent t.die 0x0F 1
    else m
  match w with
  | .store t k => m.decodeStore t k.toNat
  | .acc t h => m.decodeAccWord t w [h.toNat]
  | .flags t k => m.decodeAccWord t w ((List.range 16).map (fun i => 2 * (16 * k.toNat + i)))
  | .counts t k => m.decodeAccWord t w [4 * k.toNat, 4 * k.toNat + 2]
  | .cpool c k => m.decodePool (cpoolPa c (8 * k.toNat))
  | .dpool d k => m.decodePool (dpoolPa d (8 * k.toNat))
  | .kennel t k => other t 4 (spoiltHalves k.toNat) (fun im => im.spoil k.toNat)
  | .save d k => other (d ++ BitVec.ofNat 6 (k.toNat / 64)) 6 [] (fun im => { im with level := 0 })

/-- Words of a tile's kennel slot and of its thread's place in the save area. -/
def ofSlot (t : TileId) (w : SramWord) : Bool :=
  match w with
  | .kennel u _ => u = t
  | .save d k => d = t.die && k.toNat / 64 = t.toNat % 64
  | _ => false

/-- Words that cross a kennel port are read through their decoders. -/
def Mach.decodeWords (m : Mach) (p : SramWord → Bool) : Mach :=
  if m.sram1 = [] ∧ m.sram2 = [] then m
  else ((m.sram1 ++ m.sram2).filter p).foldl (fun (m : Mach) w => m.decodeSram w) m

/-! ### Saves unit by unit (R107, R387) -/

/-- The accumulator tiles that a save copies (R107): the configured ones, but for those not written since the restore from this slot,
where nothing else has written it since. -/
def Ctx.savedTiles (c : Ctx) (clean : Bool) : List Dword :=
  ((List.range 64).map c.accCfg).filter (fun v => accV v && (!clean || v.getLsbD 62))

/-- The 1,024-byte unit of the accumulator file, of its flags and of its counts that holds an entry's part is copied: it holds a byte
of a tile to be saved (R387). A unit is half a row of the file, sixteen rows of flags, two rows of counts. -/
def fileCopied (ts : List Dword) (e : Nat) : Bool :=
  ts.any (fun v => inRows v (e / 128) (e / 128) && decide (accCol0 v < (e % 128 / 64 + 1) * 64 ∧ e % 128 / 64 * 64 ≤ accCol0 v + accNCol v))
def flagsCopied (ts : List Dword) (e : Nat) : Bool :=
  ts.any (fun v => inRows v (e / 2048 * 16) (e / 2048 * 16 + 15))
def countsCopied (ts : List Dword) (e : Nat) : Bool :=
  ts.any (fun v => inRows v (e / 256 * 2) (e / 256 * 2 + 1))

/-- An entry of the slot after the save, from the tile's entry and the slot's. -/
def savedEntry (ts : List Dword) (e : Nat) (new old : AqEntry) : AqEntry :=
  let f := if flagsCopied ts e then new else old
  { i := (if fileCopied ts e then new else old).i, spec := f.spec, loss := f.loss, range := f.range,
    cnt := (if countsCopied ts e then new else old).cnt }

/-- The image in the slot after a save over what the slot held: a unit that is not copied keeps the slot's content (R387). -/
def Image.over (im : Image) (x : Tile) : Image :=
  let ts := im.ctx.savedTiles x.slotFrom
  let old := x.slotPart
  let keys := ((im.ctx.acc ++ old.1).map (·.1)).foldl (fun (s : NSet) e => nins e s) []
  { im with ctx := { im.ctx with
      acc := keys.foldl (fun t e => tput AqEntry.zero t e
        (savedEntry ts e (tget AqEntry.zero im.ctx.acc e) (tget AqEntry.zero old.1 e))) [],
      accPois := ((im.ctx.accPois ++ old.2).foldl (fun (s : NSet) h => nins h s) []).filter (fun h =>
        nhas (if fileCopied ts (h / 2) then im.ctx.accPois else old.2) h) } }

/-- The words of the slot that a save writes, and so encodes anew. -/
def savedWord (t : TileId) (ts : List Dword) (w : SramWord) : Bool :=
  match w with
  | .kennel u k => u = t &&
      (let n := k.toNat
       if n < 131584 then true
       else if n < 131584 + 32768 then fileCopied ts ((n - 131584) / 2)
       else if n < 131584 + 33792 then flagsCopied ts (16 * (n - 131584 - 32768))
       else countsCopied ts (2 * (n - 131584 - 33792)))
  | w => ofSlot t w

/-- One tile's part of an exchange: its image goes to its slot, and the slot's image, if it is to come in, onto the
tile. -/
def Mach.swap (m : Mach) (t : TileId) (inc : Option PartId) : Mach :=
  let takes : Bool := match (m.tile t).kennel with
    | some im => some im.part = inc && im.complete && (m.tile t).service = .inService && !m.underLease t
    | none => false
  let m := if takes then m.decodeWords (ofSlot t) else m
  let m := if (m.tile t).bind.isSome then m.decodeWords (ofCtx t) else m
  let x := m.tile t
  let inn := if takes then x.kennel else none
  match m.capture t with
  | some out =>
    let m := match x.bind with
      | some b => m.retarget t (b.ref t.cluster)
      | none => m
    let m := m.dropMarks (savedWord t (out.ctx.savedTiles x.slotFrom))
    let m := m.modTile t (fun x => { x.vacate (some (out.over x)) with exchanging := true, idleAt := m.time, slotFrom := false })
    let m := m.modThr t Thread.vacate
    match inn with
    | some im => m.restore t im
    | none => m
  | none =>
    match inn with
    | some im =>
      let m := m.modTile t (fun x => { x.emptySlot.vacate none with exchanging := true, slotFrom := true })
      (m.modThr t Thread.vacate).restore t im
    | none => m.modTile t (fun x => { x with exchanging := true })

/-- CONTEXT_EXCHANGE (R105): once all have halted, each tile swaps its image with its slot. -/
def execContextExchange (tgt : PreTarget) (s : State) : Host.Outcome State Fault Refusal :=
  .next (s.onM (fun m =>
    match tgt with
    | .cluster c =>
      let ts := tilesOf c
      if ts.all (fun t => m.allHalted t && !(m.tile t).exchanging) then
        let inc := m.incoming c
        ts.foldl (fun (m : Mach) t => m.swap t inc) m
      else m
    | .tile t =>
      if m.allHalted t && !(m.tile t).exchanging && !((tilesOf t.cluster).all (fun u => (m.tile u).halting)) then m.swap t none
      else m))

/-- The items on tiles after an exchange are released; an image that cannot be restored faults its item (R105, R108). -/
def Mach.release (m : Mach) (t : TileId) : Mach :=
  m.modTile t (fun x => { x with halting := false, exchanging := false, thrHalted := false })

/-- The partition that an exchange makes resident: one that has items there or runnable work (R93). -/
def Mach.arriving (m : Mach) (c : ClusterId) : Option PartId :=
  (m.incoming c).filter (fun p => (m.prioOn c p).isSome ||
    (tilesOf c).any (fun t => ((m.tile t).bind.map (fun b => decide (b.part = p))).getD false))

/-- EXCHANGE_END (R105): the incoming items are released to run, and the Herder is told. -/
def execExchangeEnd (tgt : PreTarget) (s : State) : Host.Outcome State Fault Refusal :=
  .next (s.onM (fun m =>
    match tgt with
    | .cluster c =>
      let ts := tilesOf c
      if ts.all (fun t => (m.tile t).exchanging) then
        let gone := m.leaving c
        let inc := m.arriving c
        let m := ts.foldl (fun (m : Mach) t => m.release t) m
        (m.modClu c (fun e => { e with resident := if gone then none else inc, since := m.time, order := if gone then e.order else none })).sched
      else m
    | .tile t =>
      if (m.tile t).exchanging && !((tilesOf t.cluster).all (fun u => (m.tile u).exchanging)) then (m.release t).sched
      else m))

/-- KENNEL_WRITE_APPLY (R106): the next write that waited is applied to the outgoing image; after the last one the
image is complete. -/
def execKennelWriteApply (t : TileId) (s : State) : Host.Outcome State Fault Refusal :=
  .next (s.onM (fun m =>
    let x := m.tile t
    match x.kwrites, x.kennel with
    | w :: rest, some _ =>
      if x.halting && !x.exchanging then m
      else
        let put := fun (im : Image) =>
          { im with ctx := im.ctx.putForeign [(w.addr, ⟨.store w.addr, w.mask, w.val, w.pois⟩)], complete := rest.isEmpty }
        (m.decodeSram (.kennel t (BitVec.ofNat 18 (512 + w.addr / 8)))).modTile t (fun x =>
          { x with kwrites := rest, kennel := x.kennel.map put })
    | _, _ => m))

/-! ### Spills (R109) -/

/-- A free place of the partition's image area. -/
def Mach.freePlace (m : Mach) (p : PartId) : Option Nat :=
  (List.range (m.part p).imgCount).find? (fun n => (tget none (m.part p).spilled n).isNone)

/-- The partition whose images want the slots of a cluster: the incoming one, else the resident one. -/
def Mach.wanting (m : Mach) (c : ClusterId) : Option PartId := (m.incoming c).orElse (fun _ => (m.clu c).resident)

/-- Something needs the tile's slot, or the image out of it (R101, R109, R110, R117, R123). -/
def Mach.mustSpill (m : Mach) (t : TileId) (im : Image) : Bool :=
  let c := t.cluster
  let other := match m.wanting c with
    | some p => p ≠ im.part && ((m.tile t).bind.isSome && (m.incoming c).isSome || !(m.spilledOn p c).isEmpty)
    | none => false
  (m.part im.part).exported || (m.tile t).service = .retired || other ||
    ((m.tile t).bind.isSome && (m.draining t || m.leaving c))

/-- Poison of an image in a slot goes with it to memory (R108): one mark per word of the tile store and accumulator
file. -/
def poisonOffsets (c : Ctx) : List Nat :=
  c.storePois.map (fun w => 0x1000 + 8 * w) ++ c.accPois.map (fun h => 0x101000 + 8 * h)

/-- The size of an image's chain area: that of its launch's kernel (R89). -/
def Mach.imageCharea (m : Mach) (im : Image) : Nat := ((m.launch im.lid).map (fun l => l.kernel.charea)).getD 0

/-- Write an image to a place of its partition's image area. -/
def Mach.putImage (m : Mach) (p : PartId) (n : Nat) (im : Image) : Mach :=
  let base := m.imageAddr p n
  let m := m.writeVa p base (imageBytes im (m.imageCharea im))
  let m := (poisonOffsets im.ctx).foldl (fun (m : Mach) o => m.poisonVa p (base + o)) m
  m.modPart p (fun x => { x with spilled := tput none x.spilled n (some im) })

/-- SPILL (R109): a parked image goes from its slot to the image area; not performed where no place is free. -/
def execSpill (t : TileId) (s : State) : Host.Outcome State Fault Refusal :=
  .next (if s.fw.boot ≠ .ready then s else s.onM (fun m =>
    match (m.tile t).kennel with
    | none => m
    | some im =>
      match m.freePlace im.part with
      | none => m
      | some n =>
        if im.complete && !(m.tile t).exchanging && m.mustSpill t im then
          let m := m.decodeWords (ofSlot t)
          let im := ((m.tile t).kennel).getD im
          (m.modTile t Tile.emptySlot).putImage im.part n im
        else m))

/-- Is a byte of a partition's memory poisoned. -/
def Mach.poisonedVa (m : Mach) (p : PartId) (va n : Nat) : Bool :=
  match m.vaPa p va .read with
  | some pa => m.poisoned pa n
  | none => false

/-- The image at a place of the image area, as memory holds it now over what was spilled: it is marked (level 0) where a
restore must fail (R108, R138). -/
def Mach.getImage (m : Mach) (p : PartId) (n : Nat) (im : Image) : Image :=
  let base := m.imageAddr p n
  let rd : Rd := fun a k => ofBytes (m.readVa p (base + a) k)
  let store := (List.range (2 ^ 20)).foldl (fun (t : Memory) a => Memory.setByte t a (BitVec.ofNat 8 (rd (0x1000 + a) 1))) []
  let charea := m.imageCharea im
  let ctx := readCtx rd store charea im.ctx
  let ctx := { ctx with
    storePois := (List.range (2 ^ 17)).filter (fun w => m.poisonedVa p (base + 0x1000 + 8 * w) 8),
    accPois := (List.range 32768).filter (fun h => m.poisonedVa p (base + 0x101000 + 8 * h) 8) }
  let thr := readThread rd im.thr
  let bad := headerBad rd || stateBad rd ||
    (List.range 512).any (fun w => m.poisonedVa p (base + 8 * w) 8) ||
    (List.range 9280).any (fun w => m.poisonedVa p (base + 0x141000 + 8 * w) 8)
  { im with ctx := ctx, thr := thr, level := if bad then 0 else 1 }

/-- SPILL_RETURN (R109): a spilled image comes back, through the decoders, to the slot of the tile that will run it. -/
def execSpillReturn (p : PartId) (n : Nat) (t : TileId) (s : State) : Host.Outcome State Fault Refusal :=
  .next (if s.fw.boot ≠ .ready then s else s.onM (fun m =>
    match tget none (m.part p).spilled n with
    | none => m
    | some im =>
      let wanted := (m.incoming t.cluster = some p || (m.clu t.cluster).resident = some p) && !(m.part p).exported
      let home := (m.incoming t.cluster).isSome || (m.claims t.cluster p).contains (.spill p n, t)
      if wanted && home && im.tile.cluster = t.cluster && (m.tile t).kennel.isNone && (m.tile t).service = .inService &&
          !m.underLease t && !(m.tile t).halting && !(m.tile t).exchanging then
        let m := m.portVa p (m.imageAddr p n) imageSize
        let m := (m.modTile t (fun x => { x with kennel := some (m.getImage p n im), slotFrom := false })).dropMarks (ofSlot t)
        m.modPart p (fun x => { x with spilled := tput none x.spilled n none })
      else m))

/-! ### Moves within the cluster (R111, R117) -/

/-- SLOT_TO_SLOT_COPY (R111, R388): a waiting item resumes on the idle tile that it claims, whose slot, if it is empty, then holds the
image too; one that a lease has pre-empted, once its tile is in TESTING. -/
def execSlotToSlotCopy (src dst : TileId) (s : State) : Host.Outcome State Fault Refusal :=
  .next (if s.fw.boot ≠ .ready then s else s.onM (fun m =>
    let c := src.cluster
    match (m.tile src).kennel with
    | none => m
    | some im =>
      if (m.clu c).resident = some im.part && (m.clu c).order.isNone && !m.inExchange (tilesOf c) && im.complete &&
          !m.draining src && (m.claims c im.part).contains (.kennel src, dst) then
        let m := m.decodeWords (ofSlot src)
        let im := ((m.tile src).kennel).getD im
        let m := m.modTile src Tile.emptySlot
        let copied := (m.tile dst).kennel.isNone
        let m := if copied then m.dropMarks (ofSlot dst) else m
        (m.modTile dst (fun x => { x with slotAcc := if copied then im.ctx.acc else x.slotAcc,
                                          slotPois := if copied then im.ctx.accPois else x.slotPois, slotFrom := copied })).restore dst im
      else m))

end Sys2Proof.Machine
end

