-- ==== Sys2Proof/Machine/Registers.lean ====
section
/-! DEFINITION. The registers of aperture A (R44-R46, R55-R57, R66, R114, R121, R129, R175): host writes, queue commands and
notify writes (R49, R67, R76), wake and gating (R50), fault resolution and invalidation (R173, R175), and reads. -/
namespace Sys2Proof.Machine

/-! ### Host accesses to aperture A (R44, R45, R52) -/

/-- The host reaches the apertures once the device is configured (R43). -/
def State.hostUp (s : State) : Bool := s.fw.boot = .ready || s.fw.boot = .stopped

/-- An access to a block of aperture A: `visible` says whether the function's aperture maps something there. One that is
refused is not performed and is logged (log 26: on die 0). -/
def Mach.regAccess (m : Mach) (f : FuncId) (off : Nat) (visible : Bool) (acc : Acc := .write) : Bool × Mach :=
  if !visible then (false, m.violation 0 off 7 (off / 65536) f.toNat (acc = .write) false)
  else if grantOk (m.grants 3 (off / 65536) f.toNat) acc then (true, m)
  else (false, m.violation 0 off 3 (off / 65536) f.toNat (acc = .write) false)

/-- A host write to a register that passes its checks. -/
def State.regWrite (s : State) (f : FuncId) (off : Nat) (visible : Bool) (g : Mach → Mach) :
    Host.Outcome State Fault Refusal :=
  .next (if !s.hostUp then s else s.onM (fun m =>
    let (ok, m) := m.regAccess f off visible
    if ok then g m else m))

/-- The queue whose descriptor a function sees at index `i` (R66): its `i`-th queue for a virtual function. -/
def Mach.queueAt (m : Mach) (f : FuncId) (i : Nat) : Option QueueId :=
  if f = 0 then (if i < 1024 then some (BitVec.ofNat 10 i) else none) else (m.func f).queues[i]?

/-- The virtual function a queue is assigned to, if one is (log 17). -/
def Mach.holder (m : Mach) (q : QueueId) : Option FuncId :=
  (m.funcs.find? (fun x => x.2.queues.contains q)).map (fun x => BitVec.ofNat 6 x.1)

/-- Does a function see a queue: the physical function all, a virtual one its own. -/
def Mach.seesQueue (m : Mach) (f : FuncId) (q : QueueId) : Bool := f = 0 || (m.func f).queues.contains q

def descOff (m : Mach) (f : FuncId) (q : QueueId) : Nat :=
  0x100000 + 64 * (if f = 0 then q.toNat else ((m.func f).queues.findIdx? (· = q)).getD (m.func f).queues.length)

/-- Does a function see a partition's fault queue (R45). -/
def Mach.seesPart (m : Mach) (f : FuncId) (p : PartId) : Bool := f = 0 || (m.func f).bound = some p

def fqOff (p : PartId) (r : Nat) : Nat := 0x400000 + 0x8000 * p.toNat + r

/-! ### Queue commands (R67, R76) -/

/-- Queues a function holds that are not FREE. -/
def Mach.heldQueues (m : Mach) (f : FuncId) : Nat :=
  (m.queues.filter (fun x => x.2.owner = f && x.2.state ≠ .free)).length

/-- The fields that CREATE finds invalid (R67). -/
def Mach.badDesc (m : Mach) (f : FuncId) (x : Queue) : Bool :=
  x.log2n.toNat < 4 || 16 < x.log2n.toNat || x.weight = 0 || x.base.toNat % (64 * 2 ^ x.log2n.toNat) ≠ 0 ||
    m.ownerOf x.part ≠ f || decide (64 ≤ m.heldQueues f)

def Mach.createQueue (m : Mach) (f : FuncId) (q : QueueId) : Mach :=
  let x := m.queue q
  let x := match (m.func f).bound with
    | some p => if f = 0 then x else { x with part := p }
    | none => x
  if x.state ≠ .free then m
  else if m.badDesc f x then m.modQueue q (fun x => { x with errcode := 6 })
  else
    m.modQueue q (fun _ =>
      { x with state := .active, cidx := 0, latch := 0, erridx := 0, errcode := 0, owner := f, held := none, skip := 0, used := 0,
               stall := none })

/-- CREATE (R67). -/
def execCreate (f : FuncId) (q : QueueId) (s : State) : Host.Outcome State Fault Refusal :=
  s.regWrite f (descOff s.m f q) (s.m.seesQueue f q) (fun m => m.createQueue ((m.holder q).getD 0) q)

/-- Is a source the queue or one of its instances. -/
def Mach.ofQueue (m : Mach) (q : QueueId) (src : Src) : Bool :=
  match src with
  | .queue k => k = q
  | .inst n => match m.inst n with
    | some x => x.queue = q
    | none => false

/-- Teams of a launch not yet dispatched are dropped (R76 step 2): the items of its own range that leaves. -/
def Mach.dropTeams (m : Mach) (n : Nat) : Mach :=
  m.launches.foldl (fun (m : Mach) x =>
    match x.2 with
    | some l =>
      if l.work ≠ n || l.complete then m
      else
        let own := fun (t : Ticket) => l.itemsIn (Nat.max t.next l.teamLo) (Nat.min t.stop l.teamHi)
        let cut := (List.range 4).foldl (fun a d => match (m.die (BitVec.ofNat 2 d)).ticketOf l.lid with
          | some (_, t) => a + own t
          | none => a) 0
        let m := (List.range 4).foldl (fun (m : Mach) d => m.setTicket (BitVec.ofNat 2 d) l.lid (fun t => { t with stop := t.next })) m
        let m := m.setLaunch l.lid (some { l with total := l.total - cut, await := [] })
        let m := if cut = 0 then m else m.modWork n (fun w => { w with dropped := true })
        m.settleLaunch l.lid
    | none => m) m

/-- Copy rows not yet started are dropped (R76 step 3): a row in progress is the job's last. -/
def Mach.dropRows (m : Mach) (n : Nat) : Mach :=
  (List.range 16).foldl (fun (m : Mach) k =>
    let die := BitVec.ofNat 2 (k / 4)
    let e := BitVec.ofNat 2 k
    match (tget [] (m.die die).copies e.toNat).find? (fun j => j.work = n) with
    | none => m
    | some j =>
      if j.pos ≠ 0 || !j.answers.isEmpty || j.parked.isSome then
        let short := decide (j.row + 1 < copyRows j.body)
        let m := m.setJobs die e (fun l => l.map (fun j =>
          if j.work = n then { j with body := { j.body with rows := BitVec.ofNat 32 (j.row + 1) } } else j))
        if short then m.modWork n (fun w => { w with dropped := true }) else m
      else
        (m.setJobs die e (fun l => l.filter (fun j => j.work ≠ n))).modWork n (fun w =>
          { w with dropped := true, count := j.row, state := .done })) m

/-- A node of an instance has been dropped or cut short: so has its GRAPH packet (R76 steps 3 and 4). -/
def Mach.dropGraph (m : Mach) : Src → Mach
  | .queue _ => m
  | .inst k => match m.inst k with
    | some i => m.modWork i.work (fun w => { w with dropped := true })
    | none => m

/-- The GRAPH packet of a node whose work has been cut short. -/
def Mach.dropCut (m : Mach) (n : Nat) (src : Src) : Mach :=
  if ((m.work n).map (·.dropped)).getD false then m.dropGraph src else m

/-- What DESTROY does to the work of one dispatched packet (R76). A WAITSIG or DRAIN that has dispatched and waits is none of the
work R76 names: it ends at once with FAIL(CANCELLED, 0) and its vector (DESIGN CHOICE, log 149). -/
def Mach.dropWork (m : Mach) (n : Nat) (w : Work) : Mach :=
  let stop := fun (h : PktHdr) =>
    let d := m.dispOf w
    (((m.dropGraph w.src).setWork n none).endSignal d h (.fail (cancelled 0))).settleSrc d.src
  match w.pkt with
  | .waitsig h _ => stop h
  | .drain h _ => stop h
  | .launch _ _ => (m.dropTeams n).dropCut n w.src
  | .copy _ _ => (m.dropRows n).dropCut n w.src
  | _ => m

/-- The nodes of the queue's instances not yet dispatched are dropped (R76 step 3). -/
def Mach.dropNodes (m : Mach) (q : QueueId) : Mach :=
  m.insts.foldl (fun (m : Mach) x =>
    match x.2 with
    | some i =>
      if i.queue ≠ q || i.ended then m
      else
        let m := if i.next < i.nodes then m.modWork i.work (fun w => { w with dropped := true }) else m
        (m.modInst x.1 (fun i => { i with next := i.nodes })).instSettle x.1
    | none => m) m

/-- DESTROY of a queue (R76). -/
def Mach.destroyQueue (m : Mach) (q : QueueId) : Mach :=
  let x := m.queue q
  if x.state ≠ .active ∧ x.state ≠ .error then m
  else
    let m := m.modQueue q (fun x => { x with state := .retiring })
    let m := (m.failPending q (cancelled 0)).modQueue q (fun x => { x with held := none, skip := 0 })
    let m := m.works.foldl (fun (m : Mach) w =>
      match m.work w.1 with
      | some y => if m.ofQueue q y.src then m.dropWork w.1 y else m
      | none => m) m
    m.dropNodes q

/-- DESTROY (R67, R76). -/
def execDestroy (f : FuncId) (q : QueueId) (s : State) : Host.Outcome State Fault Refusal :=
  s.regWrite f (descOff s.m f q) (s.m.seesQueue f q) (fun m => (m.destroyQueue q).sched)

/-- RESET (R67): packets below the latch are discarded unread. -/
def execReset (f : FuncId) (q : QueueId) (s : State) : Host.Outcome State Fault Refusal :=
  s.regWrite f (descOff s.m f q) (s.m.seesQueue f q) (fun m =>
    if (m.queue q).state ≠ .error then m
    else m.modQueue q (fun x => { x with state := .active, cidx := x.latch, errcode := 0, held := none, skip := 0 }))

/-- A queue is FREE again: its descriptor returns to its reset values, PART to the binding of the virtual function it is assigned
to (R66, R67). -/
def Mach.freeDesc (m : Mach) (q : QueueId) : Mach :=
  let h := m.holder q
  m.modQueue q (fun _ => { Queue.reset with owner := h.getD 0, part := (h.bind (fun f => (m.func f).bound)).getD 0 })

/-- QUEUE_RETIRED (R67, R76): the last dispatched work of a RETIRING queue has retired. -/
def execQueueRetired (q : QueueId) (s : State) : Host.Outcome State Fault Refusal :=
  .next (s.onM (fun m =>
    let live := m.insts.any (fun x => match x.2 with
      | some i => i.queue = q
      | none => false)
    if (m.queue q).state = .retiring && (m.worksOf (.queue q)).isEmpty && !live then
      m.freeDesc q
    else m))

/-! ### Notify pages and wake (R49, R50) -/

/-- The latch takes the larger of its value and the one written (R49). -/
def Mach.notify (m : Mach) (q : QueueId) (v : Dword) : Mach :=
  (m.modQueue q (fun x => { x with latch := if x.latch.ult v then v else x.latch })).overrun q

/-- A posted write of a function waits while an earlier one of its own has still to be performed (R192). -/
def Mach.postedWaits (m : Mach) (f : FuncId) : Bool := (m.func f).owed ≠ 0 || !(m.func f).posted.isEmpty

/-- A posted write joins those of its function that wait. -/
def Mach.postLater (m : Mach) (f : FuncId) (w : PostedWr) : Mach := m.modFunc f (fun x => { x with posted := x.posted ++ [w] })

/-- Bytes of a function's aperture N (R44). -/
def notifySize (f : FuncId) : Nat := if f = 0 then 2 ^ 22 else 2 ^ 18

/-- WIDX_WRITE (R49, R192): a write to a notify page. One that covers WIDX raises the latch, in posted order; one that covers only
a part of it is dropped and logged; the rest of the page ignores writes. -/
def execWidxWrite (f : FuncId) (place : NotifyAt) (bytes : BitVec 4) (v : Dword) (s : State) :
    Host.Outcome State Fault Refusal :=
  let page := place.page
  let off := place.off
  .next (if !s.hostUp || decide (notifySize f ≤ 4096 * page.toNat) then s else s.onM (fun m =>
    let o := 4096 * page.toNat + off.toNat
    match m.queueAt f page.toNat with
    | none => m.violation 0 o 7 (o / 65536) f.toNat true false
    | some q =>
      if 8 ≤ off.toNat then m
      else if off ≠ 0 || decide (bytes.toNat < 8) then m.violation 0 o 4 page.toNat f.toNat true false
      else if m.postedWaits f then m.postLater f (.notify q v)
      else m.notify q v))

/-- No queue in any state has an unconsumed packet, and no instance a node to dispatch (R50). -/
def Mach.nothingToDo (m : Mach) : Bool :=
  m.queues.all (fun x => x.2.state = .free || (x.2.held.isNone && x.2.latch.toNat ≤ x.2.cidx.toNat)) &&
    m.insts.all (fun x => match x.2 with
      | some i => i.ended
      | none => true)

/-- ARBITRATION_CLOCK_GATE (R50): after 100 µs with nothing to do. -/
def execArbitrationClockGate (s : State) : Host.Outcome State Fault Refusal :=
  .next (s.onM (fun m =>
    if m.arb = .running && m.nothingToDo && decide (160000 ≤ (m.time - m.arbSince).toNat) then
      { m with arb := .clockGated, arbSince := m.time }
    else m))

/-- ARBITRATION_POWER_GATE (R50): after a further 10 ms. -/
def execArbitrationPowerGate (s : State) : Host.Outcome State Fault Refusal :=
  .next (s.onM (fun m =>
    if m.arb = .clockGated && m.nothingToDo && decide (16000000 ≤ (m.time - m.arbSince).toNat) then
      { m with arb := .powerGated, arbSince := m.time }
    else m))

/-- ARBITRATION_WAKE (R50): a latch change wakes gated arbitration. -/
def execArbitrationWake (s : State) : Host.Outcome State Fault Refusal :=
  .next (s.onM (fun m => if m.arb ≠ .running && !m.nothingToDo then { m with arb := .running } else m))

/-! ### REGISTER_WRITE (R5) -/

/-- The RW fields of a queue descriptor, writable in FREE (R66); PART is fixed by the binding of a virtual function. -/
def Queue.writeDesc (x : Queue) (r : Nat) (v : Dword) (vf : Bool) : Queue :=
  if x.state ≠ .free then x
  else if r = 0 then { x with base := v }
  else if r = 8 then
    { x with weight := v.extractLsb' 24 8, part := if vf then x.part else v.extractLsb' 16 4, prio := v.extractLsb' 8 3,
             log2n := v.extractLsb' 0 5 }
  else x

/-- A dword of the MSI-X table (R56): an entry that is unmasked with its vector pending sends it. -/
def Mach.msixWrite (m : Mach) (f : FuncId) (a : Nat) (v : Dword) : Mach :=
  let raw := fun (k : Nat) => v.extractLsb' (8 * k) 8 ^^^ (if (a + k) % 16 = 12 then 1 else 0)
  let m := (List.range 8).foldl (fun (m : Mach) k =>
    m.modFunc f (fun x => { x with msixTable := Memory.setByte x.msixTable (a + k) (raw k) })) m
  let n := a / 16
  let x := m.func f
  if x.msix (16 * n + 12) &&& 1 = 0 && x.msixPending.getLsbD n then
    (m.modFunc f (fun x => { x with msixPending := x.msixPending &&& ~~~((1 : Dword) <<< n) })).irq f (BitVec.ofNat 6 n)
  else m

/-- The registers of a partition's fault queue that a plain write stores (R175). -/
def FQ.writeReg (q : FQ) (r : Nat) (v : Dword) : FQ :=
  if r = 0x4018 then { q with fqie := v.getLsbD 6, fqvec := v.extractLsb' 0 6 }
  else if r = 0x4020 then { q with invva := v }
  else if r = 0x4028 then { q with invlen := v }
  else q

/-- A mailbox's registers (R53): a request starts unless one is in progress. -/
def Mailbox.writeReg (b : Mailbox) (r : Nat) (v : Dword) : Mailbox :=
  if r < 0x40 then { b with rq := tput 0 b.rq (r / 8) v }
  else if r = 0x80 then { b with seq := v.extractLsb' 32 32, code := v.extractLsb' 0 8, state := 1, acted := none }
  else if r = 0x90 then { b with ie := v.getLsbD 6, vec := v.extractLsb' 0 6 }
  else b

def Mach.mailWrite (m : Mach) (herder : Bool) (r : Nat) (v : Dword) : Mach :=
  let b := if herder then m.herderBox else m.accessBox
  let off := (if herder then 0x1000000 else 0x800000) + r
  if r = 0x80 ∧ b.state = 1 then m.violation 0 off 5 (off / 65536) 0 true false
  else if herder then { m with herderBox := b.writeReg r v } else { m with accessBox := b.writeReg r v }

/-- Does an offset of the fault-queue blocks hold a record or register. -/
def fqMapped (r : Nat) : Bool := decide (r < 0x4038)

/-- Does aperture A of a function map something at an offset (R44, R45). -/
def Mach.regVisible (m : Mach) (f : FuncId) (off : Nat) : Bool :=
  let pf := f = 0
  if off < 0x20 then true
  else if 0x10000 ≤ off ∧ off < 0x11000 then
    (if pf then off < 0x10000 + 8 * 64 else off = 0x10008 || off = 0x10000)
  else if 0x11000 ≤ off ∧ off < 0x11400 then true
  else if off = 0x11800 then true
  else if 0x100000 ≤ off ∧ off < 0x110000 then (m.queueAt f ((off - 0x100000) / 64)).isSome
  else if 0x400000 ≤ off ∧ off < 0x480000 then
    m.seesPart f (BitVec.ofNat 4 ((off - 0x400000) / 0x8000)) && fqMapped ((off - 0x400000) % 0x8000)
  else if 0x800000 ≤ off ∧ off < 0x800098 then pf
  else if 0x810000 ≤ off ∧ off < 0x820000 then pf && decide ((off - 0x810000) % 0x4000 < 0x2008)
  else if 0xA00000 ≤ off ∧ off < 0xA00020 then true
  else if 0xC00000 ≤ off ∧ off < 0xC08000 then true
  else if 0xC10000 ≤ off ∧ off < 0xC10400 then pf
  else if 0xC11000 ≤ off ∧ off < 0xC11400 then pf
  else if off = 0xC20000 ∨ (0xC21000 ≤ off ∧ off < 0xC22000) then pf
  else if 0xC40000 ≤ off ∧ off < 0xD40000 then true
  else if 0x1000000 ≤ off ∧ off < 0x1000098 then pf
  else false

/-- What a write to a plain RW register does, by its offset. Registers whose write is a step of its own, and read-only
ones, keep their value here. -/
def Mach.plainWrite (m : Mach) (f : FuncId) (off : Nat) (v : Dword) : Mach :=
  if 0x11000 ≤ off ∧ off < 0x11400 then m.msixWrite f (off - 0x11000) v
  else if 0x100000 ≤ off ∧ off < 0x110000 then
    (match m.queueAt f ((off - 0x100000) / 64) with
     | some q => m.modQueue q (fun x => x.writeDesc (off % 64) v (m.holder q).isSome)
     | none => m)
  else if 0x400000 ≤ off ∧ off < 0x480000 then
    m.modFq (BitVec.ofNat 4 ((off - 0x400000) / 0x8000)) (fun q => q.writeReg ((off - 0x400000) % 0x8000) v)
  else if 0x800000 ≤ off ∧ off < 0x800098 then m.mailWrite false (off - 0x800000) v
  else if 0x1000000 ≤ off ∧ off < 0x1000098 then m.mailWrite true (off - 0x1000000) v
  else m

/-- REGISTER_WRITE (R5, R45): an 8-byte write of the host to aperture A. The spec does not say what a write does whose offset is
no multiple of 8: it acts on the dword that contains the offset (DESIGN CHOICE, log 126). Of the read-only power block a virtual function's
writes are dropped and logged (R57). -/
def execRegisterWrite (f : FuncId) (off : BitVec 25) (v : Dword) (s : State) : Host.Outcome State Fault Refusal :=
  let o := off.toNat / 8 * 8
  if f ≠ 0 ∧ 0xA00000 ≤ o ∧ o < 0xA00020 ∧ s.hostUp then
    .next (s.onM (fun m => m.violation 0 o 3 (o / 65536) f.toNat true false))
  else s.regWrite f o (s.m.regVisible f o) (fun m => m.plainWrite f o v)

/-- M_BASE_WRITE (R44, R56): M_BASE (`vf` 0) or a VF_MBASE; a misaligned value is refused. -/
def execMBaseWrite (f vf : FuncId) (v : Dword) (s : State) : Host.Outcome State Fault Refusal :=
  s.regWrite f (0x10000 + 8 * vf.toNat) (f = 0) (fun m =>
    if v.toNat % (if vf = 0 then 2 ^ (30 + m.barLog.toNat) else 65536) = 0 then m.modFunc vf (fun x => { x with mbase := v })
    else m)

/-- A cap as applied (R20): clamped to 1,200-2,800 W, then rounded down to 25 W. -/
def capOf (v : Nat) : BitVec 16 := BitVec.ofNat 16 (Nat.min 2800 (Nat.max 1200 v) / 25 * 25)

/-- POWER_CAP_WRITE (R20, R57). -/
def execPowerCapWrite (f : FuncId) (v : BitVec 16) (s : State) : Host.Outcome State Fault Refusal :=
  .next (if !s.hostUp then s
    else if f ≠ 0 then s.onM (fun m => m.violation 0 0xA00000 3 0xA0 f.toNat true false)
    else
      let (ok, m) := s.m.regAccess f 0xA00000 true
      if ok then { s with m := m, pwr := { s.pwr with capSet := capOf v.toNat } } else { s with m := m })

/-! ### Fault queues (R173, R175) -/

/-- FQTAIL_WRITE (R175): a write that lowers it or passes FQHEAD is ignored. -/
def execFqtailWrite (f : FuncId) (p : PartId) (v : Dword) (s : State) : Host.Outcome State Fault Refusal :=
  s.regWrite f (fqOff p 0x4008) (s.m.seesPart f p) (fun m =>
    m.modFq p (fun q => if q.tail ≤ v.toNat ∧ v.toNat ≤ q.head then { q with tail := v.toNat } else q))

/-- FAULT_RECORD_POST (R175). -/
def execFaultRecordPost (p : PartId) (s : State) : Host.Outcome State Fault Refusal := .next (s.onM (fun m => m.postHeld p))

/-- The posted record that SEQ names and a source still waits on. -/
def FQ.waiting (q : FQ) (seq : Word) : Option (Nat × Waiter) :=
  q.waits.find? (fun w => BitVec.ofNat 32 w.1 = seq && decide (w.1 < q.head))

/-- The chain goes on after RETRY (R141, R175, R227). -/
def Ctx.retryChain (c : Ctx) (e : Eng) : Ctx :=
  let x := c.chain e
  let c := match x.latched with
    | some (.mxGlsend b) =>
      let k := b.d15.extractLsb' 0 3
      if x.cause = Cause.code .glAbsent then c.setHandle k (setBits (c.handle k) 61 61 0) else c
    | _ => c
  c.modChain e (fun x => { x with st := .running, cause := 0, pseq := 0 })

/-- An item whose image is parked faults (R138). -/
def Image.fault (im : Image) (async : Option ATrap) : Image :=
  let thr := im.thr
  { im with ctx := im.ctx.stopChains,
            thr := (match async with
              | some a => { thr with asyncs := thr.asyncs ++ [a] }
              | none => { thr with sup := thr.sup.map (fun u => { u with ended := true, faulted := true }), st := .idle,
                                   hold := none, arrivals := [], pull := .none }) }

/-- The chain of engine `e` parked on record `seq`. -/
def Ctx.parkedOn (c : Ctx) (e : Eng) (seq : Nat) : Bool :=
  (c.chain e).st = .parked && (c.chain e).pseq = BitVec.ofNat 32 seq

/-- What happens to a chain that waits on a record, on its tile, in a slot or spilled. -/
def Mach.answerChain (m : Mach) (p : PartId) (e : Eng) (seq : Nat) (retry : Bool) : Mach :=
  let tiles := (List.range 256).map (BitVec.ofNat 8)
  match tiles.find? (fun t => (((m.tile t).bind.map (fun b => decide (b.part = p))).getD false) && (m.ctx t).parkedOn e seq) with
  | some t =>
    let x := (m.ctx t).chain e
    if retry then m.modCtx t (fun c => c.retryChain e)
    else if x.cause = Cause.code .glAbsent then m.chainFault t e x.cur .glAbsent
    else m.faultItem t
  | none =>
    let f := fun (im : Image) =>
      if im.part = p && im.ctx.parkedOn e seq then
        let x := im.ctx.chain e
        if retry then { im with ctx := im.ctx.retryChain e }
        else im.fault (if x.cause = Cause.code .glAbsent then some ⟨x.cause, true, chainTval e x.cur, 0, m.time⟩ else none)
      else im
    let m := { m with tiles := tmap Tile.reset (fun _ (x : Tile) => { x with kennel := x.kennel.map f }) m.tiles }
    match (m.part p).spilled.find? (fun x => match x.2 with
      | some im => im.ctx.parkedOn e seq
      | none => false) with
    | some (n, some im) => m.putImage p n (f (m.getImage p n im))
    | _ => m

/-- What happens to a thread that trap firmware holds on a record (R419). -/
def Mach.answerThread (m : Mach) (p : PartId) (seq : Nat) (retry : Bool) : Mach :=
  let tiles := (List.range 256).map (BitVec.ofNat 8)
  let mine := fun (t : TileId) => (m.thr t).hold = some seq && m.partOf t = p && (m.thr t).sup.isSome
  match tiles.find? mine with
  | some t => if retry then m.modThr t (fun th => { th.eret with hold := none }) else m.faultItem t
  | none =>
    let f := fun (im : Image) =>
      if im.part = p && im.thr.hold = some seq then
        if retry then
          let ks := setBits (setBits im.thr.kstat 1 0 (bits im.thr.kstat.toNat 5 4)) 8 8 0
          { im with thr := { im.thr with kstat := ks, st := .ready, hold := none } }
        else im.fault none
      else im
    let m := { m with tiles := tmap Tile.reset (fun _ (x : Tile) => { x with kennel := x.kennel.map f }) m.tiles }
    match (m.part p).spilled.find? (fun x => match x.2 with
      | some im => im.thr.hold = some seq
      | none => false) with
    | some (n, some im) => m.putImage p n (f (m.getImage p n im))
    | _ => m

/-- What happens to a copy parked on a record (R79). -/
def Mach.answerCopy (m : Mach) (die : DieId) (e : BitVec 2) (seq : Nat) (retry : Bool) : Mach :=
  match tget [] (m.die die).copies e.toNat with
  | j :: _ =>
    if j.parked ≠ some seq then m
    else if retry then m.modJob die e (fun j => { j with parked := none })
    else m.rowFault die e j.row
  | [] => m

/-- FQRES on a record (R175). -/
def Mach.fqres (m : Mach) (p : PartId) (seq : Word) (retry : Bool) : Mach :=
  match (m.fq p).waiting seq with
  | none => m
  | some (n, w) =>
    let m := m.resolve p n
    match w with
    | .none => m
    | .chain _ e => m.answerChain p e n retry
    | .thread _ => m.answerThread p n retry
    | .copy die e => m.answerCopy die e n retry

/-- FQRES_RETRY (R175). -/
def execFqresRetry (f : FuncId) (p : PartId) (seq : Word) (s : State) : Host.Outcome State Fault Refusal :=
  s.regWrite f (fqOff p 0x4010) (s.m.seesPart f p) (fun m => m.fqres p seq true)

/-- FQRES_ABORT (R175). -/
def execFqresAbort (f : FuncId) (p : PartId) (seq : Word) (s : State) : Host.Outcome State Fault Refusal :=
  s.regWrite f (fqOff p 0x4010) (s.m.seesPart f p) (fun m => m.fqres p seq false)

/-- INVCTL_GO (R173): ignored while DONE is 0. -/
def execInvctlGo (f : FuncId) (p : PartId) (s : State) : Host.Outcome State Fault Refusal :=
  s.regWrite f (fqOff p 0x4030) (s.m.seesPart f p) (fun m =>
    m.modFq p (fun q => if q.done then { q with done := false, goVa := q.invva, goLen := q.invlen, dropped := false } else q))

/-- Does an access at `va` fall in the range under invalidation, widened to 64 KiB pages; INVLEN 0 is everything. -/
def FQ.covers (q : FQ) (va n : Nat) : Bool :=
  q.goLen = 0 ||
    (let lo := q.goVa.toNat / 65536 * 65536
     let hi := cdiv (q.goVa.toNat + q.goLen.toNat) 65536 * 65536
     decide (va < hi ∧ lo < va + n))

/-- Does an agent wait for an access of a partition. -/
def Mach.agentOf (m : Mach) (p : PartId) : Agent → Bool
  | .itemThread r | .itemStore r | .itemW r _ _ => r.part = p
  | .thread t | .store t | .eng t _ | .engW t _ _ | .gang t _ _ => m.partOf t = p
  | .copy d e => (tget [] (m.die d).copies e.toNat).any (fun j => j.part = p)
  | .work w => ((m.work w).map (fun x => decide (x.part = p))).getD false
  | .rel _ q _ | .dead q _ => q = p
  | _ => false

/-- An access of a partition has been sent to another die or package and is not yet answered, wherever its item is by now. -/
def Mach.awaits (m : Mach) (p : PartId) : Bool :=
  (List.range 4).any (fun d => decide (0 < m.owedTo (BitVec.ofNat 2 d) (m.agentOf p)))

/-- Something of an image's thread is still to be performed in a range. -/
def FQ.touches (q : FQ) (wbuf : List WEntry) (out : Option Outst) : Bool :=
  wbuf.any (fun w => q.covers w.va.toNat w.size) || (match out with
    | some o => q.covers o.va.toNat 64
    | none => false)

/-- An access of a partition that was translated in the range has still to be performed (R173): stores in buffers, a
thread's request, what engines, copies and retired items have sent, on tiles and in parked and spilled images. -/
def Mach.accessesLeft (m : Mach) (p : PartId) : Bool :=
  let q := m.fq p
  m.awaits p ||
  (List.range 256).any (fun k =>
    let t := BitVec.ofNat 8 k
    m.partOf t = p && (q.touches (m.thr t).wbuf (m.thr t).out ||
      [(m.ctx t).ld, (m.ctx t).mx, (m.ctx t).vx, (m.ctx t).st].any (fun x => x.outw ≠ 0 || !x.answers.isEmpty))) ||
  (m.tiles.filterMap (fun x => x.2.kennel) ++ (m.part p).spilled.filterMap (·.2)).any (fun im =>
    im.part = p && q.touches im.thr.wbuf im.thr.out) ||
  m.dies.any (fun x => x.2.copies.any (fun l => l.2.any (fun j => j.part = p && !j.answers.isEmpty)))

/-- INVALIDATION_DONE (R173): the TLBs of the package drop the partition's entries that overlap the range, and DONE sets once every
access that may have used one has been performed. -/
def execInvalidationDone (p : PartId) (s : State) : Host.Outcome State Fault Refusal :=
  .next (s.onM (fun m =>
    let q := m.fq p
    if q.done then m
    else
      let m := if q.dropped then m
        else (m.tlbDrop p (fun e => q.covers (e.page * pageSize e.level) (pageSize e.level))).modFq p (fun q => { q with dropped := true })
      if m.accessesLeft p then m else m.modFq p (fun q => { q with done := true })))

/-! ### Drop-record readout (R129) -/

/-- DRSEL_WRITE (R129). -/
def execDrselWrite (f : FuncId) (v : Dword) (s : State) : Host.Outcome State Fault Refusal :=
  s.regWrite f 0xC20000 (f = 0) (fun m => { m with drsel := zextLow v 10 })

/-- DROP_RECORD_READY (R129): bit 63 of DRSEL reads 1. -/
def execDropRecordReady (s : State) : Host.Outcome State Fault Refusal :=
  .next (if s.fw.boot ≠ .ready then s else s.onM (fun m => { m with drsel := setBits m.drsel 63 63 1 }))

/-! ### Reads of aperture A -/

def Queue.stateCode (x : Queue) : Nat := match x.state with
  | .free => 0 | .active => 1 | .error => 2 | .retiring => 3

/-- A dword of a queue descriptor (R66). -/
def Queue.readDesc (x : Queue) (r : Nat) : Dword :=
  if r = 0 then x.base
  else if r = 8 then
    BitVec.ofNat 64 (x.weight.toNat * 2 ^ 24 + x.part.toNat * 2 ^ 16 + x.prio.toNat * 2 ^ 8 + x.log2n.toNat)
  else if r = 0x10 then x.cidx
  else if r = 0x18 then x.latch
  else if r = 0x20 then BitVec.ofNat 64 (x.errcode.toNat * 2 ^ 8 + x.stateCode)
  else if r = 0x28 then x.erridx
  else 0

/-- A dword of a fault-queue block (R175). -/
def FQ.readReg (q : FQ) (r : Nat) : Dword :=
  if r < 0x4000 then (tget [] q.recs (r / 64)).getD (r % 64 / 8) 0
  else if r = 0x4000 then BitVec.ofNat 64 q.head
  else if r = 0x4008 then BitVec.ofNat 64 q.tail
  else if r = 0x4018 then BitVec.ofNat 64 (b2n q.fqie * 64 + q.fqvec.toNat)
  else if r = 0x4020 then q.invva
  else if r = 0x4028 then q.invlen
  else if r = 0x4030 then BitVec.ofNat 64 (b2n q.done * 2)
  else 0

/-- A dword of a mailbox (R53). -/
def Mailbox.readReg (b : Mailbox) (r : Nat) : Dword :=
  if r < 0x40 then tget 0 b.rq (r / 8)
  else if r < 0x80 then tget 0 b.rs ((r - 0x40) / 8)
  else if r = 0x88 then BitVec.ofNat 64 (b.dseq.toNat * 2 ^ 32 + b.err.toNat * 2 ^ 8 + b.state.toNat)
  else if r = 0x90 then BitVec.ofNat 64 (b2n b.ie * 64 + b.vec.toNat)
  else 0

/-- The score byte at offset `k` of a die's block (R121). -/
def Mach.scoreByte (m : Mach) (d : DieId) (k : Nat) : Nat :=
  if k < 0x40 then (m.unit (tileUnit (d ++ BitVec.ofNat 6 k))).score.toNat
  else if k < 0x4C then
    let u := moduleUnit (k - 0x40)
    let pairs := [(0, 1), (0, 2), (0, 3), (1, 2), (1, 3), (2, 3)]
    let p := pairs.getD ((k - 0x40) / 2) (0, 1)
    if d.toNat = p.1 ∨ d.toNat = p.2 then (m.unit u).score.toNat else 0
  else if 0x50 ≤ k ∧ k < 0x5C then (m.unit ⟨.port, d, BitVec.ofNat 8 (d.toNat * 16 + (k - 0x50))⟩).score.toNat
  else if 0x60 ≤ k ∧ k < 0xC0 then (m.unit ⟨.channel, d, BitVec.ofNat 8 (k - 0x60)⟩).score.toNat
  else 0

/-- Lease entries a virtual function sees: those whose PART is valid and its own (R114). -/
def Mach.seesLease (m : Mach) (f : FuncId) (r : LeaseRec) : Bool :=
  f = 0 || (r.d0.getLsbD 47 && (m.func f).bound = some (r.d0.extractLsb' 48 4))

/-- A dword at an offset of aperture A that the function's aperture maps (R45, R46, R55-R57, R66, R114, R121, R126,
R129, R175). A write-only field reads 0: R5 does not say what a read of one gives (DESIGN CHOICE, log 125). -/
def State.regValue (s : State) (f : FuncId) (off : Nat) : Dword :=
  let m := s.m
  if off = 0 then BitVec.ofNat 64 (Config.fusedStep.toNat * 2 ^ 32 + 2 ^ 16 + 0x40)
  else if off = 8 then Config.fusedSerial
  else if off = 0x10 then BitVec.ofNat 64 (s.fw.fwver.toNat * 2 ^ 32 + s.fw.svn.toNat)
  else if off = 0x18 then b2d (s.fw.boot = .ready)
  else if 0x10000 ≤ off ∧ off < 0x11000 then
    (if f = 0 then (m.func (BitVec.ofNat 6 ((off - 0x10000) / 8))).mbase else if off = 0x10008 then (m.func f).mbase else 0)
  else if 0x11000 ≤ off ∧ off < 0x11400 then
    BitVec.ofNat 64 (ofBytes ((List.range 8).map (fun k => (m.func f).msix (off - 0x11000 + k))))
  else if off = 0x11800 then (m.func f).msixPending
  else if 0x100000 ≤ off ∧ off < 0x110000 then
    (match m.queueAt f ((off - 0x100000) / 64) with
     | some q => (m.queue q).readDesc (off % 64)
     | none => 0)
  else if 0x400000 ≤ off ∧ off < 0x480000 then
    (m.fq (BitVec.ofNat 4 ((off - 0x400000) / 0x8000))).readReg ((off - 0x400000) % 0x8000)
  else if 0x800000 ≤ off ∧ off < 0x800098 then m.accessBox.readReg (off - 0x800000)
  else if 0x810000 ≤ off ∧ off < 0x820000 then
    let y := m.die (BitVec.ofNat 2 ((off - 0x810000) / 0x4000))
    let r := (off - 0x810000) % 0x4000
    let e := tget ⟨0, 0, 0⟩ y.vlog (r / 32)
    (if r = 0x2000 then BitVec.ofNat 64 y.logcnt
     else if r % 32 = 0 then e.time else if r % 32 = 8 then e.addr else if r % 32 = 16 then e.d2 else 0)
  else if off = 0xA00000 then s.pwr.capSet.setWidth 64
  else if off = 0xA00008 then s.pwr.tstep.setWidth 64
  else if off = 0xA00010 then s.pwr.pavg.setWidth 64
  else if off = 0xA00018 then s.pwr.tmax.setWidth 64
  else if 0xC00000 ≤ off ∧ off < 0xC08000 then
    let r := tget LeaseRec.free (m.die (BitVec.ofNat 2 ((off - 0xC00000) / 0x2000))).leases ((off - 0xC00000) % 0x2000 / 32)
    let k := off % 32
    (if !m.seesLease f r then 0
     else if k = 0 then r.d0 else if k = 8 then r.tstart else if k = 16 then r.tend else r.synd)
  else if 0xC10000 ≤ off ∧ off < 0xC10400 then
    tget 0 (m.die (BitVec.ofNat 2 ((off - 0xC10000) / 0x100))).sramErr (off % 0x100 / 8)
  else if 0xC11000 ≤ off ∧ off < 0xC11400 then
    let d := BitVec.ofNat 2 ((off - 0xC11000) / 0x100)
    BitVec.ofNat 64 (ofBytes ((List.range 8).map (fun k => BitVec.ofNat 8 (m.scoreByte d (off % 0x100 + k)))))
  else if off = 0xC20000 then m.drsel
  else if 0xC21000 ≤ off ∧ off < 0xC22000 then
    (if m.drsel.getLsbD 63 then
       let r := tget ⟨0, []⟩ s.fw.dropsFlash (bits m.drsel.toNat 9 0)
       BitVec.ofNat 64 (ofBytes ((r.bytes.drop (off - 0xC21000)).take 8))
     else 0)
  else if 0xC40000 ≤ off ∧ off < 0xD40000 then
    let r := tget [] m.recalls ((off - 0xC40000) / 4096)
    let part := bits (ofBytes ((r.drop 32).take 8)) 11 8
    (if f = 0 ∨ (m.func f).bound = some (BitVec.ofNat 4 part) then
       BitVec.ofNat 64 (ofBytes ((r.drop (off % 4096)).take 8))
     else 0)
  else if 0x1000000 ≤ off ∧ off < 0x1000098 then m.herderBox.readReg (off - 0x1000000)
  else 0

/-- What a read of a dword of aperture A gives (R44, R45): zero where the function's aperture maps nothing. -/
def State.readReg (s : State) (f : FuncId) (off : Nat) : Dword := if s.m.regVisible f off then s.regValue f off else 0

/-- The host reads bytes of aperture A (R44, R45, R52): a block without the grant answers Unsupported Request; dwords where the
aperture maps nothing read as zero. Either is logged. -/
def State.readA (s : State) (f : FuncId) (off n : Nat) : Answer × Mach :=
  let ds := (List.range (cdiv (off % 8 + n) 8)).map (fun k => off / 8 * 8 + 8 * k)
  match ds.find? (fun d => s.m.regVisible f d && !grantOk (s.m.grants 3 (d / 65536) f.toNat) .read) with
  | some d => (.unsupported, (s.m.regAccess f d true .read).2)
  | none =>
    let m := match ds.find? (fun d => !s.m.regVisible f d) with
      | some d => (s.m.regAccess f d false .read).2
      | none => s.m
    (.data (((ds.flatMap (fun d => toBytes 8 (s.readReg f d).toNat)).drop (off % 8)).take n), m)

/-- The host reads bytes of aperture N (R44, R49): CIDX of the page's queue, zero elsewhere; a page that maps nothing reads as
zero and is logged. -/
def Mach.readN (m : Mach) (f : FuncId) (off n : Nat) : Answer × Mach :=
  let cidx := fun (o : Nat) => match m.queueAt f (o / 4096) with
    | some q => if 8 ≤ o % 4096 ∧ o % 4096 < 16 then (m.queue q).cidx.extractLsb' (8 * (o % 8)) 8 else 0
    | none => 0
  let m' := match ((List.range n).map (off + ·)).find? (fun o => (m.queueAt f (o / 4096)).isNone) with
    | some o => m.violation 0 o 7 (o / 65536) f.toNat false false
    | none => m
  (.data ((List.range n).map (fun k => cidx (off + k))), m')

end Sys2Proof.Machine
end

