-- ==== Sys2Proof/Machine/Mailbox.lean ====
section
/-! DEFINITION. The requests of the Herder mailbox and the access-table mailbox (R53-R55), and live update (R63). A request is
acted on while its mailbox is BUSY; MAILBOX_COMPLETION then writes its results. -/
namespace Sys2Proof.Machine

/-! ### Acting on a request (R53) -/

/-- Herder firmware acts on requests: it runs, and is not between the steps of a live update. -/
def State.firmwareUp (s : State) : Bool := s.fw.boot = .ready && s.fw.upd ≠ .atBoundary

def Mailbox.asks (b : Mailbox) (code : Nat) (args : List Dword) : Bool :=
  b.state = 1 && b.code.toNat = code && b.acted.isNone && (args.zipIdx).all (fun x => tget 0 b.rq x.2 = x.1)

/-- Act on a request of the Herder mailbox: the answer is ERR and the results. -/
def State.onRequest (s : State) (code : Nat) (args : List Dword) (f : State → (Byte × List Dword) × State) :
    Host.Outcome State Fault Refusal :=
  .next (if s.firmwareUp && s.m.herderBox.asks code args then
    let (a, s) := f s
    s.onM (fun m => { m with herderBox := { m.herderBox with acted := some a } })
  else s)

/-- A request that changes the machine alone: an error code leaves it unchanged. -/
def State.onReqM (s : State) (code : Nat) (args : List Dword) (f : Mach → Except Byte (List Dword × Mach)) :
    Host.Outcome State Fault Refusal :=
  s.onRequest code args (fun s => match f s.m with
    | .error e => ((e, []), s)
    | .ok (rs, m) => ((0, rs), { s with m := m }))

def errArg : Byte := 2
def errRefused : Byte := 3
def errBusy : Byte := 4
def errMemory : Byte := 5

/-- Bits of `x` outside a mask are zero. -/
def onlyBits (x : Dword) (mask : Nat) : Bool := x &&& ~~~(BitVec.ofNat 64 mask) = 0

/-! ### Requests of the management port (R51, R53, R58, R59) -/

/-- The management port hears a request (R58): by its bus, or as a vendor-defined message of the physical function while the link
is trained and main power is on. -/
def State.heard (s : State) : Bool :=
  match s.turn.via with
  | .vdm f => f = 0 && s.fw.pcieTrained.isSome && !s.pwr.tripped
  | _ => true

/-- A request of the management port: not ready where the power state does not offer it, and in RECOVERY. -/
def State.mgmt (s : State) (standby : Bool) (f : State → State) : Host.Outcome State Fault Refusal :=
  .next (if !s.heard then s
    else if s.fw.boot = .recovery || (!standby && s.pwr.tripped) then s.onM (fun m => m.answer .notReady) else f s)

/-- A mailbox request of one of these codes is in progress. A management-port request that conflicts with it waits (R53). Which
ones conflict is not said: those that write the same thing (DESIGN CHOICE, log 127). -/
def Mach.mailBusy (m : Mach) (codes : List Nat) : Bool := m.herderBox.state = 1 && codes.contains m.herderBox.code.toNat
def Mach.accessBusy (m : Mach) (codes : List Nat) : Bool := m.accessBox.state = 1 && codes.contains m.accessBox.code.toNat

/-- A request of the management port that Herder firmware carries out (R16, R36, R51, R113, R123): it waits for a conflicting one
of a mailbox and while a live update is at its boundary; it is not ready where no Herder runs. -/
def State.mgmtFw (s : State) (busy : Bool) (f : State → State) : Host.Outcome State Fault Refusal :=
  if s.fw.boot = .ready && (busy || s.fw.upd = .atBoundary) then .next s
  else s.mgmt false (fun s => if s.fw.boot = .ready then f s else s.onM (fun m => m.answer .notReady))

/-- The port's answer to a request that a mailbox has too: done, or an error that leaves the machine unchanged. -/
def State.portReq (s : State) (busy : Bool) (f : Mach → Except Byte (List Dword × Mach)) : Host.Outcome State Fault Refusal :=
  s.mgmtFw busy (fun s => s.onM (fun m => match f m with
    | .ok (_, m) => m.answer .done
    | .error _ => m.answer .error))

/-! ### Partitions and functions -/

/-- The queues a virtual function gets when it is bound: the lowest 64 that are FREE and assigned to no other (log 17). -/
def Mach.spareQueues (m : Mach) : List QueueId :=
  (((List.range 1024).map (BitVec.ofNat 10)).filter (fun q => (m.queue q).state = .free && (m.holder q).isNone)).take 64

/-- BIND of a virtual function: its queues are assigned, with the partition in their descriptors (R47, R66). -/
def Mach.bindFunc (m : Mach) (vf : FuncId) (p : PartId) : Mach :=
  let l := m.spareQueues
  let m := m.modFunc vf (fun x => { x with bound := some p, queues := l })
  l.foldl (fun (m : Mach) q => m.modQueue q (fun x => { x with part := p, owner := vf })) m

/-- UNBIND: the queues, all FREE, are assigned to nobody. -/
def Mach.unbindFunc (m : Mach) (vf : FuncId) : Mach :=
  let l := (m.func vf).queues
  let m := m.modFunc vf (fun x => { x with bound := none, queues := [] })
  l.foldl (fun (m : Mach) q => m.freeDesc q) m

/-- BIND (R47, R54). -/
def execBind (rq0 : Dword) (s : State) : Host.Outcome State Fault Refusal :=
  s.onReqM 0x01 [rq0] (fun m =>
    let vf := rq0.extractLsb' 0 6
    let p := rq0.extractLsb' 8 4
    if !onlyBits rq0 0xF3F || vf = 0 then .error errArg
    else if (m.func vf).bound.isSome || m.funcs.any (fun x => x.2.bound = some p) then .error errRefused
    else .ok ([], m.bindFunc vf p))

/-- UNBIND (R47, R54): refused while the function holds a queue that is not FREE. -/
def execUnbind (rq0 : Dword) (s : State) : Host.Outcome State Fault Refusal :=
  s.onReqM 0x02 [rq0] (fun m =>
    let vf := rq0.extractLsb' 0 6
    if !onlyBits rq0 0x3F || vf = 0 then .error errArg
    else if m.heldQueues vf ≠ 0 then .error errRefused
    else .ok ([], m.unbindFunc vf))

/-- PTROOT (R167): an 8 KiB table in region 0x0 of this package. -/
def execPtroot (rq0 rq1 : Dword) (s : State) : Host.Outcome State Fault Refusal :=
  s.onReqM 0x03 [rq0, rq1] (fun m =>
    if !onlyBits rq0 0xF || rq1.toNat % 8192 ≠ 0 || paRegion rq1.toNat ≠ 0 || !m.mapped rq1.toNat 8192 then .error errArg
    else .ok ([], m.modPart (rq0.extractLsb' 0 4) (fun x => { x with ptroot := rq1 })))

/-- A partition has items running or parked on a cluster: a slot of one of its launches (R92). -/
def Mach.hasItems (m : Mach) (p : PartId) (c : ClusterId) : Bool :=
  (List.range 64).any (fun n => match m.slot c n with
    | some sl => match m.launch sl.lid with
      | some l => l.part = p
      | none => false
    | none => false)

/-- CLUSTER (R92): refused where it removes a partition that has items there. -/
def execCluster (rq0 rq1 rq2 : Dword) (s : State) : Host.Outcome State Fault Refusal :=
  s.onReqM 0x04 [rq0, rq1, rq2] (fun m =>
    let c : ClusterId := rq0.extractLsb' 0 5
    let e := m.clu c
    let new := { e with parts := rq1.extractLsb' 0 16, valid := rq1.extractLsb' 16 4, slice := rq2.toNat }
    let keep := fun (o : Option PartId) => match o with
      | some p => if new.rotation.contains p then some p else none
      | none => none
    if !onlyBits rq0 0x1F || !onlyBits rq1 0xFFFFF || rq2.toNat = 0 || 10000 < rq2.toNat then .error errArg
    else if e.rotation.any (fun p => !new.rotation.contains p && m.hasItems p c) then .error errRefused
    else .ok ([], (m.modClu c (fun _ => { new with resident := keep e.resident, order := keep e.order })).sched))

/-- Bytes of an argument block at a device physical address; none where it cannot be read (R53). -/
def Mach.argBytes (m : Mach) (pa n : Nat) : Option (List Byte × Mach) :=
  if n = 0 then some ([], m)
  else if !m.mapped pa n then none
  else
    let m := m.readPort pa n
    if m.poisoned pa n then none else some (Memory.bytes m.mem pa n, m)

/-- LGROUP (R99): writes a launch-group entry; LGID 0 frees it. -/
def execLgroup (rq0 rq1 rq2 : Dword) (s : State) : Host.Outcome State Fault Refusal :=
  s.onReqM 0x05 [rq0, rq1, rq2] (fun m =>
    let n := bits rq0.toNat 5 0
    let lgid := rq0.extractLsb' 16 16
    let size := bits rq1.toNat 12 0
    let rank := bits rq1.toNat 28 16
    if !onlyBits rq0 0xFFFF003F then .error errArg
    else if lgid = 0 then .ok ([], { m with groups := tput LGroup.free m.groups n LGroup.free })
    else if !onlyBits rq1 0x1FFF1FFF || size = 0 || 4096 < size || size ≤ rank then .error errArg
    else
      match m.argBytes rq2.toNat (2 * size) with
      | none => .error errMemory
      | some (bs, m) =>
        let ids := (List.range size).map (fun k => ofBytes ((bs.drop (2 * k)).take 2))
        if ids.any (fun i => decide (4096 ≤ i)) then .error errArg
        else .ok ([], { m with groups := tput LGroup.free m.groups n ⟨lgid, size, rank, ids.map (BitVec.ofNat 12), []⟩ }))

/-- IMGAREA (R109); the area is busy while it holds images. -/
def execImgarea (rq0 rq1 rq2 : Dword) (s : State) : Host.Outcome State Fault Refusal :=
  s.onReqM 0x06 [rq0, rq1, rq2] (fun m =>
    let p := rq0.extractLsb' 0 4
    if !onlyBits rq0 0xF || rq1.toNat % 64 ≠ 0 || 2 ^ 56 < rq1.toNat + imageSize * rq2.toNat then .error errArg
    else if !(m.part p).spilled.isEmpty then .error errBusy
    else .ok ([], m.modPart p (fun x => { x with imgBase := rq1, imgCount := rq2.toNat })))

/-! ### EXPORT and IMPORT (R110) -/

/-- The partition has work of its own to be parked, spilled or performed before its record is written. -/
def Mach.exportBusy (m : Mach) (p : PartId) : Bool :=
  m.tiles.any (fun x => ((x.2.bind.map (fun b => decide (b.part = p))).getD false) || (match x.2.kennel with
    | some im => im.part = p
    | none => false)) ||
  m.dies.any (fun x => x.2.copies.any (fun l => l.2.any (fun j => j.part = p))) ||
  m.awaits p || m.works.any (fun x => match x.2 with
    | some w => w.part = p && !w.acks.isEmpty
    | none => false) ||
  (m.part p).spilled.any (fun x => match x.2 with
    | some im => im.thr.wbuf ≠ [] || im.thr.out.isSome
    | none => false)

def somes {α : Type} (t : Tbl (Option α)) (f : α → Bool) : List (Nat × α) :=
  t.filterMap (fun x => match x.2 with
    | some a => if f a then some (x.1, a) else none
    | none => none)

/-- What the export record of a partition holds. -/
def Mach.exportRec (m : Mach) (p : PartId) : ExportRec :=
  let launches := (somes m.launches (fun l => l.part = p)).map (·.2)
  let mine := fun (lid : Word) => launches.any (fun l => l.lid = lid)
  { queues := m.queues.filter (fun x => x.2.state ≠ .free && x.2.part = p),
    works := somes m.works (fun w => w.part = p), insts := somes m.insts (fun i => i.part = p), launches := launches,
    tickets := (List.range 4).flatMap (fun d =>
      (somes (α := Ticket) (m.die (BitVec.ofNat 2 d)).tickets (fun t => mine t.lid)).map
        (fun x => ((BitVec.ofNat 2 d : DieId), x.1, x.2))),
    slots := somes m.slots (fun sl => mine sl.lid),
    bars := m.bars.filter (fun x => match x.1 with
      | .cb c n _ => ((m.slot c n).map (fun sl => mine sl.lid)).getD false
      | _ => x.2.owned && mine x.2.owner),
    images := somes (m.part p).spilled (fun _ => true) }

/-- The partition has left: its queues are FREE and its work is gone from this package. -/
def Mach.dropPartition (m : Mach) (p : PartId) (r : ExportRec) : Mach :=
  let m := r.queues.foldl (fun (m : Mach) x => m.freeDesc (BitVec.ofNat 10 x.1)) m
  let m := r.works.foldl (fun (m : Mach) x => m.setWork x.1 none) m
  let m := r.insts.foldl (fun (m : Mach) x => m.setInst x.1 none) m
  let m := r.launches.foldl (fun (m : Mach) l => m.setLaunch l.lid none) m
  let m := r.tickets.foldl (fun (m : Mach) x => m.modDie x.1 (fun y => { y with tickets := tput none y.tickets x.2.1 none })) m
  let m := { m with slots := r.slots.foldl (fun t (x : Nat × Slot) => tput none t x.1 none) m.slots,
                    bars := m.bars.filter (fun x => !r.bars.any (fun y => y.1 = x.1)), exports := nins p.toNat m.exports }
  (m.modPart p (fun x => { x with spilled := [] })).tlbDrop p (fun _ => true)

/-- A partition and its launches are stopped for an export, or go on. -/
def Mach.stopPart (m : Mach) (p : PartId) (b : Bool) : Mach :=
  let set := fun (o : Option Launch) => o.map (fun l => if l.part = p then { l with exported := b } else l)
  { m.modPart p (fun x => { x with exported := b }) with launches := tmap none (fun _ o => set o) m.launches }

/-- EXPORT (R110, R112): the partition's work is stopped everywhere; once all of it is spilled and its writes are
performed, the record is written. Where no place of the image area is left for it, the request fails and the work goes on. -/
def execExportPart (rq0 : Dword) (s : State) : Host.Outcome State Fault Refusal :=
  let p := rq0.extractLsb' 0 4
  if !onlyBits rq0 0xF then s.onReqM 0x07 [rq0] (fun _ => .error errArg)
  else if !(s.firmwareUp && s.m.herderBox.asks 0x07 [rq0]) then .next s
  else
    let m := s.m.stopPart p true
    if m.exportBusy p then .next { s with m := m }
    else
      match m.freePlace p with
      | none =>
        { s with m := if nhas m.exports p.toNat then m else (m.stopPart p false).sched }.onReqM 0x07 [rq0] (fun _ => .error errBusy)
      | some n =>
        { s with m := m }.onReqM 0x07 [rq0] (fun m =>
          let r := m.exportRec p
          let bs := Config.writeRecord r
          let va := m.imageAddr p n
          .ok ([BitVec.ofNat 64 va, BitVec.ofNat 64 bs.length], (m.writeVa p va bs).dropPartition p r))

/-- A send handle in use is marked absent (R227). -/
def Ctx.absentHandles (c : Ctx) : Ctx :=
  { c with hnd := tmap 0 (fun _ (v : Dword) => if v.getLsbD 63 && !v.getLsbD 62 then setBits v 61 61 1 else v) c.hnd }

/-- The numbers a record's launches, slots and graph instances get here (log 140): LIDs from the next one on, and free slot numbers
of the same cluster and free instances, in the record's order. -/
structure Renum where
  lids : List (Word × Word)
  slots : List (Nat × Nat)
  insts : List (Nat × Nat)
deriving DecidableEq, Repr

def Mach.renum (m : Mach) (r : ExportRec) : Renum :=
  let pick := fun (xs : List Nat) (lo n : Nat → Nat) (free : Nat → Bool) =>
    xs.foldl (fun (l : List (Nat × Nat)) x =>
      match ((List.range (n x)).map (lo x + ·)).find? (fun k => free k && !l.any (fun y => y.2 = k)) with
      | some k => l ++ [(x, k)]
      | none => l) []
  { lids := (r.launches.zipIdx).map (fun x => (x.1.lid, m.nextLid + BitVec.ofNat 32 x.2)),
    slots := pick (r.slots.map (·.1)) (fun x => x / 64 * 64) (fun _ => 64) (fun k => (tget none m.slots k).isNone),
    insts := pick (r.insts.map (·.1)) (fun _ => 0) (fun _ => 256) (fun k => (m.inst k).isNone) }

def assocD {α β : Type} [BEq α] (l : List (α × β)) (k : α) (d : β) : β := ((l.find? (fun x => x.1 == k)).map (·.2)).getD d

def Renum.lid (n : Renum) (l : Word) : Word := assocD n.lids l l
def Renum.slot (n : Renum) (c : ClusterId) (k : Nat) : Nat := assocD n.slots (c.toNat * 64 + k) k % 64
def Renum.inst (n : Renum) (k : Nat) : Nat := assocD n.insts k k

/-- A participant of a barrier, as partKey numbers it. -/
def Renum.key (n : Renum) (k : Nat) : Nat :=
  partKey (BitVec.ofNat 5 (k / 512)) (n.slot (BitVec.ofNat 5 (k / 512)) (k % 512 / 8)) (k % 8)

def Renum.barId (n : Renum) : BarId → BarId
  | .cb c k b => .cb c (n.slot c k) b
  | b => b

/-- A barrier of the record: nothing sent before its arrivals is still to be performed, for EXPORT waits for that. -/
def Renum.bar (n : Renum) (b : Bar) : Bar :=
  { b with owner := n.lid b.owner, arrived := b.arrived.foldl (fun s k => nins (n.key k) s) [],
           late := b.late.foldl (fun s k => nins (n.key k) s) [],
           next := b.next.foldl (fun s k => nins (n.key k) s) [], resv := b.resv.map (fun x => (n.key x.1, x.2)),
           sent := [], sentNext := [] }

def Renum.src (n : Renum) : Src → Src
  | .inst k => .inst (n.inst k)
  | s => s

/-- An image of the record as it joins this package. -/
def Renum.image (n : Renum) (p : PartId) (im : Image) : Image :=
  let c := im.tile.cluster
  { im with
    lid := n.lid im.lid, part := p,
    bind := { im.bind with part := p, lid := n.lid im.bind.lid, slot := n.slot c im.bind.slot },
    thr := { im.thr with
      sup := im.thr.sup.map (fun u => { u with lid := n.lid u.lid, slot := n.slot c u.slot }),
      arrivals := im.thr.arrivals.map (fun a => { a with bar := n.barId a.bar }) },
    ctx := im.ctx.absentHandles }

/-- The record can be taken: its queues, counters and barriers, whose numbers software holds, are free here; there are slot
numbers and instances for it, and its owner may hold its queues (R47; log 140). -/
def Mach.importRoom (m : Mach) (p : PartId) (r : ExportRec) : Bool :=
  let n := m.renum r
  let o := m.ownerOf p
  let free := fun (q : QueueId) => (m.queue q).state = .free && (match m.holder q with
    | some f => f = o
    | none => true)
  r.queues.all (fun x => free (BitVec.ofNat 10 x.1)) && decide (m.heldQueues o + r.queues.length ≤ 64) &&
    r.tickets.all (fun x => (tget none (m.die x.1).tickets x.2.1).isNone) &&
    r.bars.all (fun x => (m.bar (n.barId x.1)) = Bar.free) &&
    decide (n.slots.length = r.slots.length) && decide (n.insts.length = r.insts.length)

/-- The queues of a record join the function that owns the partition: a virtual function's list keeps 64 queues, the spare FREE
ones making room (R47; log 17). -/
def Mach.takeQueues (m : Mach) (p : PartId) (r : ExportRec) : Mach :=
  let o := m.ownerOf p
  let new := r.queues.map (fun x => (BitVec.ofNat 10 x.1 : QueueId))
  let m := if o = 0 then m else
    let old := (m.func o).queues
    let inUse := old.filter (fun q => (m.queue q).state ≠ .free || new.contains q)
    let spare := old.filter (fun q => (m.queue q).state = .free && !new.contains q)
    let add := new.filter (fun q => !old.contains q)
    let keep := spare.take (64 - inUse.length - add.length)
    let m := (spare.drop keep.length).foldl (fun (m : Mach) q => m.freeDesc q) m
    m.modFunc o (fun x => { x with queues := old.filter (fun q => inUse.contains q || keep.contains q) ++ add })
  r.queues.foldl (fun (m : Mach) x => m.modQueue (BitVec.ofNat 10 x.1) (fun _ =>
    { x.2 with part := p, owner := o, stall := x.2.stall.map (m.nextWork + ·) })) m

/-- The record's contents join this package under numbers of their own. -/
def Mach.takeRecord (m : Mach) (p : PartId) (r : ExportRec) : Mach :=
  let n := m.renum r
  let base := m.nextWork
  let m := m.takeQueues p r
  let m := r.works.foldl (fun (m : Mach) x => m.setWork (base + x.1) (some { x.2 with part := p, src := n.src x.2.src })) m
  let top := r.works.foldl (fun a x => Nat.max a (x.1 + 1)) 0
  let m := r.insts.foldl (fun (m : Mach) x =>
    m.setInst (n.inst x.1) (some { x.2 with part := p, work := base + x.2.work })) m
  let m := r.launches.foldl (fun (m : Mach) l =>
    m.setLaunch (n.lid l.lid) (some
      { l with lid := n.lid l.lid, part := p, work := base + l.work, graph := l.graph.map (base + ·), exported := false })) m
  let m := r.tickets.foldl (fun (m : Mach) x =>
    m.modDie x.1 (fun y => { y with tickets := tput none y.tickets x.2.1 (some { x.2.2 with lid := n.lid x.2.2.lid }) })) m
  { m with
    slots := r.slots.foldl (fun t (x : Nat × Slot) =>
      tput none t (assocD n.slots x.1 x.1) (some { x.2 with lid := n.lid x.2.lid })) m.slots,
    bars := m.bars ++ r.bars.map (fun x => (n.barId x.1, n.bar x.2)),
    nextWork := base + top, nextLid := m.nextLid + BitVec.ofNat 32 r.launches.length, exports := ndel p.toNat m.exports }

def Image.ref (im : Image) : ItemRef := ⟨im.part, im.tile.cluster, im.bind.lid, im.bind.slot, im.bind.pos⟩

/-- Forwards of items that had left this package with the record's partition and come back follow them (R230). -/
def Mach.takeForwards (m : Mach) (p : PartId) (n : Renum) (r : ExportRec) : Mach :=
  let move := fun (f : Fwd) =>
    match r.images.find? (fun x => x.2.ref = f.item) with
    | some x => if nhas m.exports f.item.part.toNat then { f with item := (n.image p x.2).ref } else f
    | none => f
  if m.dies.all (fun x => x.2.fwds.isEmpty) then m
  else { m with dies := tmap Die.reset (fun _ (y : Die) => { y with fwds := y.fwds.map move }) m.dies }

/-- IMPORT (R110): the record and its images are read through the decoders; one that fails is refused as a whole. An image goes to
the place the record gives it, wherever that is (DESIGN CHOICE, log 155). -/
def execImportPart (rq0 rq1 : Dword) (s : State) : Host.Outcome State Fault Refusal :=
  s.onRequest 0x08 [rq0, rq1] (fun s =>
    let p := rq0.extractLsb' 0 4
    if !onlyBits rq0 0xF || 2 ^ 56 ≤ rq1.toNat then ((errArg, []), s)
    else
      let m := s.m.portVa p rq1.toNat imageSize
      match Config.readRecord (m.readVa p rq1.toNat imageSize) with
      | none => ((errRefused, []), { s with m := m })
      | some r =>
        let m := r.images.foldl (fun (m : Mach) x => m.portVa p (m.imageAddr p x.1) imageSize) m
        let ims := r.images.map (fun x => (x.1, m.getImage p x.1 x.2))
        if !m.importRoom p r || ims.any (fun x => x.2.level ≠ 1) then ((errRefused, []), { s with m := m })
        else
          let n := m.renum r
          let m := (m.takeForwards p n r).takeRecord p r
          let m := ims.foldl (fun (m : Mach) x => m.putImage p x.1 (n.image p x.2)) m
          let m := m.modPart p (fun x => { x with exported := false })
          ((0, [BitVec.ofNat 64 ims.length]), { s with m := m.sched }))

/-! ### Leases, routes, classes, counters -/

def kindOf (n : Nat) : UnitKind := if n = 0 then .tile else if n = 1 then .module else if n = 2 then .port else .channel

/-- The limits of a rotation period in ms (R113). -/
def periodLimits (k : UnitKind) : Nat × Nat :=
  match k with
  | .tile => (50, 60000)
  | .module => (1000, 600000)
  | .port => (1000, 600000)
  | .channel => (10000, 3600000)

/-- ROTATION (R113): clamped to the nearer limit. -/
def execRotation (rq0 rq1 : Dword) (s : State) : Host.Outcome State Fault Refusal :=
  s.onReqM 0x09 [rq0, rq1] (fun m =>
    if !onlyBits rq0 3 then .error errArg
    else
      let k := kindOf rq0.toNat
      let v := Nat.min (periodLimits k).2 (Nat.max (periodLimits k).1 rq1.toNat)
      .ok ([BitVec.ofNat 64 v], { m with periods := tput 0 m.periods (kindCode k) v }))

/-- Does a unit exist (R9, R23, R35). -/
def unitExists (u : UnitId) : Bool :=
  match u.kind with
  | .tile => u.die = u.unit.extractLsb' 6 2
  | .module => u.unit.toNat < 12
  | .port => u.unit.toNat < 64 && u.unit.toNat % 16 < 12 && u.die = u.unit.extractLsb' 4 2
  | .channel => u.unit.toNat < 96

/-- The unit a request names: a tile's and a port's die is in its identifier, a module is kept under die 0. -/
def unitNamed (kind : UnitKind) (unit : Byte) (die : DieId) : UnitId :=
  match kind with
  | .tile => ⟨.tile, unit.extractLsb' 6 2, unit⟩
  | .module => ⟨.module, 0, unit⟩
  | .port => ⟨.port, unit.extractLsb' 4 2, unit⟩
  | .channel => ⟨.channel, die, unit⟩

/-- The lease of a unit is SCHEDULED, DRAINING or TESTING. -/
def Mach.leasePending (m : Mach) (u : UnitId) : Bool := (m.unit u).lease.isSome

/-- A request for a lease (R113, R114). -/
def Mach.leaseReq (m : Mach) (rq0 : Dword) : Except Byte (List Dword × Mach) :=
  let u := unitNamed (kindOf (bits rq0.toNat 5 4)) (rq0.extractLsb' 8 8) (rq0.extractLsb' 16 2)
  if !onlyBits rq0 0x3FF70 || rq0.getLsbD 6 || !unitExists u then .error errArg
  else if (m.unit u).retired then .error errRefused
  else if m.leasePending u then .error errBusy
  else
    match m.schedule u 3 with
    | (some n, m) => .ok ([BitVec.ofNat 64 n], m)
    | (none, _) => .error errBusy

/-- LEASE (R113, R114): schedules a requested lease, for the mailbox or the management port. -/
def execLease (rq0 : Dword) (s : State) : Host.Outcome State Fault Refusal :=
  if s.turn.via = .own then s.onReqM 0x0A [rq0] (fun m => m.leaseReq rq0)
  else s.portReq (s.m.mailBusy [0x0A]) (fun m => m.leaseReq rq0)

/-- Does a routing entry name only ports that exist, with its reserved bits zero (R36). The fields above N are no candidates, and
any value is taken there (DESIGN CHOICE, log 128). -/
def routeOk (v : Nat) : Bool :=
  bits v 28 24 = 0 && (List.range (bits v 30 29 + 1)).all (fun k => decide (bits v (6 * k + 3) (6 * k) < 12))

/-- The same value goes into all four dies' copies (R36). -/
def Mach.setRoute (m : Mach) (pkg : BitVec 12) (v : Word) : Mach :=
  (List.range 4).foldl (fun (m : Mach) d =>
    m.modDie (BitVec.ofNat 2 d) (fun y => { y with routing := tput 0 y.routing pkg.toNat v })) m

/-- ROUTE (R36). -/
def execRoute (rq0 rq1 : Dword) (s : State) : Host.Outcome State Fault Refusal :=
  s.onReqM 0x0B [rq0, rq1] (fun m =>
    if !onlyBits rq0 0xFFF || !onlyBits rq1 0xFFFFFFFF then .error errArg
    else if !routeOk rq1.toNat then .error errRefused
    else .ok ([], m.setRoute (rq0.extractLsb' 0 12) (rq1.extractLsb' 0 32)))

/-- A write of the class map (R51). -/
def Mach.classReq (m : Mach) (rq0 rq1 : Dword) : Except Byte (List Dword × Mach) :=
  if !onlyBits rq0 0xFFF || !onlyBits rq1 0x7F then .error errArg
  else .ok ([], { m with classes := tput 0 m.classes (bits rq0.toNat 11 0) (rq1.extractLsb' 0 7) })

/-- CLASS (R51), for the mailbox or the management port. -/
def execClassMap (rq0 rq1 : Dword) (s : State) : Host.Outcome State Fault Refusal :=
  if s.turn.via = .own then s.onReqM 0x0C [rq0, rq1] (fun m => m.classReq rq0 rq1)
  else s.portReq (s.m.mailBusy [0x0C]) (fun m => m.classReq rq0 rq1)

/-- Sources of a die counter (R157); any other select reads back as 0. -/
def dieSource (v : Nat) : Byte :=
  if v ∈ [0x01, 0x0E, 0x0F, 0x20, 0x21, 0x22, 0x23, 0x24, 0x25, 0x26, 0x27] then BitVec.ofNat 8 v else 0

/-- DIECOUNT (R157, R158). -/
def execDiecount (rq0 rq1 : Dword) (s : State) : Host.Outcome State Fault Refusal :=
  s.onReqM 0x0D [rq0, rq1] (fun m =>
    let die : DieId := rq0.extractLsb' 0 2
    let n := bits rq0.toNat 12 8
    let sel := rq0.getLsbD 17
    if !onlyBits rq0 0x31F03 then .error errArg
    else
      let y := m.die die
      let old := if sel then (tget 0 y.des n).setWidth 64 else tget 0 y.dec n
      let m := if !rq0.getLsbD 16 then m
        else if sel then m.modDie die (fun y => { y with des := tput 0 y.des n (dieSource (rq1.toNat % 256)) })
        else m.modDie die (fun y => { y with dec := tput 0 y.dec n rq1 })
      .ok ([old], m))

/-! ### Firmware (R60, R63, R64) -/

/-- Bytes of a flash bank (R11), and an image with its signature that fits one. -/
def bankSize : Nat := 6 * 2 ^ 20
def imageFits (i : FwImage) : Bool := decide (i.bytes.length + i.sig.length ≤ bankSize)

/-- Steps 2 to 4 of R60: the signature over the digest, and the security version. -/
def Firmware.verifies (w : Firmware) (i : FwImage) : Bool :=
  Config.falconVerify (Config.shake256 i.bytes) i.sig && decide (w.svn.toNat ≤ i.svn.toNat)

/-- The bank that is not preferred. -/
def Firmware.inactive (w : Firmware) : Bank := if w.preferred then w.bank0 else w.bank1

def Firmware.setBank (w : Firmware) (one : Bool) (b : Bank) : Firmware := if one then { w with bank1 := b } else { w with bank0 := b }

/-- Stage an image into the inactive bank and verify it there (R63 step 1); one that fits no bank (R11) is not written. The
bank-select header stays as it is, with the mark that R62 may have put on the bank. -/
def Firmware.stage (w : Firmware) (i : FwImage) : Bool × Firmware :=
  if !imageFits i then (false, w)
  else
    let w := w.setBank (!w.preferred) ⟨some i, w.inactive.invalid⟩
    if w.verifies i then (true, { w with staged := true }) else (false, { w with staged := false })

/-- STAGE (R63 step 1). -/
def execStage (rq0 rq1 : Dword) (s : State) : Host.Outcome State Fault Refusal :=
  s.onRequest 0x0E [rq0, rq1] (fun s =>
    if paRegion rq0.toNat ≠ 0 || decide (bankSize < rq1.toNat) then ((errArg, []), s)
    else if s.fw.upd ≠ .none then ((errBusy, []), s)
    else
      match s.m.argBytes rq0.toNat rq1.toNat with
      | none => ((errMemory, []), s)
      | some (bs, m) =>
        let (ok, w) := s.fw.stage (Config.parseImage bs)
        (((if ok then 0 else errRefused), []), { s with m := m, fw := w }))

/-- UPDATE (R63 steps 2 and 3): the standby restarts from the staged image; a state-table version outside its range
refuses the update. The request goes on until the standby has taken over. -/
def execUpdate (s : State) : Host.Outcome State Fault Refusal :=
  match s.fw.staged, s.fw.inactive.img with
  | true, some i =>
    let v := Config.stateVersion s.fw.fwver
    if i.stLo ≤ v ∧ v ≤ i.stHi then
      .next (if s.firmwareUp && s.m.herderBox.asks 0x0F [] && decide (s.fw.upd = .none) then { s with fw := { s.fw with upd := .asked } } else s)
    else s.onRequest 0x0F [] (fun s => ((errRefused, []), s))
  | _, _ => s.onRequest 0x0F [] (fun s => ((errRefused, []), s))

/-- QUIESCENT_BOUNDARY (R63 steps 3 and 4): no exchange is under way; the state table goes to the die pool of die 0. -/
def execQuiescentBoundary (s : State) : Host.Outcome State Fault Refusal :=
  .next (if s.fw.boot = .ready && decide (s.fw.upd = .asked) && !s.m.inExchange ((List.range 256).map (BitVec.ofNat 8)) then
    let t := Config.stateTable s.m.fresh
    let m := if t.1 + t.2.length ≤ 2 ^ 26 then s.m.writePa (dpoolPa 0 t.1) t.2 else s.m
    { s with m := m.bump, fw := { s.fw with upd := .atBoundary } }
  else s)

/-- STANDBY_TAKEOVER (R63 steps 5 and 6): the standby becomes active while the former active Herder has not stopped (R61); FWVER and
measurement slot 1 change, and the bank-select header prefers the new bank, which is then marked invalid no more (DESIGN CHOICE,
log 148). Whether an image of a higher security version raises the fused SVN here too R60 does not say: it does not, the next boot
does (DESIGN CHOICE, log 148). -/
def execStandbyTakeover (s : State) : Host.Outcome State Fault Refusal :=
  .next (if s.fw.boot ≠ .ready then s else match s.fw.upd, s.fw.inactive.img with
    | .atBoundary, some i =>
      let w := { s.fw.setBank (!s.fw.preferred) ⟨some i, false⟩ with
        upd := .none, running := some i, fwver := i.fwver, preferred := !s.fw.preferred,
        staged := false, slots := tput 0 s.fw.slots 1 (Config.shake256 i.bytes) }
      { s with fw := w, m := { s.m with herderB := !s.m.herderB, herderBox := { s.m.herderBox with acted := some (0, [i.fwver.setWidth 64]) } } }
    | _, _ => s)

/-- A measurement slot is extended (R64): slot := SHAKE256(slot ∥ digest). -/
def Firmware.extend (w : Firmware) (n : Nat) (digest : List Byte) : Firmware :=
  { w with slots := tput 0 w.slots n (Config.shake256 (toBytes 64 (tget 0 w.slots n).toNat ++ digest)) }

/-- EXTEND (R64): slots 0 to 2 are refused. -/
def execExtend (rq0 rq1 : Dword) (s : State) : Host.Outcome State Fault Refusal :=
  s.onRequest 0x10 [rq0, rq1] (fun s =>
    if !onlyBits rq0 0xF then ((errArg, []), s)
    else if rq0.toNat < 3 then ((errRefused, []), s)
    else
      match s.m.argBytes rq1.toNat 64 with
      | none => ((errMemory, []), s)
      | some (bs, m) => ((0, []), { s with m := m, fw := s.fw.extend rq0.toNat bs }))

/-! ### The access-table mailbox (R55) -/

def State.onAccess (s : State) (code : Nat) (args : List Dword) (f : Mach → Except Byte (List Dword × Mach)) :
    Host.Outcome State Fault Refusal :=
  .next (if s.firmwareUp && s.m.accessBox.asks code args then
    match f s.m with
    | .error e => s.onM (fun m => { m with accessBox := { m.accessBox with acted := some (e, []) } })
    | .ok (rs, m) => { s with m := { m with accessBox := { m.accessBox with acted := some (0, rs) } } }
  else s)

/-- The target a GRANT or READ names, if it exists (R51, R55). -/
def grantTarget (rq0 : Dword) : Option (Nat × Nat) :=
  let k := bits rq0.toNat 2 0
  let i := bits rq0.toNat 27 8
  if !onlyBits rq0 0xFFFFF07 then none
  else if (k = 0 ∧ i < 32) ∨ (k = 1 ∧ i < 4) ∨ (k = 2 ∧ paRegion (i * 2 ^ 30) = 0 ∧ paMapped (i * 2 ^ 30) = true) ∨ (k = 3 ∧ i < 512) then
    some (k, i)
  else none

/-- A write of an access table (R51, R55): never removes a grant of master 128. -/
def Mach.grantReq (m : Mach) (rq0 rq1 : Dword) : Except Byte (List Dword × Mach) :=
  match grantTarget rq0 with
  | none => .error errArg
  | some (k, i) =>
    let master := bits rq1.toNat 7 0
    let g : BitVec 2 := rq1.extractLsb' 8 2
    if !onlyBits rq1 0x3FF then .error errArg
    else if master = 128 ∧ g ≠ 3 then .error errRefused
    else .ok ([], m.setGrants k i master g)

/-- GRANT (R51, R55), for the mailbox or the management port. -/
def execGrant (rq0 rq1 : Dword) (s : State) : Host.Outcome State Fault Refusal :=
  if s.turn.via = .own then s.onAccess 0x01 [rq0, rq1] (fun m => m.grantReq rq0 rq1)
  else s.portReq (s.m.accessBusy [0x01]) (fun m => m.grantReq rq0 rq1)

/-- READ (R55): the 64-byte table, bit 2m read and bit 2m + 1 write of master m. -/
def execAccessTableRead (rq0 : Dword) (s : State) : Host.Outcome State Fault Refusal :=
  s.onAccess 0x02 [rq0] (fun m =>
    match grantTarget rq0 with
    | none => .error errArg
    | some (k, i) =>
      .ok ((List.range 8).map (fun d =>
        BitVec.ofNat 64 ((List.range 32).foldl (fun a j => a + (m.grants k i (32 * d + j)).toNat * 4 ^ j) 0)), m))

/-! ### Completion (R53, R54) -/

/-- UNKNOWN_REQUEST_CODE (R54, R55). -/
def execUnknownRequestCode (b : Mbox) (code : Byte) (s : State) : Host.Outcome State Fault Refusal :=
  match b with
  | .herder =>
    if code = 0 ∨ 0x11 ≤ code.toNat then s.onReqM code.toNat [] (fun _ => .error 1) else .next s
  | .access =>
    if code = 0 ∨ 0x03 ≤ code.toNat then s.onAccess code.toNat [] (fun _ => .error 1) else .next s

/-- The results of an acted-on request are written: RS, DSEQ, ERR, STATE. -/
def Mailbox.complete (b : Mailbox) (err : Byte) (rs : List Dword) : Mailbox :=
  { b with rs := (List.range 8).foldl (fun t k => tput 0 t k (rs.getD k 0)) [], dseq := b.seq, err := err,
           state := if err = 0 then 2 else 3, acted := none }

/-- MAILBOX_COMPLETION (R53): with the vector if IE is set. -/
def execMailboxCompletion (b : Mbox) (s : State) : Host.Outcome State Fault Refusal :=
  .next (if !s.firmwareUp then s else s.onM (fun m =>
    let x := match b with
      | .herder => m.herderBox
      | .access => m.accessBox
    match x.acted with
    | none => m
    | some (err, rs) =>
      let y := x.complete err rs
      let m := match b with
        | .herder => { m with herderBox := y }
        | .access => { m with accessBox := y }
      if y.ie then m.irq 0 y.vec else m))

end Sys2Proof.Machine
end

