-- ==== Sys2Proof/Machine/Host.lean ====
section
/-! DEFINITION. The outside world's steps: aperture M (R44), PCIe (R42, R43, R48), power and temperature (R19-R21), boot and
reset (R59-R62), the management port (R58, R59), maintenance (R16, R17, R36, R123) and attestation (R64, R65). -/
namespace Sys2Proof.Machine

/-! ### Aperture M (R44) -/

/-- Bytes of a function's aperture M. -/
def Mach.apertureSize (m : Mach) (f : FuncId) : Nat := if f = 0 then 2 ^ (30 + m.barLog.toNat) else 2 ^ 36

/-- Where an access of aperture M goes: none where it maps nothing. The U bit is ignored (R170). -/
def Mach.apertureM (m : Mach) (f : FuncId) (va n : Nat) (acc : Acc) : Option Xl :=
  if f = 0 then (if m.mapped va n then some (.ok (.here va) false) else none)
  else match (m.func f).bound with
    | some p => some (m.translate (.die m.herderDie) p va n acc false)
    | none => none

/-- The walk for an access of a virtual function's aperture M (R44, R172). -/
def Mach.walkM (m : Mach) (f : FuncId) (va : Nat) : Mach :=
  match (m.func f).bound with
  | some p => if f = 0 then m else m.walked (.die m.herderDie) p va
  | none => m

/-- The pieces of an access of at most 4 KiB that lie on one page each. -/
def pagePieces (va n : Nat) : List (Nat × Nat) :=
  let k := Nat.min n (pageLeft va)
  if k < n then [(va, k), (va + k, n - k)] else [(va, n)]

/-- The informational record of a translation fault of the host (R44, R174). -/
def Mach.hostFault (m : Mach) (f : FuncId) (va : Nat) (w : WalkFail) : Mach :=
  match (m.func f).bound with
  | some p => m.post p { va := va, src := 3, acc := w.acc, reason := w.reason, level := w.level, info := true, aux := w.aux } .none
  | none => m

/-- A read of device memory for the host (R52, R138). -/
def Mach.hostReadPa (m : Mach) (f : FuncId) (pa n : Nat) : Answer × Mach :=
  let (ok, m) := m.checkGrant pa f.toNat .read false
  if !ok then (.unsupported, m)
  else
    let (_, pois, m) := m.readPa pa n
    if pois then (.poisoned, m) else (.data (Memory.bytes m.mem pa n), m)

/-- What a read answers for one piece; `off` is its offset in the aperture. Pages of other packages answer with free
values (log 5). -/
def Mach.hostRead (m : Mach) (f : FuncId) (off va n : Nat) : Answer × Mach :=
  let away := fun (m : Mach) =>
    if Config.awayStatus m.fresh = 0 then
      (Answer.data ((List.range n).map (fun k => (Config.awayDword (m.fresh + k)).setWidth 8)), { m with fresh := m.fresh + n + 1 })
    else (.unsupported, m.bump)
  let m := m.walkM f va
  match m.apertureM f va n .read with
  | none => (.data (List.replicate n 0), m.violation 0 off 7 (off / 65536) f.toNat false false)
  | some (.bad w) => (.unsupported, m.hostFault f va w)
  | some (.ok (.here pa) _) => m.hostReadPa f pa n
  | some (.ok (.host ba) _) => (.data (Memory.bytes m.hostMem ba n), m)
  | some (.ok (.repl set o) _) =>
    match m.replicaPa set o with
    | some pa => m.hostReadPa f pa n
    | none => away m
  | some (.ok (.away pkg _) _) => if m.routed m.herderDie pkg && pkg ≠ m.pkg then away m else (.unsupported, m)

/-- One answer of two pieces: the first that fails decides. -/
def joinAnswers (a b : Answer) : Answer :=
  match a, b with
  | .data x, .data y => .data (x ++ y)
  | .data _, y => y
  | x, _ => x

/-- A read of aperture M (R44, R52). -/
def Mach.readM (m : Mach) (f : FuncId) (off n : Nat) : Answer × Mach :=
  let base := (m.func f).mbase.toNat
  (pagePieces (base + off) n).foldl (fun (acc : Answer × Mach) p =>
    let (a, m) := acc.2.hostRead f (p.1 - base) p.1 p.2
    (joinAnswers acc.1 a, m)) (.data [], m)

/-- Bytes of a function's aperture (R44). -/
def Mach.apBytes (m : Mach) (f : FuncId) (ap : Aperture) : Nat :=
  match ap with
  | .a => 2 ^ 25
  | .m => m.apertureSize f
  | .n => notifySize f

/-- The answer to a host read; Unsupported Request is noted in the function's AER status (R42; log 124). -/
def Mach.hostAnswer (m : Mach) (f : FuncId) (a : Answer) : Mach :=
  let m := if a = .unsupported then
      m.modFunc f (fun x => { x with cfg := { x.cfg with aerUncor := x.cfg.aerUncor ||| 0x100000 } })
    else m
  m.answer a

/-- HOST_MEMORY_READ (R44, R45, R49, R52): a read of at most 4 KiB through one of the apertures. -/
def execHostMemoryRead (f : FuncId) (place : HostAt) (bytes : BitVec 13) (s : State) :
    Host.Outcome State Fault Refusal :=
  let ap := place.ap
  let off := place.off
  .next (if !s.hostUp || decide (s.m.apBytes f ap < off.toNat + bytes.toNat) || decide (4096 < bytes.toNat) || bytes = 0 then s
  else
    let (a, m) := match ap with
      | .a => s.readA f off.toNat bytes.toNat
      | .m => s.m.readM f off.toNat bytes.toNat
      | .n => s.m.readN f off.toNat bytes.toNat
    { s with m := m.hostAnswer f a })

/-- A write of a piece (R41, R44, R52): a page of another package, or a replicated one, is written by messages of the
Herder's agent with partition 0 (R27), which the function is owed an answer for (R192; log 5). -/
def Mach.hostWrite (m : Mach) (f : FuncId) (off va : Nat) (bs : List Byte) : Mach :=
  let e := m.herderDie
  let send := fun (place : Nat → Place) (pkg : BitVec 12) (x : Nat → List Byte → Msg) =>
    if !m.routed e pkg then m
    else (linePieces va bs.length).foldl (fun (m : Mach) k =>
      (m.modFunc f (fun y => { y with owed := y.owed + 1 })).requestOrWait e (x k.1 ((bs.drop k.1).take k.2)) (.host f) (place k.1)) m
  let m := m.walkM f va
  match m.apertureM f va bs.length .write with
  | none => m.violation 0 off 7 (off / 65536) f.toNat true false
  | some (.bad w) => m.hostFault f va w
  | some (.ok (.here pa) _) =>
    let (ok, m) := m.checkGrant pa f.toNat .write false
    if ok then m.writePa pa bs else m
  | some (.ok (.host ba) _) => { m with hostMem := Memory.writeBytes m.hostMem ba bs }
  | some (.ok (.repl set o) _) =>
    let (pkg, d) := m.sequencer e set
    send (fun k => .repl set (o + k)) pkg (fun k part => updateWriteMsg pkg e d set (o + k) part 0 sagentHerder 0)
  | some (.ok (.away pkg pa) _) => send (fun k => .away pkg (pa + k)) pkg (fun k part => writeMsg pkg (pa + k) part 0 sagentHerder 0)

/-- A write of aperture M from an offset on, by its pages, in posted order (R192). -/
def Mach.writeM (m : Mach) (f : FuncId) (off : Nat) (bs : List Byte) : Mach :=
  let va := (m.func f).mbase.toNat + off
  (pagePieces va bs.length).foldl (fun (m : Mach) p =>
    let o := off + (p.1 - va)
    let part := (bs.drop (p.1 - va)).take p.2
    if m.postedWaits f then m.postLater f (.mem o part) else m.hostWrite f o p.1 part) m

/-- HOST_MEMORY_WRITE (R44, R192). -/
def execHostMemoryWrite (f : FuncId) (off : Dword) (data : List Byte) (s : State) : Host.Outcome State Fault Refusal :=
  .next (if !s.hostUp || decide (s.m.apertureSize f < off.toNat + data.length) || decide (4096 < data.length) || data.isEmpty then s
  else s.onM (fun m => m.writeM f off.toNat data))

/-- The posted writes of a function that wait are performed in order, as far as none before them is outstanding (R192). -/
def Mach.drainPosted (m : Mach) (f : FuncId) : Nat → Mach
  | 0 => m
  | n + 1 =>
    let x := m.func f
    if x.owed ≠ 0 then m
    else
      match x.posted with
      | [] => m
      | w :: r =>
        let m := m.modFunc f (fun y => { y with posted := r })
        let m := match w with
          | .notify q v => m.notify q v
          | .mem off bs => m.hostWrite f off ((m.func f).mbase.toNat + off) bs
        m.drainPosted f n

/-- Every function's posted writes whose turn has come. -/
def Mach.drainAllPosted (m : Mach) : Mach :=
  m.funcs.foldl (fun (m : Mach) x => m.drainPosted (BitVec.ofNat 6 x.1) x.2.posted.length) m

/-! ### PCIe (R42, R43, R48) -/

/-- A register of a function's configuration space (R42, R44, R56), laid out as the PCIe specification has it (PRESUMED, log 124):
64-bit memory BARs 0, 2 and 4, BAR 2 prefetchable; 64 MSI-X vectors, their table and pending bits in BAR 0; for the physical
function 63 virtual functions and a BAR 2 of 1 GiB to 1 TiB; 10-bit tags. -/
def Mach.cfgRead (m : Mach) (f : FuncId) (r : CfgReg) : Dword :=
  let x := (m.func f).cfg
  match r with
  | .bar n => if n = 0 ∨ n = 4 then tget 0 x.bars n.toNat ||| 0x4 else if n = 2 then tget 0 x.bars 2 ||| 0xC else 0
  | .msixControl => BitVec.ofNat 64 (x.msixControl.toNat + 63)
  | .msixTable => 0x11000
  | .msixPba => 0x11800
  | .rebarSizes => if f = 0 then 0x1FFC000 else 0
  | .rebarControl => if f = 0 then BitVec.ofNat 64 ((10 + m.barLog.toNat) * 2 ^ 8 + 2 ^ 5 + 2) else 0
  | .sriovTotal => if f = 0 then 63 else 0
  | .deviceCap2 => 0x30000
  | .aerUncor => x.aerUncor.setWidth 64
  | .aerUncorMask => x.aerUncorMask.setWidth 64
  | .aerCor => x.aerCor.setWidth 64

/-- A write to a configuration register: the base of a BAR, to a multiple of its size; MSI-X enable and function mask; the size of
the physical function's aperture M (R44); AER's status, where a 1 clears, and its mask. The others are read-only. -/
def Mach.cfgWrite (m : Mach) (f : FuncId) (r : CfgReg) (v : Dword) : Mach :=
  let set := fun (g : PciCfg → PciCfg) => m.modFunc f (fun x => { x with cfg := g x.cfg })
  let base := fun (n : BitVec 3) (size : Nat) =>
    set (fun x => { x with bars := tput 0 x.bars n.toNat (BitVec.ofNat 64 (v.toNat / size * size)) })
  match r with
  | .bar n =>
    if n = 0 then base n (2 ^ 25) else if n = 2 then base n (m.apertureSize f) else if n = 4 then base n (notifySize f) else m
  | .msixControl => set (fun x => { x with msixControl := BitVec.ofNat 16 (bits v.toNat 15 14 * 2 ^ 14) })
  | .rebarControl =>
    let n := bits v.toNat 13 8
    if f = 0 ∧ 10 ≤ n ∧ n ≤ 20 then { m with barLog := BitVec.ofNat 4 (n - 10) } else m
  | .aerUncor => set (fun x => { x with aerUncor := x.aerUncor &&& ~~~(v.setWidth 32) })
  | .aerUncorMask => set (fun x => { x with aerUncorMask := v.setWidth 32 })
  | .aerCor => set (fun x => { x with aerCor := x.aerCor &&& ~~~(v.setWidth 32) })
  | _ => m

/-- PCIE_CONFIG_REQUEST (R42, R43): Retry Status until boot is complete; then a register is read or written. -/
def execPcieConfigRequest (x : CfgRequest) (s : State) : Host.Outcome State Fault Refusal :=
  .next (if s.fw.pcieTrained.isNone then s
    else s.onM (fun m =>
      if !s.hostUp then m.answer .retryStatus
      else match x.wr with
        | none => m.answer (.data (toBytes 8 (m.cfgRead x.f x.r).toNat))
        | some v => (m.cfgWrite x.f x.r v).answer .configDone))

/-- PERST_DEASSERT (R42, R43): the controller trains by itself, at generation 5, 6 or 7 and x16, x8 or x4. -/
def execPerstDeassert (gen : BitVec 3) (lanes : BitVec 5) (s : State) : Host.Outcome State Fault Refusal :=
  .next (if !s.pwr.tripped && decide (5 ≤ gen.toNat) && (lanes = 16 || lanes = 8 || lanes = 4) then
    { s with fw := { s.fw with pcieTrained := some (gen, lanes) } }
  else s)

/-- FUNCTION_LEVEL_RESET of a virtual function (R48 step 1): its queues are destroyed. -/
def execFunctionLevelReset (f : FuncId) (s : State) : Host.Outcome State Fault Refusal :=
  .next (if !s.hostUp || f = 0 || (s.m.func f).flr.isSome then s
  else s.onM (fun m =>
    let m := m.queues.foldl (fun (m : Mach) x => if x.2.owner = f then m.destroyQueue (BitVec.ofNat 10 x.1) else m) m
    (m.modFunc f (fun x => { x with flr := some m.time })).sched))

/-- The launches of a partition. -/
def Mach.launchesOf (m : Mach) (p : PartId) : List Launch :=
  m.launches.filterMap (fun x => match x.2 with
    | some l => if l.part = p then some l else none
    | none => none)

/-- A tile and its thread lose their item. -/
def Mach.clearTile (m : Mach) (t : TileId) : Mach :=
  let m := match (m.tile t).bind with
    | some b => m.discard t b
    | none => m
  (m.modTile t (fun x => x.vacate x.kennel)).modThr t Thread.vacate

/-- The images of a partition's parked items are discarded. -/
def Mach.discardImages (m : Mach) (p : PartId) : Mach :=
  let held := ((List.range 256).map (BitVec.ofNat 8)).filterMap (fun t => (m.tile t).kennel.bind (fun im => if im.part = p then some im else none))
  let m := (held ++ (m.part p).spilled.filterMap (·.2)).foldl (fun (m : Mach) im => m.discard im.tile im.bind) m
  let m := ((List.range 256).map (BitVec.ofNat 8)).foldl (fun (m : Mach) t =>
    if ((m.tile t).kennel.map (fun im => decide (im.part = p))).getD false then m.modTile t Tile.emptySlot else m) m
  m.modPart p (fun x => { x with spilled := [] })

/-- A partition's items are pre-empted and their images discarded; its launches get CANCELLED with the items that
completed (R48 step 2). -/
def Mach.discardItems (m : Mach) (p : PartId) : Mach :=
  let ls := m.launchesOf p
  let mine := fun (lid : Word) => ls.any (fun l => l.lid = lid)
  let m := ((List.range 256).map (BitVec.ofNat 8)).foldl (fun (m : Mach) t =>
    if ((m.tile t).bind.map (fun b => decide (b.part = p))).getD false then m.clearTile t else m) m
  let m := m.discardImages p
  let drop := fun (o : Option Ticket) => o.bind (fun t => if mine t.lid then none else some t)
  let m := { m with
    slots := tmap none (fun _ (o : Option Slot) => o.bind (fun sl => if mine sl.lid then none else some sl)) m.slots,
    bars := m.bars.filter (fun x => !(x.2.owned && mine x.2.owner)),
    dies := tmap Die.reset (fun _ (y : Die) => { y with tickets := tmap none (fun _ o => drop o) y.tickets }) m.dies }
  (ls.foldl (fun (m : Mach) l =>
    if l.complete then m.forget l.lid
    else
      let m := m.setLaunch l.lid (some { l with total := l.retired, await := [] })
      (m.modWork l.work (fun w => { w with dropped := true })).settleLaunch l.lid) m).sched

/-- A function-level reset completes (R48 step 4): MSI-X, aperture and configuration registers return to their reset values; the
binding, the queues assigned and the grants stay. -/
def Mach.flrEnd (m : Mach) (f : FuncId) : Mach :=
  m.modFunc f (fun x =>
    { x with flr := none, mbase := 0, msixTable := [], msixPending := 0, cfg := PciCfg.reset, posted := [] })

/-- Packets of a function have dispatched and not yet ended: their completion signals and vectors are still to come. -/
def Mach.packetsOut (m : Mach) (f : FuncId) : Bool :=
  m.works.any (fun w => (w.2.map (fun x => decide (x.func = f))).getD false)

/-- FLR_TIMEOUT (R48 steps 2 to 4): a reset completes once no item of the partition runs and the function's packets have ended
with their signals; 90 ms after it began the items that still run are pre-empted and discarded. -/
def execFlrTimeout (f : FuncId) (s : State) : Host.Outcome State Fault Refusal :=
  .next (s.onM (fun m =>
    match (m.func f).flr with
    | none => m
    | some t =>
      match (m.func f).bound with
      | some p =>
        if (m.launchesOf p).all (fun l => l.complete) then (if m.packetsOut f then m else m.flrEnd f)
        else if (m.time - t).toNat < 144000000 then m
        else
          let m := m.discardItems p
          if m.packetsOut f then m else m.flrEnd f
      | none => if m.packetsOut f then m else m.flrEnd f))

/-! ### Power and temperature (R19-R21) -/

/-- What main power held is lost: memory outside the package, what the outside world was told, and the model's counter of
free values stay. Withheld ranges take effect (R123). -/
def Mach.powerLoss (m : Mach) (held : NSet) : Mach :=
  { Mach.reset with hostMem := m.hostMem, irqs := m.irqs, answers := m.answers, alerts := m.alerts, fresh := m.fresh,
                    withheld := held }

/-- The standby domain: flash, fuses and what they hold stay (R11, R21, R58). -/
def Firmware.cold (w : Firmware) : Firmware :=
  { Firmware.reset with bank0 := w.bank0, bank1 := w.bank1, preferred := w.preferred, svn := w.svn, dropsFlash := w.dropsFlash,
                        dropSeq := w.dropSeq, retiredFlash := w.retiredFlash, withheldFlash := w.withheldFlash, alerts := w.alerts }

/-- A full power cycle (R59, R60). -/
def State.powerCycle (s : State) : State :=
  { s with m := s.m.powerLoss s.fw.withheldFlash, pwr := Power.reset, fw := s.fw.cold }

/-- THERMAL_TRIP (R21): at 115 °C on any die main power is removed. -/
def execThermalTrip (die : DieId) (temp : Byte) (s : State) : Host.Outcome State Fault Refusal :=
  .next (if s.pwr.tripped || decide (temp.toNat < 115) then s
  else
    { s with m := s.m.powerLoss s.m.withheld, fw := s.fw.cold,
             pwr := { Power.reset with tripped := true, cause := some (die, temp), tmax := temp } })

/-- REGULATOR_OVERCURRENT (R19): step 3. -/
def execRegulatorOvercurrent (s : State) : Host.Outcome State Fault Refusal :=
  .next (if s.pwr.tripped then s else { s with pwr := { s.pwr with tstep := 3, held := 0 } })

/-- JUNCTION_TEMP_ALERT (R19): 95 °C asks for step 2 at least. -/
def execJunctionTempAlert (temp : Byte) (s : State) : Host.Outcome State Fault Refusal :=
  .next (if s.pwr.tripped || decide (temp.toNat < 95) then s
  else { s with pwr := { s.pwr with tmax := temp, tstep := if s.pwr.tstep.toNat < 2 then 2 else s.pwr.tstep,
                                    held := if s.pwr.tstep.toNat < 2 then 0 else s.pwr.held } })

/-- The step after a window (R19): `h` windows it has now been held for, power against the cap, power projected at the
step below, temperature. R19 does not say what happens where power is above the cap and projected below it at the step below: the
raise, or the hold, goes before the drop; nor which cap a window with a new one is held against: the old one (DESIGN CHOICE,
log 122). -/
def stepAfter (step h pavg proj cap temp : Nat) : Nat × Nat :=
  let (s, h) :=
    if cap < pavg then
      (if step = 0 then (1, 0) else if step < 3 ∧ 2 ≤ h then (step + 1, 0) else (step, h))
    else if step ≠ 0 ∧ proj < cap ∧ temp < 90 then (step - 1, 0)
    else (step, h)
  if 95 ≤ temp ∧ s < 2 then (2, 0) else (s, h)

/-- THROTTLE_WINDOW_END (R19, R20): a 1 ms window ends; a new cap applies from the next one. -/
def execThrottleWindowEnd (pavg proj : BitVec 16) (temp : Byte) (s : State) : Host.Outcome State Fault Refusal :=
  .next (if s.pwr.tripped then s
  else
    let x := stepAfter s.pwr.tstep.toNat (s.pwr.held + 1) pavg.toNat proj.toNat s.pwr.pcap.toNat temp.toNat
    { s with pwr := { s.pwr with pavg := pavg, tmax := temp, tstep := BitVec.ofNat 2 x.1, held := x.2, pcap := s.pwr.capSet } })

/-! ### Boot (R60-R62) -/

/-- The bank the ROM accepts, in its order: the preferred one first unless it is marked invalid. -/
def Firmware.accepted (w : Firmware) : Option FwImage :=
  let first := if w.preferred then w.bank1 else w.bank0
  let second := if w.preferred then w.bank0 else w.bank1
  let order := if first.invalid then [second, first] else [first, second]
  order.findSome? (fun b => match b.img with
    | some i => if w.verifies i then some i else none
    | none => none)

/-- The units of the retired set (R123). -/
def keyUnit (k : Nat) : UnitId :=
  ⟨kindOf (k / 1024), BitVec.ofNat 2 (k / 256), BitVec.ofNat 8 k⟩

/-- A unit is out of service for good (R115, R123). -/
def Mach.outOfService (m : Mach) (u : UnitId) : Mach :=
  let m := m.modUnit u (fun r => { r with retired := true })
  match u.kind with
  | .tile => m.modTile u.unit (fun x => { x with service := .retired })
  | .module => { m with modules := tmod Link.reset m.modules u.unit.toNat (fun l => { l with st := .retired }) }
  | .port => { m with ports := tmod Link.reset m.ports u.unit.toNat (fun l => { l with st := .retired }) }
  | .channel => m

/-- POWER_ON_BOOT (R60 steps 1 to 7): the ROM accepts an image, or the device enters RECOVERY. -/
def execPowerOnBoot (s : State) : Host.Outcome State Fault Refusal :=
  .next (if s.fw.boot ≠ .rom || s.pwr.tripped then s
  else match s.fw.accepted with
    | none => { s with fw := { s.fw with boot := .recovery } }
    | some i =>
      let w := { s.fw with boot := .booted, running := some i, fwver := i.fwver }
      let w := (w.extend 0 (toBytes 64 Config.romDigest.toNat)).extend 1 (toBytes 64 (Config.shake256 i.bytes).toNat)
      { s with fw := w, m := s.fw.retiredFlash.foldl (fun (m : Mach) k => m.outOfService (keyUnit k)) { s.m with herderB := false } })

/-- Modules and ports that are DOWN and under no lease train (R23, R33, R35). -/
def Mach.trainLinks (m : Mach) : Mach :=
  let m := (List.range 12).foldl (fun (m : Mach) k =>
    if m.onLease (moduleUnit k) then m
    else { m with modules := tmod Link.reset m.modules k (fun l => if l.st = .down then { Link.reset with st := .active } else l) }) m
  (List.range 64).foldl (fun (m : Mach) k =>
    match Config.portPeer (BitVec.ofNat 6 k) with
    | some (pkg, die, port) =>
      if k % 16 < 12 && !m.onLease ⟨.port, BitVec.ofNat 2 (k / 16), BitVec.ofNat 8 k⟩ then
        { m with ports := tmod Link.reset m.ports k (fun l =>
            if l.st = .down then { Link.reset with st := .active, peerPkg := pkg, peerDie := die, peerPort := port } else l) }
      else m
    | none => m) m

/-- Trap firmware is loaded: it sets KTVEC and KSCRATCH of every thread (R60, R307). -/
def Mach.loadTraps (m : Mach) : Mach :=
  ((List.range 256).map (BitVec.ofNat 8)).foldl (fun (m : Mach) t =>
    m.modThr t (fun th => { th with ktvec := Config.ktvec t, kscratch := Config.kscratch t })) m

/-- BOOT_COMPLETE (R36, R51, R60): Herder A has trained the links, loaded trap firmware and written the tables; READY is
set, and the security version rises. -/
def execBootComplete (s : State) : Host.Outcome State Fault Refusal :=
  .next (match s.fw.boot, s.fw.running with
    | .booted, some i =>
      let w := s.fw.extend 2 (toBytes 64 Config.trapDigest.toNat)
      { s with
        fw := { w with boot := .ready, svn := if w.svn.toNat < i.svn.toNat then i.svn else w.svn },
        m := { s.m.trainLinks.loadTraps with pfGranted := true, pkg := Config.pkgId } }
    | _, _ => s)

/-- HERDER_STOP (R61): an alert; packets are accepted no more, and a warm reset is required. -/
def execHerderStop (s : State) : Host.Outcome State Fault Refusal :=
  .next (if s.fw.boot = .ready then { s with fw := { s.fw with boot := .stopped, alerts := s.fw.alerts ++ [0x61] } } else s)

/-! ### The management port (R58, R59) -/

/-- SENSOR_READ (R19, R20, R59): power reads 0 on standby power. -/
def execSensorRead (s : State) : Host.Outcome State Fault Refusal :=
  s.mgmt true (fun s => s.onM (fun m =>
    m.answer (.sensors (if s.pwr.tripped then 0 else s.pwr.pavg) s.pwr.capSet s.pwr.tmax s.pwr.tstep s.pwr.cause)))

/-- MGMT_POWER_CAP_SET (R20). -/
def execMgmtPowerCapSet (v : BitVec 16) (s : State) : Host.Outcome State Fault Refusal :=
  s.mgmt false (fun s => { s.onM (fun m => m.answer .done) with pwr := { s.pwr with capSet := capOf v.toNat } })

/-- What a Herder restart loses: partitions with all their work (R59). -/
def Mach.losePartitions (m : Mach) : Mach :=
  let m := ((List.range 256).map (BitVec.ofNat 8)).foldl (fun (m : Mach) t => m.clearTile t) m
  let tiles := tmap Tile.reset (fun _ (x : Tile) =>
    { Tile.reset with service := x.service, parity := x.parity }) m.tiles
  let dies := tmap Die.reset (fun _ (y : Die) =>
    { y with tickets := [], clog := [], whole := [], copies := [], fwds := [], dec := [], des := [], routing := [],
             tags := y.tags.map (fun g => { g with agent := .none }) }) m.dies
  { m with threads := [], cores := [], tiles := tiles, slots := [], bars := [], clusters := [], queues := [], rr := [],
           works := [], insts := [], iterLeft := [], launches := [], groups := [], classes := [], access := [], pfGranted := false, parts := [], tlbs := [],
           fqs := [], funcs := tmap Func.reset (fun _ (x : Func) => { Func.reset with cfg := x.cfg }) m.funcs, herderBox := Mailbox.reset, accessBox := Mailbox.reset, drsel := 0, arb := .running, arbSince := m.time,
           herderB := false, dies := dies, exports := [], evalNow := [], evalDue := [], noteFirst := [] }

/-- WARM_RESET (R59): the Herder restarts from its image; not available on standby power. Whether an image staged before stays
usable by UPDATE R63 does not say: it has to be staged again, after a cold reset and a trip too (DESIGN CHOICE, log 148). -/
def execWarmReset (s : State) : Host.Outcome State Fault Refusal :=
  s.mgmt false (fun s =>
    if s.fw.running.isNone then s.onM (fun m => m.answer .notReady)
    else
      { s with m := s.m.losePartitions.answer .done,
               fw := { s.fw with boot := .booted, upd := .none, staged := false } })

/-- COLD_RESET (R21, R59). -/
def execColdReset (s : State) : Host.Outcome State Fault Refusal :=
  .next (if !s.heard then s
    else if s.fw.boot = .recovery then s.onM (fun m => m.answer .notReady) else (s.onM (fun m => m.answer .done)).powerCycle)

/-- Both banks fail verification while main power is off: the recovery function is served then too (R59, R62; log 129). -/
def State.recovering (s : State) : Bool := s.fw.boot = .recovery || (s.pwr.tripped && s.fw.accepted.isNone)

/-- RECOVERY_IMAGE (R59, R62): the image goes into the bank named, or bank 0, and is verified there; a verified one restarts the
device, once main power may come back (R21). An image that fits no bank (R11) is refused. -/
def execRecoveryImage (bank : Option Bool) (img : FwImage) (s : State) : Host.Outcome State Fault Refusal :=
  .next (if !s.heard then s
  else if !s.recovering then s.onM (fun m => m.answer .notReady)
  else if !imageFits img then s.onM (fun m => m.answer .error)
  else
    let one := bank.getD false
    if s.fw.verifies img then
      let s := { s.onM (fun m => m.answer .done) with fw := { s.fw.setBank one ⟨some img, false⟩ with preferred := one } }
      if s.pwr.tripped then s else s.powerCycle
    else { s.onM (fun m => m.answer .error) with fw := s.fw.setBank one ⟨some img, true⟩ })

/-- FIRMWARE_STAGING (R59, R63 step 1). -/
def execFirmwareStaging (img : FwImage) (s : State) : Host.Outcome State Fault Refusal :=
  if s.m.mailBusy [0x0E, 0x0F] || s.fw.upd ≠ .none then .next s
  else s.mgmt true (fun s =>
    let (ok, w) := s.fw.stage img
    { s.onM (fun m => m.answer (if ok then .done else .error)) with fw := w })

/-- LEASE_TABLE_READOUT (R51, R52, R59): read as master 129. -/
def execLeaseTableReadout (die : DieId) (s : State) : Host.Outcome State Fault Refusal :=
  s.mgmt false (fun s => s.onM (fun m =>
    if !grantOk (m.grants 3 0xC0 129) .read then (m.violation 0 0xC00000 3 0xC0 129 false false).answer .denied
    else
      m.answer (.data ((List.range 256).flatMap (fun n =>
        let r := tget LeaseRec.free (m.die die).leases n
        [r.d0, r.tstart, r.tend, r.synd].flatMap (fun d => toBytes 8 d.toNat))))))

/-- Is a known-bad entry's value one that may be written (R16). -/
def knownBadOk (v : BitVec 16) : Bool := bits v.toNat 14 8 = 0 && decide (bits v.toNat 6 0 < 72)

def rankKey (r : RankId) : Nat := (r.die.toNat * 512 + r.ch.toNat * 4 + r.rank.toNat) * 16

/-- KNOWN_BAD_TABLE_WRITE (R16). -/
def execKnownBadTableWrite (rank : RankId) (idx : BitVec 4) (v : BitVec 16) (s : State) : Host.Outcome State Fault Refusal :=
  s.mgmtFw false (fun s => s.onM (fun m =>
    if !knownBadOk v || decide (96 ≤ rank.ch.toNat) then m.answer .error
    else { m with knownBad := tput 0 m.knownBad (rankKey rank + idx.toNat) v }.answer .done))

/-- ROUTING_TABLE_REQUEST (R36). -/
def execRoutingTableRequest (pkg : BitVec 12) (v : Word) (s : State) : Host.Outcome State Fault Refusal :=
  s.mgmtFw (s.m.mailBusy [0x0B]) (fun s => s.onM (fun m => if routeOk v.toNat then (m.setRoute pkg v).answer .done else m.answer .error))

/-- The valid entries of a page table in memory (R167): those with a listed byte, which an unlisted one reads 0. -/
def Mach.tableEntries (m : Mach) (table : Nat) : List Nat :=
  ((m.mem.filter (fun c => decide (table ≤ c.1 ∧ c.1 < table + 8192))).foldl (fun s c => nins ((c.1 - table) / 8) s) []).filterMap
    (fun k =>
      let e := Memory.read m.mem (table + 8 * k) 8
      if tst e 0 then some e else none)

/-- A leaf maps memory of a die (R168): a frame there, or a replica. -/
def Mach.leafOn (m : Mach) (die : DieId) (l : Leaf) : Bool :=
  if l.host then false
  else if l.repl then m.isMember l.set die
  else if l.rem && l.pkg ≠ m.pkg then false
  else decide ((paDie l.frame).toNat ≤ die.toNat ∧ die.toNat ≤ (paDie (l.frame + pageSize l.level - 1)).toNat)

/-- A page table holds something on a die: a mapped page, or a table with entries of its own. -/
def Mach.tableOn (m : Mach) (die : DieId) (table : Nat) : Nat → Bool
  | 0 => (m.tableEntries table).any (fun e => paDie table = die || m.leafOn die (leafOf e 0))
  | level + 1 => (m.tableEntries table).any (fun e =>
      paDie table = die || (if tst e 1 then m.leafOn die (leafOf e (level + 1))
        else m.tableOn die (bits e 51 13 * 2 ^ 13) level))

/-- A stack of a die holds live partition data (R17): a partition's page table maps memory of the die, or lies there. Every page
spreads over the channels, and so over the stacks, of its die (log 29). -/
def Mach.liveOn (m : Mach) (die : DieId) : Bool :=
  (List.range 16).any (fun k => m.tableOn die (m.part (BitVec.ofNat 4 k)).ptroot.toNat 3)

/-- MAINTENANCE_WINDOW (R17, R123): a verified repair clears the rank's entries; a retired channel whose repair cannot be
verified is withheld from the next cold reset on. R17 does not say which entries a repair covers: all 16 of the rank (DESIGN CHOICE,
log 121). -/
def execMaintenanceWindow (rank : RankId) (verified : Bool) (s : State) : Host.Outcome State Fault Refusal :=
  s.mgmtFw false (fun s =>
    if s.m.liveOn rank.die || decide (96 ≤ rank.ch.toNat) then s.onM (fun m => m.answer .error)
    else if verified then
      s.onM (fun m => { m with knownBad := (List.range 16).foldl (fun t k => tput 0 t (rankKey rank + k) 0) m.knownBad }.answer .done)
    else
      let lost := (s.m.unit ⟨.channel, rank.die, BitVec.ofNat 8 rank.ch.toNat⟩).retired
      let w := if lost then { s.fw with withheldFlash := nins (rank.die.toNat * 96 + rank.ch.toNat) s.fw.withheldFlash } else s.fw
      { s.onM (fun m => m.answer .error) with fw := w })

/-! ### Drop records and the return of a unit (R123, R128) -/

/-- The header and body of a drop record, bytes 0-2,815. -/
def dropBody (m : Mach) (w : Firmware) (u : UnitId) (cause st seq pset entry : Nat) (synd : Dword) (fails : List Byte) : List Byte :=
  let r := m.unit u
  let pad := fun (n : Nat) (l : List Byte) => (l ++ List.replicate n 0).take n
  let dw := fun (n : Nat) => toBytes 8 n
  dw (0x44524F50 + 2 ^ 32 + kindCode u.kind * 2 ^ 40 + cause * 2 ^ 44 + st * 2 ^ 48) ++ dw seq ++
    dw Config.fusedSerial.toNat ++ dw m.time.toNat ++
    dw (u.unit.toNat + (match u.kind with | .module => unitDie u | _ => u.die).toNat * 2 ^ 8 + pset * 2 ^ 16 + entry * 2 ^ 24) ++
    dw synd.toNat ++ dw (w.fwver.toNat * 2 ^ 32) ++ dw 0 ++ pad 512 fails ++ pad 256 r.hist ++
    pad 512 (r.events.flatMap (fun e => toBytes 8 e.time.toNat ++ [e.event, e.weight, e.after] ++ List.replicate 5 0)) ++
    List.replicate 1472 0

/-- A drop record joins the Herder work area, to be committed (R128, R129). -/
def State.dropRecord (s : State) (u : UnitId) (cause st pset entry : Nat) (synd : Dword) (fails : List Byte) : State :=
  let body := dropBody s.m s.fw u cause st s.fw.dropSeq pset entry synd fails
  let sig := (Config.falconSign (Config.shake256 body) ++ List.replicate 1280 0).take 1280
  { s with fw := { s.fw with dropsHeld := s.fw.dropsHeld ++ [⟨s.fw.dropSeq, body ++ sig⟩], dropSeq := s.fw.dropSeq + 1 } }

/-- A parked image when the cluster's capacity changes (R118, R391): KEVT.CAP is set in an image of the resident partition; another's
thread has the event at its restore. -/
def Image.capacity (im : Image) (resident : Option PartId) : Image :=
  if resident = some im.part then { im with thr := { im.thr with kevt := im.thr.kevt ||| 1 } } else { im with capEvt := true }

/-- KEVT.CAP of a spilled image is set in memory (R391): KEVT is dword 37 of the thread image. -/
def Mach.capInMemory (m : Mach) (p : PartId) (n : Nat) : Mach :=
  let va := m.imageAddr p n + 0x153000 + 8 * 37
  let m := m.portVa p va 1
  m.writeVa p va ((m.readVa p va 1).map (· ||| 1))

/-- The number of tiles in service has changed (R118): KCAP, and KEVT.CAP of the resident partition's threads and of the
images parked there. -/
def Mach.capacity (m : Mach) (c : ClusterId) : Mach :=
  let n := BitVec.ofNat 4 (m.avail c)
  let r := (m.clu c).resident
  let here := fun (o : Option Image) => (o.map (fun im => decide (im.tile.cluster = c))).getD false
  let m := (tilesOf c).foldl (fun (m : Mach) t =>
    let m := m.modThr t (fun th => { th with kcap := n, kevt := if th.sup.isSome then th.kevt ||| 1 else th.kevt })
    m.modTile t (fun x => { x with kennel := x.kennel.map (fun im => im.capacity r) }))
    { m with parts := tmap Partition.reset (fun _ (x : Partition) =>
        { x with spilled := tmap none (fun _ (o : Option Image) =>
            if here o then o.map (fun im => im.capacity r) else o) x.spilled }) m.parts }
  match r with
  | none => m
  | some p => (m.part p).spilled.foldl (fun (m : Mach) x => if here x.2 then m.capInMemory p x.1 else m) m

/-- UNIT_RETURN_REQUEST (R123): a retired unit returns to service, with a drop record of its own, whose commit takes it out of the
retired set in flash. A return has no lease: its record (STATE 7) holds CAUSE 0, PSET 0xFF, entry 0 and SYND 0 (DESIGN CHOICE,
log 151). -/
def execUnitReturnRequest (u : UnitId) (s : State) : Host.Outcome State Fault Refusal :=
  s.mgmtFw false (fun s =>
    if !unitExists u || !(s.m.unit u).retired then s.onM (fun m => m.answer .error)
    else
      let s := s.dropRecord u 0 7 0xFF 0 0 []
      let m := (s.m.modUnit u (fun r => { r with retired := false })).answer .done
      let m := match u.kind with
        | .tile => ((m.modTile u.unit (fun x => { x with service := .inService, idleAt := m.time })).capacity (Sys2Proof.TileId.cluster u.unit)).sched
        | .module =>
          { m with modules := tmod Link.reset m.modules u.unit.toNat (fun l =>
              if l.st = .retired then { Link.reset with st := .retrain, retrainAt := m.time } else l) }
        | .port => { m with ports := tmod Link.reset m.ports u.unit.toNat (fun l => if l.st = .retired then { l with st := .down } else l) }
        | .channel => m
      { s with m := m })

/-! ### Attestation (R64, R65) -/

/-- What GET_IDENTITY answers from (R64, R65): the key, 1,793 bytes, then the certificate that binds it to SERIAL. -/
def identity : List Byte :=
  toBytes 1793 Config.identityKey.toNat ++ Config.certificate Config.identityKey Config.fusedSerial

/-- A signature by the identity key, padded to its 1,280 bytes (R65). -/
def signature (body : List Byte) : List Byte := (Config.falconSign (Config.shake256 body) ++ List.replicate 1280 0).take 1280

/-- GET_IDENTITY (R64, R65): a segment of at most 1,024 bytes. -/
def execGetIdentity (seg : BitVec 16) (s : State) : Host.Outcome State Fault Refusal :=
  s.mgmt true (fun s => s.onM (fun m => m.answer (.data ((identity.drop (1024 * seg.toNat)).take 1024))))

/-- GET_MEASUREMENTS (R65): the slots of the mask, FWVER, SVN, the nonce and the signature over them. -/
def execGetMeasurements (nonce : BitVec 256) (mask : BitVec 16) (s : State) : Host.Outcome State Fault Refusal :=
  s.mgmt false (fun s => s.onM (fun m =>
    let slots := ((List.range 16).filter (fun k => mask.getLsbD k)).flatMap (fun k => toBytes 64 (tget 0 s.fw.slots k).toNat)
    let body := slots ++ toBytes 4 s.fw.fwver.toNat ++ toBytes 4 s.fw.svn.toNat ++ toBytes 32 nonce.toNat
    m.answer (.data (body ++ signature body))))

/-- GET_DROP_RECORD (R65, R129). -/
def execGetDropRecord (idx : BitVec 10) (s : State) : Host.Outcome State Fault Refusal :=
  s.mgmt true (fun s => s.onM (fun m =>
    let r := tget ⟨0, []⟩ s.fw.dropsFlash idx.toNat
    m.answer (if r.bytes.isEmpty then .error else .data r.bytes)))

/-- The length of an attestation request's body, in bytes (R65; log 30). -/
def attestLength (code : Byte) : Option Nat :=
  if code = 1 then some 2 else if code = 2 then some 34 else if code = 3 then some 2 else none

/-- UNKNOWN_ATTESTATION_CODE (R65): an unknown code, or a request of the wrong length. -/
def execUnknownAttestationCode (code : Byte) (len : BitVec 16) (s : State) : Host.Outcome State Fault Refusal :=
  if attestLength code = some len.toNat then .next s else s.mgmt true (fun s => s.onM (fun m => m.answer .error))

end Sys2Proof.Machine
end

