-- ==== Sys2Proof/Machine/Links.lean ====
section
/-! DEFINITION. Links (R23-R39): the flits of a module or port, link-level retry, credits, states, the paths of messages, and
forwarding. What a message asks for at its destination is in `Messages.lean`. -/
namespace Sys2Proof.Machine

/-! ### The two link types (R25, R28, R31) -/

def pairDies : List (Nat × Nat) := [(0, 1), (0, 2), (0, 3), (1, 2), (1, 3), (2, 3)]

/-- The pair index of two dies (R23). -/
def pairOf (a b : DieId) : Nat :=
  (pairDies.findIdx? (fun p => p = (Nat.min a.toNat b.toNat, Nat.max a.toNat b.toNat))).getD 0

end Sys2Proof.Machine

namespace Sys2Proof
open Sys2Proof.Machine

def LinkEnd.valid (l : LinkEnd) : Bool :=
  if l.fabric then l.idx.toNat % 16 < 12 && !l.up else l.idx.toNat < 12

/-- The die an end is on. -/
def LinkEnd.die (l : LinkEnd) : DieId :=
  if l.fabric then BitVec.ofNat 2 (l.idx.toNat / 16)
  else
    let p := pairDies.getD (l.idx.toNat / 2) (0, 1)
    BitVec.ofNat 2 (if l.up then p.2 else p.1)

def LinkEnd.unit (l : LinkEnd) : UnitId :=
  if l.fabric then ⟨.port, l.die, l.idx.setWidth 8⟩ else moduleUnit l.idx.toNat

def LinkEnd.window (l : LinkEnd) : Nat := if l.fabric then 256 else 64
def LinkEnd.timer (l : LinkEnd) : Nat := if l.fabric then 4096 else 256
def LinkEnd.replayLimit (l : LinkEnd) : Nat := if l.fabric then 8 else 4
def LinkEnd.flitSlots (l : LinkEnd) : Nat := if l.fabric then 31 else 15
def LinkEnd.bufSlots (l : LinkEnd) : Nat := if l.fabric then 2048 else 512

def LinkEnd.opposite (l : LinkEnd) : LinkEnd := { l with up := !l.up }

end Sys2Proof

namespace Sys2Proof.Machine

def Mach.linkAt (m : Mach) (l : LinkEnd) : Link := tget Link.reset (if l.fabric then m.ports else m.modules) l.idx.toNat
def Mach.modLink (m : Mach) (l : LinkEnd) (f : Link → Link) : Mach :=
  if l.fabric then { m with ports := tmod Link.reset m.ports l.idx.toNat f }
  else { m with modules := tmod Link.reset m.modules l.idx.toNat f }

def Link.side (k : Link) (up : Bool) : LEnd := if up then k.hi else k.lo
def Link.setSide (k : Link) (up : Bool) (x : LEnd) : Link := if up then { k with hi := x } else { k with lo := x }

def Mach.side (m : Mach) (l : LinkEnd) : LEnd := (m.linkAt l).side l.up
def Mach.modSide (m : Mach) (l : LinkEnd) (f : LEnd → LEnd) : Mach := m.modLink l (fun k => k.setSide l.up (f (k.side l.up)))

/-- The link carries flits: a draining one no new messages (R33, R119). -/
def Link.live (k : Link) : Bool := k.st = .active || k.st = .draining

/-- The link went DOWN, and a report is to come (R34, R39), even if a lease has taken the link since. -/
def Link.parted (k : Link) (x : LEnd) : Bool := k.st = .down || (k.st = .leased && x.sentReport)

/-! ### Reports, retraining and DOWN (R30, R33-R35, R39) -/

/-- The link-state report of an end (R34, R39). -/
def reportMsg (m : Mach) (l : LinkEnd) (k : Link) (e : BitVec 10) : Msg :=
  { blankMsg with
    op := 0x3B, sagent := sagentDie, sdie := l.die, spkg := m.pkg,
    ddie := if l.fabric then k.peerDie else l.opposite.die, dpkg := if l.fabric then k.peerPkg else m.pkg,
    data := [BitVec.ofNat 128 (e.toNat * 2 ^ 16 + (if l.fabric then 64 + l.idx.toNat else l.idx.toNat))] }

/-- The link enters DOWN: each end of this package reports its E, flits under way are lost, the unit is charged. -/
def Mach.enterDown (m : Mach) (l : LinkEnd) : Mach :=
  let k := m.linkAt l
  if k.st = .down ∨ k.st = .retired ∨ k.st = .leased then m
  else
    let off := fun (x : LEnd) => { x with wire := [], sentReport := true, reported := false, nakPending := false, reports := [], resuming := false }
    let m := m.modLink l (fun k => { k with st := .down, lo := off k.lo, hi := off k.hi })
    let send := fun (m : Mach) (l : LinkEnd) => m.emit l.die (reportMsg m l k (k.side l.up).e)
    let m := if l.fabric then send m l else send (send m { l with up := false }) { l with up := true }
    m.charge l.unit 13 64

/-- The link leaves service for retraining (R30, R33): flits under way are lost. -/
def Mach.enterRetrain (m : Mach) (l : LinkEnd) : Mach :=
  m.modLink l (fun k => { k with st := .retrain, retrainAt := m.time, lo := { k.lo with wire := [] }, hi := { k.hi with wire := [] } })

/-- A replay, or retraining at the replay limit (R30, R121). The first one after training belongs to it: it comes with the
peer's ACK, in `takeAk`. -/
def Mach.replay (m : Mach) (l : LinkEnd) : Mach :=
  let x := m.side l
  if x.held.isEmpty then m
  else if l.replayLimit ≤ x.replays then m.enterRetrain l
  else
    ((m.modSide l (fun x => { x with replays := x.replays + 1, resend := x.held, since := m.time, resuming := false })).charge l.unit 9 1).dieEvent
      l.die 0x24 1

/-- Held flits up to and including ASEQ are freed; an ASEQ that names none, nor the one before the oldest, is ignored. -/
def LEnd.free (x : LEnd) (aseq : BitVec 10) (now : Dword) : Option LEnd :=
  match x.held with
  | [] => none
  | f :: _ =>
    let n := (aseq - f.seq + 1).toNat
    if x.held.length < n then none
    else
      let held := x.held.drop n
      some { x with held := held, resend := x.resend.filter (fun g => held.any (fun h => h.seq = g.seq)),
                    replays := if n = 0 then x.replays else 0, since := if n = 0 then x.since else now }

/-- An ACK or NAK taken by the transmitter (R30); after training, the replay from the peer's ASEQ + 1 on begins (R33, R39,
R411). -/
def Mach.takeAk (m : Mach) (l : LinkEnd) (ak : BitVec 2) (aseq : BitVec 10) : Mach :=
  if ak = 0 then m
  else match (m.side l).free aseq m.time with
    | none => m
    | some x =>
      if x.resuming then m.modSide l (fun _ => { x with resuming := false, resend := x.held, since := m.time })
      else
        let m := m.modSide l (fun _ => x)
        if ak = 2 then m.replay l else m

/-! ### Receiving (R25, R26, R29, R31) -/

def flitUsed (f : Flit) : Nat := (f.msgs.map msgSlots).sum

/-- The receiver handles the flit as bad (R25). -/
def flitBad (l : LinkEnd) (f : Flit) : Bool :=
  !f.good || f.ak = 3 || decide (l.flitSlots < flitUsed f) || (!f.data && !f.msgs.isEmpty)

/-- Credits returned in a flit's header. -/
def takeCredits (x : LEnd) (f : Flit) : LEnd :=
  let back := fun (t : Tbl Nat) (p : Nat × Byte) => tput 0 t p.1 (tget 0 t p.1 - p.2.toNat)
  { x with credits := [(0, f.crq), (1, f.crs), (2, f.crg), (3, f.crm)].foldl back x.credits }

/-- A report to send, ACK or NAK with ASEQ (R28, R29): it overtakes an ACK that has not left, and no NAK. -/
def LEnd.report (x : LEnd) (ak : BitVec 2) (aseq : BitVec 10) (now : Dword) : LEnd :=
  { x with reports := x.reports.filter (fun r => r.1 = 2) ++ [(ak, aseq)], akSince := if x.reports = [] then now else x.akSince }

/-- Mask bits of a write: beyond the data sent they are zero (R27). -/
def maskOk (slots : List Quad) : Bool :=
  match slots.getLast? with
  | none => false
  | some q => decide (q.toNat < 2 ^ (16 * (slots.length - 1)))

/-- The data and mask slots of a write of `n` bytes of data slots at `a`: aligned, within one line, masked to the data sent. -/
def writeSlotsBad (a : Nat) (slots : List Quad) : Bool :=
  a % 16 ≠ 0 || decide (slots.length < 2) || decide (64 < a % 64 + 16 * (slots.length - 1)) || !maskOk slots

/-- The operand slot and address of an atomic (R409): aligned, and zero above what its width and kind use. -/
def atomicBad (a op : Nat) (dword : Bool) (q : Nat) : Bool :=
  a % (if dword then 8 else 4) ≠ 0 || (!dword && (bits q 63 32 ≠ 0 || bits q 127 96 ≠ 0)) || (op ≠ 8 && q / 2 ^ 64 ≠ 0)

/-- The element count, ROP and size of an element operation (R27). -/
def reduceCtl (q : Quad) : Nat × Nat × Nat := (bits q.toNat 3 0 + 1, bits q.toNat 6 4, reduceSize (bits q.toNat 6 4))

/-- The data slots and address of a message break the layouts of R26, R27 or R226. That a header field which the tables call
zero makes the message malformed where it is not (RLEN, ADDR of OP 0x32, 0x38 to 0x3B, OP and SZ of a control slot that names
no atomic), and so do more data slots of OP 0x1A than its elements need, the spec does not say; nor does it say that a header's
reserved bit, SZ or CLS of an OP that has none, or the bits of the slots of OP 0x31 and 0x3B that R27 and R34 do not name, make no
difference: DESIGN CHOICE, log 116. -/
def msgBad (x : Msg) : Bool :=
  let o := x.op.toNat
  let a := bits x.addr.toNat 51 0
  let d0 := (x.data.headD 0).toNat
  !msgFormOk o x.data.length || (o ≠ 1 && x.rlen ≠ 0) ||
    (if o = 1 then a % 16 ≠ 0 || decide (64 < a % 64 + 16 * (x.rlen.toNat + 1))
     else if o = 2 then writeSlotsBad a x.data
     else if 0x10 ≤ o ∧ o ≤ 0x18 then atomicBad a (o - 0x10) x.sz d0
     else if o = 0x19 then a % 16 ≠ 0
     else if o = 0x1A then
       let (n, rop, w) := reduceCtl (x.data.headD 0)
       decide (5 ≤ rop) || a % w ≠ 0 || decide (64 < a % 64 + n * w) || cdiv (n * w) 16 ≠ x.data.length - 1 ||
         bits d0 7 7 ≠ 0 || d0 / 2 ^ 10 ≠ 0 || x.data.foldr (fun q v => q.toNat + v * 2 ^ 128) 0 / 2 ^ (128 + 8 * n * w) ≠ 0
     else if o = 0x20 then bits x.addr.toNat 55 53 ≠ 0 || bits x.addr.toNat 48 33 / 2 ^ (4 * x.data.length) ≠ 0
     else if o = 0x30 then
       let kind := bits d0 17 16
       let op := bits d0 21 18
       d0 / 2 ^ 23 ≠ 0 || kind = 3 ||
         (if kind = 0 then bits d0 22 18 ≠ 0 || writeSlotsBad a (x.data.drop 1)
          else if kind = 1 then decide (8 < op) || x.data.length ≠ 2 || atomicBad a op (tst d0 22) (x.data.getD 1 0).toNat
          else bits d0 22 18 ≠ 0 || x.data.length ≠ 2 || a % 16 ≠ 0)
     else if o = 0x31 then writeSlotsBad a (x.data.drop 1)
     else if o = 0x38 then x.addr.toNat / 2 ^ 8 ≠ 0
     else x.addr ≠ 0)

/-- An answer that a die gives in the place of a message's destination: it names that destination as its source, so that the
requester finds the tag it answers (R26, R37 say which STATUS and not whose SPKG and SDIE; log 117). -/
def badAnswer (m : Mach) (x : Msg) (status : Nat) : Msg := { respMsg m x.ddie x status [] with spkg := x.dpkg }

/-- Messages of a flit that was accepted enter the channel buffers; a malformed one is discarded, answered with BADOP, and
charges the link (R26). Its credits return at once. -/
def Mach.deliverMsgs (m : Mach) (l : LinkEnd) : List Msg → Mach
  | [] => m
  | x :: r =>
    let m :=
      if msgBad x then
        let m := m.modSide l (fun e => { e with give := tput 0 e.give (msgChannel x) (tget 0 e.give (msgChannel x) + msgSlots x) })
        (m.emit l.die (badAnswer m x 1)).charge l.unit 10 4
      else m.modSide l (fun e => { e with buf := e.buf ++ [x] })
    m.deliverMsgs l r

/-- One flit at its receiver (R29). -/
def Mach.receive (m : Mach) (l : LinkEnd) (f : Flit) : Mach :=
  let x := m.side l
  let bad := fun (m : Mach) =>
    if x.nakPending then m else m.modSide l (fun x => { x.report 2 (x.e - 1) m.time with nakPending := true })
  if flitBad l f then bad m
  else if !f.data then (m.modSide l (fun x => takeCredits x f)).takeAk l f.ak f.aseq
  else if f.seq = x.e then
    let m := m.modSide l (fun x => { (takeCredits x f).report 1 x.e m.time with e := x.e + 1, nakPending := false })
    (m.deliverMsgs l f.msgs).takeAk l f.ak f.aseq
  else if (x.e - f.seq).toNat ≤ l.window then (m.modSide l (fun x => x.report 1 (x.e - 1) m.time)).takeAk l f.ak f.aseq
  else bad m

/-- A flit arrives: on a module the oldest on the wire from the other end, perhaps corrupted; on a port one from the peer. -/
def Mach.arrive (m : Mach) (l : LinkEnd) (f : Flit) : Mach :=
  if !l.valid || !(m.linkAt l).live then m
  else if l.fabric then m.receive l f
  else
    match (m.side l.opposite).wire with
    | [] => m
    | g :: rest =>
      if f.good && f ≠ g then m else (m.modSide l.opposite (fun x => { x with wire := rest })).receive l f

/-- DATA_FLIT_RECEIVE (R29). -/
def execDataFlitReceive (l : LinkEnd) (f : Flit) (s : State) : Host.Outcome State Fault Refusal :=
  .next (s.onM (fun m => if f.data then m.arrive l f else m))

/-- IDLE_FLIT_RECEIVE (R29). -/
def execIdleFlitReceive (l : LinkEnd) (f : Flit) (s : State) : Host.Outcome State Fault Refusal :=
  .next (s.onM (fun m => if f.data then m else m.arrive l f))

/-! ### Paths (R23, R37-R39) -/

def moduleEnd (d t : DieId) (k : Nat) : LinkEnd := ⟨false, BitVec.ofNat 6 k, decide (t.toNat < d.toNat)⟩

/-- The lower-numbered of the two dies that are neither `a` nor `b`. -/
def relayDie (a b : DieId) : DieId :=
  BitVec.ofNat 2 (((List.range 4).find? (fun k => k ≠ a.toNat && k ≠ b.toNat)).getD 0)

/-- The module end by which die `d` sends a message of an agent towards die `t` (R23); none where it waits. A report (OP
0x3B) does not wait for reports, nor at its own die (`direct`) for a partner that retrains (R34). Where both modules to the relay
are out of service too, R23's own rules would name another relay or the destination again: the message waits (`fuel` 2; DESIGN
CHOICE, log 118). -/
def Mach.hop (m : Mach) (d t : DieId) (ag : BitVec 10) (report direct : Bool) : Nat → Option LinkEnd
  | 0 => none
  | fuel + 1 =>
    let k := 2 * pairOf d t + ag.toNat % 2
    let a := moduleEnd d t k
    let b := moduleEnd d t (if k % 2 = 0 then k + 1 else k - 1)
    let st := fun (l : LinkEnd) => (m.linkAt l).st
    let owed := fun (l : LinkEnd) => (m.linkAt l).parted (m.side l) && !(m.side l).reported && !report
    if st a = .active then some a
    else if st a = .retrain && !direct then none
    else if owed a || owed b then none
    else if st b = .active then some b
    else if st b = .retrain && !direct then none
    else m.hop d (relayDie d t) ag report false fuel

/-- The candidates of a routing entry whose ports are ACTIVE (R37). -/
def Mach.candidates (m : Mach) (d : DieId) (pkg : BitVec 12) : List (BitVec 6) :=
  let e := (tget (0 : Word) (m.die d).routing pkg.toNat).toNat
  ((List.range (bits e 30 29 + 1)).map (fun k => BitVec.ofNat 6 (bits e (6 * k + 5) (6 * k)))).filter (fun p =>
    (tget Link.reset m.ports p.toNat).st = .active)

/-- The port a message for another package takes (R37); none where its entry has V = 0 or no candidate is ACTIVE. -/
def Mach.portFor (m : Mach) (d : DieId) (x : Msg) : Option (BitVec 6) :=
  let l := if m.routed d x.dpkg then m.candidates d x.dpkg else []
  l[(x.sagent.toNat + 4 * x.dpkg.toNat + x.sdie.toNat) % l.length]?

def portEnd (p : BitVec 6) : LinkEnd := ⟨true, p, false⟩

/-- The link end by which die `d` sends a message on; none where it waits. -/
def Mach.linkFor (m : Mach) (d : DieId) (x : Msg) : Option LinkEnd :=
  let report := decide (x.op = 0x3B)
  if x.dpkg = m.pkg then m.hop d x.ddie x.sagent report (report && x.spkg = m.pkg && x.sdie = d) 2
  else match m.portFor d x with
    | none => none
    | some p => if (portEnd p).die = d then some (portEnd p) else m.hop d (portEnd p).die x.sagent report false 2

/-- Two messages of one agent to one die on one channel (R23, R38). -/
def sameFlow (x y : Msg) : Bool :=
  x.spkg = y.spkg && x.sdie = y.sdie && x.sagent = y.sagent && x.dpkg = y.dpkg && x.ddie = y.ddie && msgChannel x = msgChannel y

/-- The ends of a die. -/
def endsOf (d : DieId) : List LinkEnd :=
  ((List.range 12).flatMap (fun k => [(⟨false, BitVec.ofNat 6 k, false⟩ : LinkEnd), ⟨false, BitVec.ofNat 6 k, true⟩]) ++
    (List.range 12).map (fun k => portEnd (BitVec.ofNat 6 (16 * d.toNat + k)))).filter (fun l => l.die = d)

/-- The flow has messages that another end holds unacknowledged, or that a DOWN port still holds (R23, R39). A report, which
frees such messages, waits for none (R34). -/
def Mach.heldElsewhere (m : Mach) (d : DieId) (l : LinkEnd) (x : Msg) : Bool :=
  x.op ≠ 0x3B && (endsOf d).any (fun k => k ≠ l && (m.side k).held.any (fun f => f.msgs.any (sameFlow x)))

def isResponseOp (o : BitVec 6) : Bool := o = 0x38

/-- A message that a tag of its source die stands for (R32): a request, a gangline contribution or an update. -/
def isTagged (o : BitVec 6) : Bool := decide (o.toNat < 0x32)

/-- At its source package an earlier message of the flow left by another port, and its answer is outstanding (R38). It stands on
die `d`, its source or the die of a port. A report, which frees such messages, waits for none (R39). -/
def Mach.heldByPort (m : Mach) (d : DieId) (x : Msg) : Bool :=
  if x.spkg ≠ m.pkg || x.dpkg = m.pkg || x.op = 0x3B then false
  else
    let other := fun (q : Option (BitVec 6)) => match q, m.portFor d x with
      | some a, some b => decide (a ≠ b)
      | _, _ => false
    if isResponseOp x.op then
      (m.die x.sdie).comp.any (fun c => c.spkg = x.dpkg && c.sdie = x.ddie && c.tag ≠ x.tag && other c.port &&
        ((c.resp.map (fun y => decide (y.sagent = x.sagent))).getD false))
    else (m.die x.sdie).tags.any (fun g =>
      g.dpkg = x.dpkg && g.ddie = x.ddie && g.sagent = x.sagent && !(isTagged x.op && g.tag = x.tag) && !g.retiring && other g.port)

/-- Note the port a response or a tagged message has left by, or that it has left by none, at its source die (R38). -/
def Mach.setPort (m : Mach) (x : Msg) (p : Option (BitVec 6)) : Mach :=
  if x.spkg ≠ m.pkg || x.dpkg = m.pkg || !(isResponseOp x.op || isTagged x.op) then m
  else
    m.modDie x.sdie (fun y =>
      if isResponseOp x.op then
        { y with comp := y.comp.map (fun c => if c.spkg = x.dpkg && c.sdie = x.ddie && c.tag = x.tag then { c with port := p } else c) }
      else { y with tags := y.tags.map (fun g =>
        if g.dpkg = x.dpkg && g.ddie = x.ddie && g.tag = x.tag then { g with port := p } else g) })

def Mach.notePort (m : Mach) (d : DieId) (x : Msg) : Mach := m.setPort x (m.portFor d x)

/-! ### Transmitting (R25, R28, R30, R31, R410) -/

def isRetire (x : Msg) : Bool := x.op = 0x39 || x.op = 0x3A

/-- A retire has been ready for 32 cycles (R410); one that has come back from a dead link has. -/
def Mach.retireDue (m : Mach) (d : DieId) (x : Msg) : Bool :=
  isRetire x && (match (m.die d).retireAt.find? (fun y => y.1 = x) with
    | some y => decide (32 ≤ (m.time - y.2).toNat)
    | none => true)

/-- What choosing messages for a flit has come to: those placed, those that stay, slots used, channels that wait, credits. -/
structure Pick where
  got : List Msg
  rest : List Msg
  used : Nat
  shut : List Nat
  credits : Tbl Nat

/-- Choose messages for a flit of end `l`; `retires` says which of the two sorts is placed in this pass (R410). A message that
its flow holds back stays alone; one that lacks room or credits holds its channel. -/
def Mach.pick (m : Mach) (d : DieId) (l : LinkEnd) (retires : Bool) (k : Pick) (q : List Msg) : Pick :=
  q.foldl (fun (k : Pick) x =>
    let c := msgChannel x
    let stay := fun (k : Pick) => { k with rest := k.rest ++ [x] }
    if isRetire x ≠ retires || m.linkFor d x ≠ some l then stay k
    else if k.shut.contains c then stay k
    else if m.heldElsewhere d l x || m.heldByPort d x then stay k
    else if l.flitSlots < k.used + msgSlots x || l.bufSlots < tget 0 k.credits c + msgSlots x then stay { k with shut := c :: k.shut }
    else { k with got := k.got ++ [x], used := k.used + msgSlots x, credits := tput 0 k.credits c (tget 0 k.credits c + msgSlots x) })
    { k with rest := [] }

/-- A flit reaches the wire of a module, or leaves the package by a port. The replay timer restarts with the oldest held flit. -/
def Mach.onWire (m : Mach) (l : LinkEnd) (f : Flit) : Mach :=
  m.modSide l (fun x => { x with
    since := if f.data && (x.held.head?.map (fun g => decide (g.seq = f.seq))).getD false then m.time else x.since,
    wire := if l.fabric then x.wire else x.wire ++ [f] })

/-- A new flit leaves with the oldest report due and the credits to return; a DATA flit is held as it left (R28, R30, R31). -/
def Mach.launchFlit (m : Mach) (l : LinkEnd) (f : Flit) : Mach :=
  let x := m.side l
  let back := fun (c : Nat) => Nat.min 255 (tget 0 x.give c)
  let r := x.reports.headD (0, 0)
  let f := { f with crq := BitVec.ofNat 8 (back 0), crs := BitVec.ofNat 8 (back 1), crg := BitVec.ofNat 8 (back 2),
                    crm := BitVec.ofNat 8 (back 3), ak := r.1, aseq := r.2 }
  (m.modSide l (fun x => { x with
    give := (List.range 4).foldl (fun t c => tput 0 t c (tget 0 t c - back c)) x.give, reports := x.reports.tail,
    held := if f.data then x.held ++ [f] else x.held })).onWire l f

def idleFlit : Flit := ⟨0, 0, 0, 0, false, 0, 0, 0, [], true⟩

/-- An IDLE flit, where there is a report or a credit to send. -/
def Mach.sendIdle (m : Mach) (l : LinkEnd) : Mach :=
  let x := m.side l
  if x.reports.isEmpty && x.give.isEmpty then m else m.launchFlit l idleFlit

/-- The messages of the next flit of an end: retires first, which leave with the next DATA flit (R410), then the others; without
one of these no flit leaves, unless `force` sends retires on their own. In the flit the retires come last. -/
def Mach.choose (m : Mach) (d : DieId) (l : LinkEnd) (force : Bool) : Pick :=
  let none := ⟨[], [], 0, [], (m.side l).credits⟩
  let r := m.pick d l true none (m.die d).outq
  let k := m.pick d l false { r with got := [] } r.rest
  if force || !k.got.isEmpty then { k with got := k.got ++ r.got } else { none with rest := (m.die d).outq }

/-- The next flit of an end: of a replay, unchanged, else new messages, else IDLE; `force` sends retires on their own. After
training no new DATA flit leaves before the peer's ACK has begun the replay. -/
def Mach.transmit (m : Mach) (l : LinkEnd) (force : Bool) : Mach :=
  let x := m.side l
  let d := l.die
  if !l.valid || !(m.linkAt l).live then m
  else
    match x.resend with
    | f :: rest => (m.modSide l (fun x => { x with resend := rest })).onWire l f
    | [] =>
      if l.window ≤ x.held.length || (m.linkAt l).st = .draining || x.resuming then m.sendIdle l
      else
        let k := m.choose d l force
        if k.got.isEmpty then m.sendIdle l
        else
          let m := k.got.foldl (fun (m : Mach) y => m.notePort d y) m
          let m := m.modDie d (fun y => { y with outq := k.rest, retireAt := y.retireAt.filter (fun z => k.rest.contains z.1) })
          let m := m.modSide l (fun x => { x with credits := k.credits, txSeq := x.txSeq + 1 })
          let m := if l.fabric then m else m.dieEvent d 0x23 1
          m.launchFlit l { idleFlit with data := true, seq := x.txSeq, msgs := k.got }

/-- FLIT_TRANSMIT (R28, R31). -/
def execFlitTransmit (l : LinkEnd) (s : State) : Host.Outcome State Fault Refusal := .next (s.onM (fun m => m.transmit l false))

/-- RETIRE_SEND_TIMER (R410): a retire for this end that has been ready for 32 cycles leaves, in a flit of its own if need be. -/
def execRetireSendTimer (l : LinkEnd) (s : State) : Host.Outcome State Fault Refusal :=
  .next (s.onM (fun m =>
    if (m.die l.die).outq.any (fun x => m.retireDue l.die x && m.linkFor l.die x = some l) then m.transmit l true else m))

/-- ACK_IDLE_TIMER (R28): a report that 16 cycles have not carried leaves in an IDLE flit. -/
def execAckIdleTimer (l : LinkEnd) (s : State) : Host.Outcome State Fault Refusal :=
  .next (s.onM (fun m =>
    let x := m.side l
    if l.valid && (m.linkAt l).live && !x.reports.isEmpty && decide (16 ≤ (m.time - x.akSince).toNat) then m.launchFlit l idleFlit else m))

/-- REPLAY_TIMER_EXPIRY (R28, R30, R411). -/
def execReplayTimerExpiry (l : LinkEnd) (s : State) : Host.Outcome State Fault Refusal :=
  .next (s.onM (fun m =>
    let x := m.side l
    if l.valid && (m.linkAt l).live && !x.held.isEmpty && decide (l.timer ≤ (m.time - x.since).toNat) then m.replay l else m))

/-! ### Link states (R33-R35, R39) -/

/-- LANE_LOSS_OF_LOCK (R33, R35): a module retrains, a port goes DOWN. -/
def execLaneLossOfLock (l : LinkEnd) (s : State) : Host.Outcome State Fault Refusal :=
  .next (s.onM (fun m =>
    if !l.valid || !(m.linkAt l).live then m else if l.fabric then m.enterDown l else m.enterRetrain l))

/-- An end after training (R33, R39, R411): what it holds waits for the peer's ACK. -/
def LEnd.trained (x : LEnd) (now : Dword) : LEnd :=
  { x with reports := [], resend := [], resuming := !x.held.isEmpty, since := now, sentReport := false, reported := false }

/-- An end sends IDLE with ACK and ASEQ = E - 1 (R33, R39). -/
def Mach.greet (m : Mach) (l : LinkEnd) : Mach := (m.modSide l (fun x => x.report 1 (x.e - 1) m.time)).launchFlit l idleFlit

/-- The link resumes after training: each end of this package sends its ACK, and replays once the peer's has come. -/
def Mach.resume (m : Mach) (l : LinkEnd) : Mach :=
  let m := m.modLink l (fun k => { k with st := .active, lo := k.lo.trained m.time, hi := k.hi.trained m.time })
  if l.fabric then m.greet l else (m.greet { l with up := false }).greet { l with up := true }

/-- RETRAIN_COMPLETE (R33, R35, R121): a module stays at x32 once there (log 42); a port runs at full width or not at all. One under a
draining lease goes on draining (log 157). -/
def execRetrainComplete (l : LinkEnd) (x64 : Bool) (s : State) : Host.Outcome State Fault Refusal :=
  .next (s.onM (fun m =>
    let k := m.linkAt l
    if !l.valid || k.st ≠ .retrain || decide (3200 < (m.time - k.retrainAt).toNat) then m
    else if l.fabric && !x64 then m.enterDown l
    else
      let half := !x64 || k.x32
      let drains := ((m.leaseOf l.unit).map (fun r => decide (leaseState r = 2))).getD false
      let m := (m.resume l).modLink l (fun k => { k with x32 := half, st := if drains then .draining else k.st })
      if half then m.charge l.unit 12 64 else m.charge l.unit 11 8))

/-- RETRAIN_TIMEOUT (R33). -/
def execRetrainTimeout (l : LinkEnd) (s : State) : Host.Outcome State Fault Refusal :=
  .next (s.onM (fun m =>
    let k := m.linkAt l
    if l.valid && k.st = .retrain && decide (3200 ≤ (m.time - k.retrainAt).toNat) then m.enterDown l else m))

/-- A fresh end, at link-up (R28, R31): messages received before are still there to be taken. -/
def LEnd.fresh (x : LEnd) : LEnd := { LEnd.reset with buf := x.buf }

/-- A DOWN link's transmit end learns its peer's E (R34, R39): accepted flits are freed, the other messages go ahead of
newer ones on the path they now have; they have left by no port (R38). -/
def Mach.moveHeld (m : Mach) (l : LinkEnd) (e : BitVec 10) : Mach :=
  let x := m.side l
  if !(m.linkAt l).parted x || x.reported then m
  else
    let left := ((x.free (e - 1) m.time).getD x).held
    let msgs := left.flatMap (·.msgs)
    let m := m.modSide l (fun x => { x with held := [], resend := [], replays := 0, reported := true, txSeq := e })
    let m := m.modDie l.die (fun y => { y with outq := msgs ++ y.outq })
    if l.fabric then msgs.foldl (fun (m : Mach) x => m.setPort x none) m else m

/-- FABRIC_PORT_DOWN (R39). -/
def execFabricPortDown (p : BitVec 6) (s : State) : Host.Outcome State Fault Refusal :=
  .next (s.onM (fun m => if (portEnd p).valid then m.enterDown (portEnd p) else m))

/-- This package's report of a port (R39). -/
def Mach.isReport (m : Mach) (p : BitVec 6) (x : Msg) : Bool :=
  x.op = 0x3B && x.spkg = m.pkg && x.dpkg ≠ m.pkg && bits (x.data.headD 0).toNat 6 0 = 64 + p.toNat

/-- This package's report of the port has left: it stands in no outgoing queue. -/
def Mach.reportLeft (m : Mach) (p : BitVec 6) : Bool := m.dies.all (fun y => !y.2.outq.any (m.isReport p))

/-- A report that has not left is not sent any more. -/
def Mach.dropReport (m : Mach) (p : BitVec 6) : Mach :=
  { m with dies := tmap Die.reset (fun _ (y : Die) => { y with outq := y.outq.filter (fun x => !m.isReport p x) }) m.dies }

/-- FABRIC_PORT_RETURN (R39): before the reports have been exchanged, this package's sent and the peer's taken, it resumes as
after training, and its own report is not sent any more; after that it starts afresh. -/
def execFabricPortReturn (p : BitVec 6) (s : State) : Host.Outcome State Fault Refusal :=
  .next (s.onM (fun m =>
    let l := portEnd p
    let k := m.linkAt l
    if !l.valid || k.st ≠ .down || m.onLease l.unit then m
    else if (k.lo.reported && m.reportLeft p) || !k.lo.sentReport then
      m.modLink l (fun k => { k with st := .active, lo := k.lo.fresh })
    else (m.dropReport p).resume l))

/-! ### Taking messages (R31, R32) -/

/-- The first message of a channel in a buffer. -/
def headOf (l : List Msg) (c : Nat) : Option Msg := l.find? (fun y => msgChannel y = c)

def eraseMsg (l : List Msg) (x : Msg) : List Msg := l.erase x

/-- A message leaves a buffer of die `d`, where it is the first of its channel: from a link, whose credits return, or from
the die's own. `none` where it stands nowhere so. -/
def Mach.take (m : Mach) (d : DieId) (x : Msg) : Option (Option LinkEnd × Mach) :=
  let c := msgChannel x
  match (endsOf d).find? (fun l => headOf (m.side l).buf c = some x) with
  | some l =>
    some (some l, m.modSide l (fun e =>
      { e with buf := eraseMsg e.buf x, give := tput 0 e.give c (tget 0 e.give c + msgSlots x) }))
  | none =>
    if headOf (m.die d).inq c = some x then some (none, m.modDie d (fun y => { y with inq := eraseMsg y.inq x })) else none

/-- The master of R27 that a message's source names. -/
def Mach.masterOf (m : Mach) (x : Msg) : Nat :=
  let ag := x.sagent.toNat
  if x.spkg ≠ m.pkg then
    let c := (tget 0 m.classes x.spkg.toNat).toNat
    if c ≤ 120 then 134 + c else 255
  else if ag < 0x140 then 64 + bits x.addr.toNat 55 52
  else if 0x200 ≤ ag ∧ ag < 0x240 then 80 + 8 * x.sdie.toNat + ag % 8
  else if 0x300 ≤ ag ∧ ag < 0x304 then 112 + 4 * x.sdie.toNat + ag % 4
  else if ag = 0x381 then 128
  else if ag = 0x382 then 129
  else if ag = 0x380 then 130 + x.sdie.toNat
  else 255

/-- A stray message is logged (R32, R37, R55). -/
def Mach.stray (m : Mach) (d : DieId) (x : Msg) : Mach :=
  m.violation d x.tag.toNat 7 0 (m.masterOf x) false (decide (x.spkg ≠ m.pkg))

/-- Does a message await an answer (R26, R32). -/
def asksAnswer (x : Msg) : Bool := msgChannel x = 0 || msgChannel x = 2

/-- A message for another package that its entry does not route, or that has no hops left (R37). -/
def Mach.undeliverable (m : Mach) (d : DieId) (x : Msg) (status : Nat) : Mach :=
  if asksAnswer x then m.emit d (badAnswer m x status) else m.stray d x

/-- MESSAGE_FORWARD (R23, R37): a message that stands on a die that is not its destination goes on. -/
def execMessageForward (die : DieId) (x : Msg) (s : State) : Host.Outcome State Fault Refusal :=
  .next (s.onM (fun m =>
    if x.dpkg = m.pkg ∧ x.ddie = die then m
    else
      let cut := x.dpkg ≠ m.pkg && !m.routed die x.dpkg
      match m.take die x with
      | some (from_, m) =>
        let fabric := (from_.map (·.fabric)).getD false
        if x.dpkg = m.pkg then m.queueOut die x
        else if fabric && x.hops = 0 then m.undeliverable die x 5
        else if cut then m.undeliverable die x 4
        else m.queueOut die (if fabric then { x with hops := x.hops - 1 } else x)
      | none =>
        if cut && (m.die die).outq.contains x then
          (m.modDie die (fun y => { y with outq := eraseMsg y.outq x })).undeliverable die x 4
        else m))

/-- LINK_STATE_REPORT (R34, R39). The slot names the reporter's port, which this end knows as its peer's (log 31). -/
def execLinkStateReport (x : Msg) (s : State) : Host.Outcome State Fault Refusal :=
  .next (s.onM (fun m =>
    if x.op ≠ 0x3B || x.dpkg ≠ m.pkg then m
    else
      match m.take x.ddie x with
      | none => m
      | some (_, m) =>
        let d := (x.data.headD 0).toNat
        let e := BitVec.ofNat 10 (bits d 25 16)
        let near := (endsOf x.ddie).find? (fun l =>
          if tst d 6 then
            l.fabric && (m.linkAt l).peerPkg = x.spkg && (m.linkAt l).peerDie = x.sdie && (m.linkAt l).peerPort = BitVec.ofNat 6 (bits d 5 0)
          else !l.fabric && decide (l.idx.toNat = bits d 3 0))
        match near with
        | some l => m.moveHeld l e
        | none => m))

end Sys2Proof.Machine
end

