-- ==== Sys2Proof/Machine/Messages.lean ====
section
/-! DEFINITION. What messages do at their destination: requests (R27, R32, R52, R409), gangline arrivals (R226-R230), replicated
pages (R41), responses and retires (R32), and what other packages of a launch group ask and report (R98, R99, R124). -/
namespace Sys2Proof.Machine

/-! ### Exactly-once execution (R32) -/

/-- The address of a request (R27). -/
def msgPa (x : Msg) : Nat := bits x.addr.toNat 51 0

def fromSame (x : Msg) (c : CompRec) : Bool := c.spkg = x.spkg && c.sdie = x.sdie && c.tag = x.tag

/-- The response to a request is recorded and sent. -/
def Mach.respond (m : Mach) (d : DieId) (x : Msg) (st : Nat) (data : List Quad) : Mach :=
  let y := respMsg m d x st data
  (m.modDie d (fun z => { z with comp := z.comp.filter (fun c => !fromSame x c) ++ [⟨x.spkg, x.sdie, x.tag, some y, none⟩] })).emit d y

/-- A request is performed once: one already recorded gets its recorded response; with a full table it stays in its buffer.
`f` gives STATUS and data, or nothing yet. -/
def Mach.perform (m : Mach) (op : Bool) (x : Msg) (f : Mach → Option (Nat × List Quad) × Mach) : Mach :=
  let d := x.ddie
  if !op || x.dpkg ≠ m.pkg then m
  else
    match m.take d x with
    | none => m
    | some (_, n) =>
      match (n.die d).comp.find? (fromSame x) with
      | some c =>
        (match c.resp with
         | some y => n.emit d y
         | none => n)
      | none =>
        if 16384 ≤ (n.die d).comp.length then m
        else match f n with
          | (some (st, data), n) => n.respond d x st data
          | (none, n) => n.modDie d (fun z => { z with comp := z.comp ++ [⟨x.spkg, x.sdie, x.tag, none, none⟩] })

/-- Does the target die own every byte of [pa, pa + n) (R27). -/
def Mach.owns (m : Mach) (d : DieId) (pa n : Nat) : Bool := m.mapped pa n && paDie pa = d

/-- The checks of a request at its target (R27, R52): STATUS 4 or 2, else the operation. -/
def Mach.guarded (m : Mach) (x : Msg) (pa n : Nat) (acc : Acc) (f : Mach → Option (Nat × List Quad) × Mach) :
    Option (Nat × List Quad) × Mach :=
  if !m.owns x.ddie pa n then (some (4, []), m)
  else
    let (ok, m) := m.checkGrant pa (m.masterOf x) acc (decide (x.spkg ≠ m.pkg))
    if ok then f m else (some (2, []), m)

/-- READ_REQUEST (R27). -/
def execReadRequest (x : Msg) (s : State) : Host.Outcome State Fault Refusal :=
  .next (s.onM (fun m =>
    let pa := msgPa x
    let n := 16 * (x.rlen.toNat + 1)
    m.perform (x.op = 0x01) x (fun m => m.guarded x pa n .read (fun m =>
      let (v, pois, m) := m.readPa pa n
      if pois then (some (3, []), m)
      else (some (0, (List.range (x.rlen.toNat + 1)).map (fun k => BitVec.ofNat 128 (v / 2 ^ (128 * k)))), m)))))

/-- Runs of bytes that a mask selects, from address `a` up. -/
def maskRuns (a : Nat) : List (Bool × Byte) → List (Nat × List Byte)
  | [] => []
  | (false, _) :: r => maskRuns (a + 1) r
  | (true, b) :: r =>
    match maskRuns (a + 1) r with
    | [] => [(a, [b])]
    | (s, bs) :: t => if s = a + 1 then (a, b :: bs) :: t else (a, [b]) :: (s, bs) :: t

/-- The bytes a write's data and mask slots write, from address `a` up (R27). -/
def slotRuns (a : Nat) (slots : List Quad) : List (Nat × List Byte) :=
  let mask := (slots.getLastD 0).toNat
  let bytes := slots.dropLast.flatMap (fun q => toBytes 16 q.toNat)
  maskRuns a ((bytes.zipIdx).map (fun (p : Byte × Nat) => (tst mask p.2, p.1)))

/-- The bytes of a message's data that are poisoned, counted from its ADDR, as the record of its tag has them (R138; log 63). -/
def Mach.msgPois (m : Mach) (x : Msg) : List Nat :=
  if x.spkg ≠ m.pkg then []
  else (((m.die x.sdie).tags.find? (fun g => g.dpkg = x.dpkg && g.ddie = x.ddie && g.tag = x.tag)).map (·.pois)).getD []

/-- Runs of bytes are written, and those of them that are poisoned, counted from `a`, poison what they are written to. -/
def Mach.writeRuns (m : Mach) (a : Nat) (pois : List Nat) (l : List (Nat × List Byte)) : Mach :=
  (pois.filter (fun k => l.any (fun r => decide (r.1 ≤ a + k ∧ a + k < r.1 + r.2.length)))).foldl (fun (m : Mach) k => m.poison (a + k) 1)
    (l.foldl (fun (m : Mach) r => m.writePa r.1 r.2) m)

/-- WRITE_REQUEST (R27). -/
def execWriteRequest (x : Msg) (s : State) : Host.Outcome State Fault Refusal :=
  .next (s.onM (fun m =>
    m.perform (x.op = 0x02) x (fun m =>
      let l := slotRuns (msgPa x) x.data
      match l with
      | [] => (some (0, []), m)
      | (a, _) :: _ =>
        if !l.all (fun r => m.owns x.ddie r.1 r.2.length) then (some (4, []), m)
        else m.guarded x a 1 .write (fun m => (some (0, []), m.writeRuns (msgPa x) (m.msgPois x) l)))))

/-- AMO_REQUEST (R190, R409). -/
def execAmoRequest (x : Msg) (s : State) : Host.Outcome State Fault Refusal :=
  .next (s.onM (fun m =>
    let pa := msgPa x
    let n := if x.sz then 8 else 4
    let q := (x.data.headD 0).toNat
    m.perform (decide (0x10 ≤ x.op.toNat ∧ x.op.toNat ≤ 0x18)) x (fun m => m.guarded x pa n .atomic (fun m =>
      let m := m.readPort pa n
      if m.poisoned pa n then (some (3, []), m)
      else
        let (old, m) := m.amoPa pa (x.op.toNat - 0x10) x.sz (q % 2 ^ 64) (q / 2 ^ 64)
        (some (0, [BitVec.ofNat 128 old]), m)))))

/-- AQADD_REQUEST (R27, R287). -/
def execAqaddRequest (x : Msg) (s : State) : Host.Outcome State Fault Refusal :=
  .next (s.onM (fun m =>
    let pa := msgPa x
    m.perform (x.op = 0x19) x (fun m => m.guarded x pa 16 .atomic (fun m =>
      let m := m.readPort pa 16
      if m.poisoned pa 16 then (some (3, []), m) else (some (0, []), m.aqaddPa pa (x.data.headD 0).toNat)))))

/-- The data slots of a message as one number, slot 0 lowest. -/
def slotsNat (l : List Quad) : Nat := l.foldr (fun q a => q.toNat + a * 2 ^ 128) 0

/-- REDUCE_ELEMENT_REQUEST (R27, R337). -/
def execReduceElementRequest (x : Msg) (s : State) : Host.Outcome State Fault Refusal :=
  .next (s.onM (fun m =>
    let pa := msgPa x
    let c := reduceCtl (x.data.headD 0)
    let rm := (x.data.headD 0).extractLsb' 8 2
    let v := slotsNat (x.data.drop 1)
    m.perform (x.op = 0x1A) x (fun m => m.guarded x pa (c.1 * c.2.2) .atomic (fun m =>
      let m := m.readPort pa (c.1 * c.2.2)
      if m.poisoned pa (c.1 * c.2.2) then (some (3, []), m)
      else
        (some (0, []), (List.range c.1).foldl (fun (m : Mach) k =>
          m.reducePa (pa + c.2.2 * k) c.2.1 rm (v / 2 ^ (8 * c.2.2 * k) % 2 ^ (8 * c.2.2))) m)))))

/-! ### Gangline arrivals (R226-R230) -/

/-- The partition and context at a place. -/
def Mach.imageAt (m : Mach) : ImagePlace → Option (PartId × Ctx)
  | .tile t => (m.tile t).bind.map (fun b => (b.part, m.ctx t))
  | .kennel t => (m.tile t).kennel.map (fun im => (im.part, im.ctx))
  | .spill p n => (tget none (m.part p).spilled n).map (fun im => (im.part, (m.getImage p n im).ctx))

/-- Change the context at a place; a spilled image is written to memory again. -/
def Mach.setImageAt (m : Mach) (c : Ctx) : ImagePlace → Mach
  | .tile t => m.modCtx t (fun _ => c)
  | .kennel t => m.modTile t (fun x => { x with kennel := x.kennel.map (fun im => { im with ctx := c }) })
  | .spill p n =>
    match tget none (m.part p).spilled n with
    | some im => m.putImage p n { m.getImage p n im with ctx := c }
    | none => m

/-- The places of a partition's spilled images that a test picks. -/
def Mach.spillsOf (m : Mach) (f : Image → Bool) : List ImagePlace :=
  m.parts.flatMap (fun x => x.2.spilled.filterMap (fun y => match y.2 with
    | some im => if f im then some (ImagePlace.spill (BitVec.ofNat 4 x.1) y.1) else none
    | none => none))

/-- The place of an item that has left its tile. -/
def Mach.itemPlace (m : Mach) (r : ItemRef) : Option ImagePlace :=
  match m.itemTile r with
  | some t => some (.tile t)
  | none =>
    match (tilesOf r.clu).find? (fun t => ((m.tile t).kennel.map (fun im => r.is im.bind)).getD false) with
    | some t => some (.kennel t)
    | none => (m.spillsOf (fun im => r.is im.bind && decide (im.tile.cluster = r.clu))).head?

/-- A forward that still stands: a landing handle of the moved image is in use (R230), as it is while the image has left with its
partition. -/
def Mach.forwardOn (m : Mach) (f : Fwd) : Bool :=
  match m.itemPlace f.item with
  | some w => ((m.imageAt w).map (fun y => y.2.hnd.any (fun h => landing h.2))).getD false
  | none => nhas m.exports f.item.part.toNat

/-- The fields of a gangline message (R226). -/
def glPart (x : Msg) : PartId := BitVec.ofNat 4 (bits x.addr.toNat 52 49)
def glIdx (x : Msg) : Nat := bits x.addr.toNat 32 19
def glEpoch (x : Msg) : Byte := x.addr.extractLsb' 11 8
def glLh (x : Msg) : BitVec 3 := x.addr.extractLsb' 8 3
def glTile (x : Msg) : TileId := x.addr.extractLsb' 0 8

/-- The landing handle of an image takes the message. -/
def glTakes (x : Msg) (p : PartId) (c : Ctx) : Bool :=
  let h := c.handle (glLh x)
  let len := x.data.length
  p = glPart x && landing h && h.extractLsb' 48 8 = glEpoch x &&
    decide (glIdx x + len ≤ tileSize (c.accCfg (bits h.toNat 61 56))) && decide (len ≤ bits h.toNat 29 0)

/-- The forward that names the message's handle (R226, R230). -/
def Mach.glForward (m : Mach) (x : Msg) : Option Fwd :=
  (m.die x.ddie).fwds.find? (fun f =>
    f.src = glTile x && f.lh = glLh x && f.epoch = glEpoch x && f.item.part = glPart x && m.forwardOn f)

/-- The images that hold an item of the tile which the message names (R226): the resident one, those in kennel slots, which a
spill's return may have put into another tile's slot, and spills. -/
def Mach.glImages (m : Mach) (x : Msg) : List ImagePlace :=
  let t := glTile x
  let home := fun (u : TileId) => ((m.tile u).kennel.map (fun im => decide (im.tile = t))).getD false
  .tile t :: ((tilesOf (Sys2Proof.TileId.cluster t)).filter home).map ImagePlace.kennel ++ m.spillsOf (fun im => decide (im.tile = t))

/-- The image the message is for (R226): by a forward, else on the tile, in a slot, in a spill. -/
def Mach.glTarget (m : Mach) (x : Msg) : Option ImagePlace :=
  match m.glForward x with
  | some f => m.itemPlace f.item
  | none => (m.glImages x).find? (fun w => ((m.imageAt w).map (fun y => glTakes x y.1 y.2)).getD false)

/-- The additions of an arrival, with REMAIN; on a tile they set its W bit (R143), on an image that is not on one the reservation's
completion is owed (R228, R229). -/
def glApply (x : Msg) (c : Ctx) (parked : Bool) : Ctx :=
  let h := c.handle (glLh x)
  let acc := bits h.toNat 61 56
  let c := (x.data.zipIdx).foldl (fun (c : Ctx) (y : Quad × Nat) =>
    let fl := bits x.addr.toNat (36 + 4 * y.2) (33 + 4 * y.2)
    c.mergeAcc (flatEntry (c.accCfg acc) (glIdx x + y.2)) (fun e => aqMerge e y.1 (BitVec.ofNat 2 fl) (tst fl 2) (tst fl 3))) c
  let c := c.setHandle (glLh x) (setBits h 29 0 (bits h.toNat 29 0 - x.data.length))
  if parked then c.settleLandings else { c with acfg := tput 0 c.acfg acc (c.accCfg acc ||| 0x4000000000000000) }

/-- The forwards of items of which every landing handle is out of use are over (R230). -/
def Mach.dropForwards (m : Mach) : Mach :=
  if m.dies.all (fun x => x.2.fwds.isEmpty) then m
  else { m with dies := tmap Die.reset (fun _ (y : Die) => { y with fwds := y.fwds.filter m.forwardOn }) m.dies }

/-- gl_arrive (R226): GLRES. A refusal is logged where the images found are of other partitions. -/
def Mach.glArrive (m : Mach) (x : Msg) : Nat × Mach :=
  if nhas m.exports (glPart x).toNat then (2, m)
  else
    let m := m.dieEvent x.ddie 0x25 1
    let take := (m.glTarget x).bind (fun w => (m.imageAt w).bind (fun y => if glTakes x y.1 y.2 then some (w, y.2) else none))
    match take with
    | some (w, c) =>
      let parked := match w with
        | .tile _ => false
        | _ => true
      (0, m.setImageAt (glApply x c parked) w)
    | none =>
      let t := glTile x
      let parts := (m.glImages x).filterMap (fun w => (m.imageAt w).map (·.1))
      let master := if x.spkg = m.pkg then 64 + (glPart x).toNat else m.masterOf x
      (1, if (m.glForward x).isNone && !parts.isEmpty && !parts.contains (glPart x) then m.violation x.ddie x.addr.toNat 6 t.toNat master true (decide (x.spkg ≠ m.pkg)) else m)

/-- GANGLINE_CONTRIBUTION (R226). -/
def execGanglineContribution (x : Msg) (s : State) : Host.Outcome State Fault Refusal :=
  .next (s.onM (fun m =>
    m.perform (x.op = 0x20) x (fun m =>
      let (r, m) := m.glArrive x
      (some (0, [BitVec.ofNat 128 r]), m))))

/-- RESERVATION_COMPLETION (R228): the last addition has been made. -/
def execReservationCompletion (t : TileId) (hdl : BitVec 3) (s : State) : Host.Outcome State Fault Refusal :=
  .next (s.onM (fun m =>
    let h := (m.ctx t).handle hdl
    if (m.tile t).bind.isSome && landing h && bits h.toNat 29 0 = 0 then
      (m.modCtx t (fun c => c.setHandle hdl (setBits h 63 63 0))).completeResv t hdl
    else m))

/-! ### Replicated pages (R41) -/

/-- The bytes a sequenced update of an atomic carries: KIND 1 atomics, 2 AQADD. -/
def updateBytes (old : Nat) (ctl : Nat) (v : Quad) : List Byte :=
  let n := if tst ctl 22 then 8 else 4
  if bits ctl 17 16 = 1 then toBytes n ((amoNew (bits ctl 21 18) (8 * n) old (v.toNat % 2 ^ 64) (v.toNat / 2 ^ 64)).getD old)
  else toBytes 16 (old + v.toNat)

def updateSize (ctl : Nat) : Nat := if bits ctl 17 16 = 2 then 16 else if tst ctl 22 then 8 else 4

/-- A member's side of a set on a die: its key. -/
def rmemKey (set : BitVec 16) (d : DieId) : Nat := set.toNat * 4 + d.toNat

/-- A stamp is taken and its update sent to every member. The sequencer's own replica has it already, so that the update which
the sequencer sends to itself finds its stamp applied (log 119). -/
def Mach.sequence (m : Mach) (d : DieId) (k : Nat) (r : RSet) (x : Msg) (old off : Nat) (slots : List Quad) (pois : List Nat) : Mach :=
  let s := r.stamp
  let m := m.modDie d (fun y =>
    { y with rsets := tput RSet.reset y.rsets k { r with stamp := s + 1, open_ := r.open_ ++ [(s, r.replicas, x, old)] } })
  let m := { m with rmems := tmod RMem.reset m.rmems (rmemKey r.set d) (fun q => { q with next := s + 1 }) }
  let msg := fun (q : BitVec 12 × DieId) =>
    { blankMsg with op := 0x31, addr := BitVec.ofNat 56 off, ddie := q.2, dpkg := q.1, sagent := sagentDie, cls := x.cls,
                    data := BitVec.ofNat 128 (r.set.toNat + s.toNat * 2 ^ 32) :: slots }
  r.replicas.foldl (fun (m : Mach) q => (m.request d (msg q) (.update r.set s) (.here 0) pois).getD m) m

/-- What the sequencer does with an update (R41 steps 2 and 3): STATUS where it is refused. It applies writes and atomics to
its own replica as it stamps them, and so in stamp order. -/
def Mach.update (m : Mach) (k : Nat) (r : RSet) (x : Msg) : Option (Nat × List Quad) × Mach :=
  let d := x.ddie
  let ctl := (x.data.headD 0).toNat
  let off := bits x.addr.toNat 37 0
  if bits ctl 17 16 = 0 then
    let slots := x.data.drop 1
    let l := slotRuns (hbmPa d off) slots
    if !l.all (fun y => m.owns d y.1 y.2.length) then (some (4, []), m)
    else m.guarded x (hbmPa d off) 1 .write (fun m =>
      (none, (m.writeRuns (hbmPa d off) (m.msgPois x) l).sequence d k r x 0 off slots (m.msgPois x)))
  else
    let n := updateSize ctl
    let pa := hbmPa d off
    m.guarded x pa n .atomic (fun m =>
      let m := m.readPort pa n
      if m.poisoned pa n then (some (3, []), m)
      else
        let old := Memory.read m.mem pa n
        let bs := updateBytes old ctl (x.data.getD 1 0)
        let m := m.writePa pa bs
        (none, m.sequence d k r x old (off / 16 * 16) (writeSlots off bs) []))

/-- The sequencer may take a further stamp (R41): it is less than 64 past the oldest one unanswered. -/
def RSet.room (r : RSet) : Bool := r.open_.all (fun o => decide ((r.stamp - o.1).toNat < 64))

/-- The writer's response to an update that every member has answered: an atomic's old value (R41 step 5, R409). -/
def Mach.answerUpdate (m : Mach) (d : DieId) (x : Msg) (old : Nat) : Mach :=
  m.respond d x 0 (if bits (x.data.headD 0).toNat 17 16 = 1 then [BitVec.ofNat 128 old] else [])

/-- The stamps of a set that no member has still to answer are over, and their writers get their responses. -/
def Mach.settleSet (m : Mach) (d : DieId) (set : BitVec 16) : Mach :=
  match m.rset d set with
  | none => m
  | some (k, r) =>
    let m := m.modDie d (fun y => { y with rsets := tput RSet.reset y.rsets k { r with open_ := r.open_.filter (fun o => !o.2.1.isEmpty) } })
    (r.open_.filter (fun o => o.2.1.isEmpty)).foldl (fun (m : Mach) o => m.answerUpdate d o.2.2.1 o.2.2.2) m

/-- REPLICATED_PAGE_UPDATE (R41): at the set's sequencer die; with a stamp unanswered that is 64 back, or without tags for its
members, the update waits. In a set without members no answer is to come. -/
def execReplicatedPageUpdate (x : Msg) (s : State) : Host.Outcome State Fault Refusal :=
  .next (s.onM (fun m =>
    match m.rset x.ddie ((x.data.headD 0).extractLsb' 0 16) with
    | some (k, r) =>
      if r.pkg = m.pkg && r.die = x.ddie then
        if !r.room || !m.tagRoom x.ddie r.replicas then m
        else (m.perform (x.op = 0x30) x (fun m => m.update k r x)).settleSet x.ddie r.set
      else m.perform (x.op = 0x30) x (fun m => (some (4, []), m))
    | none => m.perform (x.op = 0x30) x (fun m => (some (4, []), m))))

/-- OP 0x32: a member has applied an update. -/
def appliedMsg (m : Mach) (d : DieId) (x : Msg) : Msg := { respMsg m d x 0 [] with op := 0x32, addr := 0, cls := 0, sz := false }

/-- A member applies an update to its replica, if its tables grant it, and answers (R41 step 4, R52). -/
def Mach.applyUpdate (m : Mach) (d : DieId) (x : Msg) : Mach :=
  let off := bits x.addr.toNat 37 0
  let l := slotRuns (hbmPa d off) (x.data.drop 1)
  let (ok, m) := m.checkGrant (hbmPa d off) (m.masterOf x) .write (decide (x.spkg ≠ m.pkg))
  let m := if ok && l.all (fun r => m.owns d r.1 r.2.length) then m.writeRuns (hbmPa d off) (m.msgPois x) l else m
  m.emit d (appliedMsg m d x)

def updateStamp (x : Msg) : Word := (x.data.headD 0).extractLsb' 32 32

/-- Updates held that are next in stamp order. -/
def Mach.drainEarly (m : Mach) (d : DieId) (key : Nat) : Nat → Mach
  | 0 => m
  | fuel + 1 =>
    let q := tget RMem.reset m.rmems key
    match q.early.find? (fun y => updateStamp y = q.next) with
    | none => m
    | some y =>
      ({ m with rmems := tput RMem.reset m.rmems key ⟨q.next + 1, q.early.erase y⟩ }.applyUpdate d y).drainEarly d key fuel

/-- SEQUENCED_UPDATE (R41 step 4): an update that comes early and finds 64 held stays in its channel buffer. -/
def execSequencedUpdate (x : Msg) (s : State) : Host.Outcome State Fault Refusal :=
  .next (s.onM (fun m =>
    let d := x.ddie
    let key := rmemKey ((x.data.headD 0).extractLsb' 0 16) d
    let q := tget RMem.reset m.rmems key
    let st := updateStamp x
    let early := st ≠ q.next && decide ((st - q.next).toNat < 2 ^ 31)
    if x.op ≠ 0x31 || x.dpkg ≠ m.pkg || (early && decide (64 ≤ q.early.length)) then m
    else
      match m.take d x with
      | none => m
      | some (_, m) =>
        if st = q.next then
          ({ m with rmems := tput RMem.reset m.rmems key { q with next := st + 1 } }.applyUpdate d x).drainEarly d key 64
        else if early then { m with rmems := tput RMem.reset m.rmems key { q with early := q.early ++ [x] } }
        else m.emit d (appliedMsg m d x)))

/-! ### Responses, retires (R32) -/

/-- The tag record a response answers. -/
def Mach.tagOf (m : Mach) (d : DieId) (x : Msg) (retiring : Bool) : Option TagRec :=
  (m.die d).tags.find? (fun g => g.dpkg = x.spkg && g.ddie = x.sdie && g.tag = x.tag && g.retiring = retiring)

/-- The retire, or its acknowledgement, that answers a message (R409). -/
def backMsg (m : Mach) (d : DieId) (x : Msg) (op : BitVec 6) : Msg :=
  { blankMsg with op := op, tag := x.tag, sagent := x.sagent, spkg := m.pkg, sdie := d, dpkg := x.spkg, ddie := x.sdie }

/-- The tag's answer has come: its retire goes out. -/
def Mach.retireTag (m : Mach) (d : DieId) (x : Msg) (g : TagRec) : Mach :=
  (m.modDie d (fun y => { y with tags := y.tags.map (fun h => if h = g then { h with retiring := true } else h) })).emit d (backMsg m d x 0x39)

/-- RESPONSE (R32): taken for its outstanding tag, else discarded and logged. -/
def execResponse (x : Msg) (s : State) : Host.Outcome State Fault Refusal :=
  .next (s.onM (fun m =>
    let d := x.ddie
    if x.op ≠ 0x38 || x.dpkg ≠ m.pkg then m
    else
      match m.take d x with
      | none => m
      | some (_, m) =>
        match m.tagOf d x false with
        | some g => (m.retireTag d x g).deliver d g.agent g.place (x.addr.toNat % 256) (slotsNat x.data)
        | none => m.stray d x))

/-- A member has answered a stamp (R41 step 5). -/
def Mach.finishStamp (m : Mach) (d : DieId) (set : BitVec 16) (stamp : Word) (who : BitVec 12 × DieId) : Mach :=
  match m.rset d set with
  | none => m
  | some (k, r) =>
    let step := fun (o : Word × List (BitVec 12 × DieId) × Msg × Nat) => if o.1 = stamp then (o.1, o.2.1.erase who, o.2.2) else o
    (m.modDie d (fun y => { y with rsets := tput RSet.reset y.rsets k { r with open_ := r.open_.map step } })).settleSet d set

/-- REPLICA_APPLIED (R41 step 5). The tag of OP 0x31 is the sequencer die's: OP 0x32 answers it, and OP 0x39 and 0x3A then
free it, as R32 has it for a response (log 120). -/
def execReplicaApplied (x : Msg) (s : State) : Host.Outcome State Fault Refusal :=
  .next (s.onM (fun m =>
    let d := x.ddie
    if x.op ≠ 0x32 || x.dpkg ≠ m.pkg then m
    else
      match m.take d x with
      | none => m
      | some (_, m) =>
        match m.tagOf d x false with
        | some g =>
          (match g.agent with
           | .update set stamp => (m.retireTag d x g).finishStamp d set stamp (x.spkg, x.sdie)
           | _ => m.stray d x)
        | none => m.stray d x))

/-- TAG_RETIRE (R32): the entry is freed and the retire acknowledged. -/
def execTagRetire (x : Msg) (s : State) : Host.Outcome State Fault Refusal :=
  .next (s.onM (fun m =>
    let d := x.ddie
    if x.op ≠ 0x39 || x.dpkg ≠ m.pkg then m
    else
      match m.take d x with
      | none => m
      | some (_, m) => (m.modDie d (fun y => { y with comp := y.comp.filter (fun c => !fromSame x c) })).emit d (backMsg m d x 0x3A)))

/-- RETIRE_ACKNOWLEDGED (R32): the tag can be used again, by a request that waits for one. -/
def execRetireAcknowledged (x : Msg) (s : State) : Host.Outcome State Fault Refusal :=
  .next (s.onM (fun m =>
    let d := x.ddie
    if x.op ≠ 0x3A || x.dpkg ≠ m.pkg then m
    else
      match m.take d x with
      | none => m
      | some (_, m) =>
        match m.tagOf d x true with
        | some g => (m.modDie d (fun y => { y with tags := y.tags.filter (fun h => h ≠ g) })).sendWaiting d
        | none => m))

/-! ### Launch groups: what other packages ask and report (R98, R99, R124) -/

/-- The dispatched launch of a group. -/
def Mach.groupLaunch (m : Mach) (lgid : BitVec 16) : Option Launch :=
  m.launches.findSome? (fun x => match x.2 with
    | some l => if l.lgid = lgid && lgid ≠ 0 && l.await.isEmpty && !l.complete && !l.exported then some l else none
    | none => none)

def Mach.groupMember (m : Mach) (lgid : BitVec 16) (pkg : BitVec 12) : Bool :=
  m.groups.any (fun g => g.2.lgid = lgid && g.2.members.contains pkg) && pkg ≠ m.pkg

/-- STEAL_REQUEST (R98): another package of the group takes half of the largest remaining range. -/
def execStealRequest (lgid : BitVec 16) (pkg : BitVec 12) (s : State) : Host.Outcome State Fault Refusal :=
  .next (s.onM (fun m =>
    match m.groupLaunch lgid with
    | none => m
    | some l =>
      let best := (List.range 4).foldl (fun (b : DieId × Nat) k =>
        let n := m.teamsLeft l.lid (BitVec.ofNat 2 k)
        if b.2 < n then (BitVec.ofNat 2 k, n) else b) (0, 0)
      if !m.groupMember lgid pkg || best.2 < 2 then m
      else
        match (m.die best.1).ticketOf l.lid with
        | none => m
        | some (_, t) =>
          let n := best.2 / 2
          let own := ((List.range n).map (fun k => t.stop - n + k)).filter (fun j => decide (l.teamLo ≤ j ∧ j < l.teamHi))
          let m := m.setTicket best.1 l.lid (fun t => { t with stop := t.stop - n })
          m.setLaunch l.lid (some { l with away := l.away ++ own, owed := l.owed ++ own })))

/-- REMOTE_TEAM_RETIRED (R99, R124): another package reports that a team it stole has retired, or is confirmed. -/
def execRemoteTeamRetired (lid team : Word) (confirmed : Bool) (faulted : Option Word) (s : State) :
    Host.Outcome State Fault Refusal :=
  .next (s.onM (fun m =>
    match m.launch lid with
    | none => m
    | some l =>
      let j := team.toNat
      if confirmed then
        (if l.away.contains j then m else m.setLaunch lid (some { l with owed := l.owed.erase j }))
      else if !l.away.contains j then m
      else
        let low := match faulted, l.low with
          | some i, some k => some (Nat.min k i.toNat)
          | some i, none => some i.toNat
          | none, k => k
        let m := m.setLaunch lid (some { l with away := l.away.erase j, retired := l.retired + l.itemsIn j (j + 1), low := low })
        m.settleLaunch lid))

end Sys2Proof.Machine
end

