-- ==== Sys2Proof/Machine/Leases.lean ====
section
/-! DEFINITION. Vet checks (R113-R129): the leases of tiles, modules, ports and channels from the rotation to RETURNED or
RETIRED, recalls, drop records, suspicion scores at the end of a period; and the patrol scrubber (R136, R137). -/
namespace Sys2Proof.Machine

/-! ### Lease entries (R114) -/

def LeaseRec.cause (r : LeaseRec) : Nat := bits r.d0.toNat 17 16
def LeaseRec.setState (r : LeaseRec) (st : Nat) : LeaseRec := { r with d0 := setBits r.d0 3 0 st }

def Mach.entry (m : Mach) (d : DieId) (n : Nat) : LeaseRec := tget LeaseRec.free (m.die d).leases n
def Mach.modEntry (m : Mach) (d : DieId) (n : Nat) (f : LeaseRec → LeaseRec) : Mach :=
  m.modDie d (fun y => { y with leases := tmod LeaseRec.free y.leases n f })

/-- The unit of an entry of a die's table. -/
def LeaseRec.unit (r : LeaseRec) (d : DieId) : UnitId := unitNamed (kindOf (bits r.d0.toNat 5 4)) (r.d0.extractLsb' 8 8) d

/-! ### Scheduling (R113, R115, R122) -/

/-- The units of a kind that a die's scheduler leases, in ascending order. -/
def unitsOf (d : DieId) (k : UnitKind) : List UnitId :=
  ((List.range 256).map (fun n => unitNamed k (BitVec.ofNat 8 n) d)).filter (fun u => unitExists u && unitDie u = d)

/-- The default rotation period of a kind in ms (R113). -/
def periodDefault : UnitKind → Nat
  | .tile => 1000
  | .module => 10000
  | .port => 10000
  | .channel => 60000

/-- The rotation period of a kind in cycles of 1.6 GHz. -/
def Mach.periodCycles (m : Mach) (k : UnitKind) : Nat :=
  let v := tget 0 m.periods (kindCode k)
  (if v = 0 then periodDefault k else v) * 1600000

/-- The unit whose turn it is in the rotation: the first from the die's position on that is not retired; after the last one a new
rotation begins with the first, one period after this one began (log 142). -/
def Mach.rotationTurn (m : Mach) (d : DieId) (k : UnitKind) : Option UnitId :=
  let at_ := tget 0 (m.die d).rotNext (kindCode k)
  let us := (unitsOf d k).filter (fun u => !(m.unit u).retired)
  (us.find? (fun u => decide (at_ ≤ u.unit.toNat))).orElse (fun _ =>
    if m.periodCycles k ≤ (m.time - tget 0 (m.die d).rotAt (kindCode k)).toNat then us.head? else none)

/-- A unit's turn has been taken; the first of a rotation starts its period. -/
def Mach.turnTaken (m : Mach) (u : UnitId) : Mach :=
  let k := kindCode u.kind
  m.modDie (unitDie u) (fun y =>
    let first := decide (tget 0 y.rotNext k = 0 ∨ u.unit.toNat < tget 0 y.rotNext k)
    { y with rotAt := if first then tput 0 y.rotAt k m.time else y.rotAt, rotNext := tput 0 y.rotNext k (u.unit.toNat + 1) })

/-- ROTATION_DUE (R113): a unit's rotation lease falls due in ascending order; one that has a lease already waits. -/
def execRotationDue (u : UnitId) (s : State) : Host.Outcome State Fault Refusal :=
  .next (if s.fw.boot ≠ .ready then s else s.onM (fun m =>
    if m.rotationTurn (unitDie u) u.kind ≠ some u || m.leasePending u then m
    else
      match m.schedule u 0 with
      | (none, m) => m
      | (some _, m) => m.turnTaken u))

/-- Other units of a set under lease. -/
def Mach.othersLeased (m : Mach) (u : UnitId) (l : List UnitId) : Nat := (l.filter (fun v => v ≠ u && m.onLease v)).length

/-- The port is the only ACTIVE candidate of a valid routing entry on its die (R119). -/
def Mach.onlyCandidate (m : Mach) (p : BitVec 6) : Bool :=
  let d := (portEnd p).die
  (m.die d).routing.any (fun e =>
    let l := m.candidates d (BitVec.ofNat 12 e.1)
    e.2.getLsbD 31 && !l.isEmpty && l.all (fun q => decide (q = p)))

/-- May the unit's lease enter DRAINING (R112, R113, R119). -/
def Mach.eligible (m : Mach) (u : UnitId) : Bool :=
  match u.kind with
  | .tile =>
    let t : TileId := u.unit
    let c := Sys2Proof.TileId.cluster t
    m.othersLeased u ((tilesOf c).map tileUnit) = 0 && (m.tile t).service = .inService && (m.clu c).order.isNone &&
      !m.inExchange (tilesOf c) &&
      (match (m.tile t).bind with
        | some b => (m.clu c).resident = some b.part
        | none => true)
  | .module =>
    let k := u.unit.toNat
    m.othersLeased u ((List.range 12).map moduleUnit) = 0 &&
      decide ((tget Link.reset m.modules (if k % 2 = 0 then k + 1 else k - 1)).st = .active) &&
      ((tget Link.reset m.modules k).st = .active || (tget Link.reset m.modules k).st = .down)
  | .port =>
    let st := (tget Link.reset m.ports u.unit.toNat).st
    m.othersLeased u (unitsOf u.die .port) < 2 && (st = .active || st = .down) && !m.onlyCandidate (u.unit.setWidth 6)
  | .channel => m.othersLeased u ((unitsOf u.die .channel).filter (fun v => v.unit.toNat / 32 = u.unit.toNat / 32)) = 0

/-- An early or confirmation lease of the die could start (R122). -/
def Mach.urgent (m : Mach) (d : DieId) : Bool :=
  (m.die d).leases.any (fun x => leaseState x.2 = 1 && (x.2.cause = 1 || x.2.cause = 2) && m.eligible (x.2.unit d))

/-- LEASE_DRAIN_START (R33, R115, R117, R119): a module or port takes no new messages, and is LEASED at once if DOWN. -/
def execLeaseDrainStart (die : DieId) (n : Byte) (s : State) : Host.Outcome State Fault Refusal :=
  .next (if !s.orders then s else s.onM (fun m =>
    let r := m.entry die n.toNat
    let u := r.unit die
    if leaseState r ≠ 1 || !m.eligible u || (r.cause = 0 && m.urgent die) then m
    else
      let m := (m.modEntry die n.toNat (fun r => r.setState 2)).modUnit u (fun x =>
        { x with drainAt := m.time, slices := 0, slicing := false })
      let start := fun (k : Link) => { k with st := if k.st = .down then LinkSt.leased else .draining }
      match u.kind with
      | .tile => m
      | .module => { m with modules := tmod Link.reset m.modules u.unit.toNat start }
      | .port => { m with ports := tmod Link.reset m.ports u.unit.toNat start }
      | .channel => m))

/-- TILE_DRAIN_GRACE_EXPIRY (R117): an item still running 200 µs after DRAINING began is pre-empted. -/
def execTileDrainGraceExpiry (die : DieId) (n : Byte) (s : State) : Host.Outcome State Fault Refusal :=
  .next (if !s.orders then s else s.onM (fun m =>
    let r := m.entry die n.toNat
    let u := r.unit die
    if leaseState r = 2 && u.kind = .tile && m.graceOver u.unit then m.preemptTile u.unit else m))

/-! ### TESTING (R115-R120) -/

/-- Both ends of a link have had every flit acknowledged. -/
def Link.drained (k : Link) : Bool :=
  (k.st = .draining || k.st = .leased || k.st = .down) && k.lo.held.isEmpty && k.hi.held.isEmpty

/-- The unit carries no traffic of any partition. -/
def Mach.drained (m : Mach) (u : UnitId) : Bool :=
  match u.kind with
  | .tile =>
    let x := m.tile u.unit
    x.bind.isNone && (m.thr u.unit).sup.isNone && !x.halting && !x.exchanging
  | .module => (tget Link.reset m.modules u.unit.toNat).drained
  | .port => (tget Link.reset m.ports u.unit.toNat).drained
  | .channel => (m.unit u).slicing

/-- What patterns leave of a tile's store and accumulator file (R116): free values, of words written whole. -/
def Mach.runPatterns (m : Mach) (t : TileId) : Mach :=
  let m := m.dropMarks (ofCtx t)
  (m.modCtx t (fun c =>
    { c with
      store := (Config.leftStore m.fresh).foldl (fun (s : Memory) p => Memory.setByte s (p.1 % 2 ^ 20) p.2) [],
      storePois := [], accPois := [],
      acc := (Config.leftAcc m.fresh).foldl (fun (a : Tbl AqEntry) p => tput AqEntry.zero a (p.1 % 16384) p.2) [] })).bump

/-- LEASE_TESTING_START (R115, R117, R118). -/
def execLeaseTestingStart (die : DieId) (n : Byte) (s : State) : Host.Outcome State Fault Refusal :=
  .next (s.onM (fun m =>
    let r := m.entry die n.toNat
    let u := r.unit die
    if leaseState r ≠ 2 || !m.drained u then m
    else
      let m := m.modEntry die n.toNat (fun r => { r.setState 3 with tstart := m.time })
      let clear := fun (k : Link) =>
        { k with st := LinkSt.leased, lo := { k.lo with wire := [], resend := [] }, hi := { k.hi with wire := [], resend := [] } }
      match u.kind with
      | .tile =>
        ((m.modTile u.unit (fun x => { x with service := .leased })).runPatterns u.unit).capacity (Sys2Proof.TileId.cluster u.unit)
      | .module => { m with modules := tmod Link.reset m.modules u.unit.toNat clear }
      | .port => { m with ports := tmod Link.reset m.ports u.unit.toNat clear }
      | .channel => m))

/-- HBM_TEST_SLICE_START (R113, R120): at most 500 slices, at least 100 µs apart; requests for the channel wait and nothing
faults. -/
def execHbmTestSliceStart (die : DieId) (n : Byte) (s : State) : Host.Outcome State Fault Refusal :=
  .next (s.onM (fun m =>
    let r := m.entry die n.toNat
    let u := r.unit die
    let x := m.unit u
    if (leaseState r = 2 || leaseState r = 3) && u.kind = .channel && !x.slicing && decide (x.slices < 500) &&
        (x.slices = 0 || decide (160000 ≤ (m.time - x.drainAt).toNat)) then
      m.modUnit u (fun x => { x with slicing := true, slices := x.slices + 1 })
    else m))

/-- HBM_TEST_SLICE_END (R120): the held requests are released. -/
def execHbmTestSliceEnd (die : DieId) (n : Byte) (s : State) : Host.Outcome State Fault Refusal :=
  .next (s.onM (fun m =>
    let r := m.entry die n.toNat
    let u := r.unit die
    if leaseState r = 3 && u.kind = .channel && (m.unit u).slicing then
      m.modUnit u (fun x => { x with slicing := false, drainAt := m.time })
    else m))

/-! ### RETURNED (R115, R124, R125) -/

/-- A confirmation lease that R122 owes, which takes the place of a lease still SCHEDULED. -/
def Mach.confirm (m : Mach) (u : UnitId) : Mach :=
  match (m.unit u).lease with
  | some n => m.modEntry (unitDie u) n (fun r =>
      if leaseState r = 1 then
        { r with d0 := setBits (setBits (setBits r.d0 17 16 2) 31 24 0xFF) 39 32 (m.unit u).score.toNat }
      else r)
  | none => (m.schedule u 2).2

/-- A tile's lease ended RETURNED: it counts as returned for every launch, and its log entries are freed. -/
def Mach.tileReturned (m : Mach) (t : TileId) : Mach :=
  let back := fun (l : Launch) => { l with tiles := ndel t.toNat l.tiles }
  let m := { m with launches := tmap none (fun _ (o : Option Launch) => o.map back) m.launches }
  m.modDie t.die (fun y =>
    { y with clog := y.clog.filter (fun r => r.tile ≠ t),
             whole := y.whole.map (fun (w : Word × NSet) => (w.1, ndel t.toNat w.2)) })

/-- The unit is back in service (R33, R115, R118, R119). -/
def Mach.giveBack (m : Mach) (u : UnitId) : Mach :=
  let train := fun (k : Link) =>
    { k with st := LinkSt.retrain, retrainAt := m.time, x32 := false, lo := k.lo.fresh, hi := k.hi.fresh }
  match u.kind with
  | .tile =>
    (((m.modTile u.unit (fun x => { x with service := .inService, idleAt := m.time })).tileReturned u.unit).capacity
      (Sys2Proof.TileId.cluster u.unit)).sched
  | .module => { m with modules := tmod Link.reset m.modules u.unit.toNat train }
  | .port => { m with ports := tmod Link.reset m.ports u.unit.toNat train }
  | .channel => m

/-! ### RETIRED (R115, R123-R129) -/

/-- The runs of item indices of a launch that a tile has executed since its last return, or none where only the full range
can be named (R125, R126). -/
def Die.runsOf (y : Die) (lid : Word) (t : TileId) : Option (List (Word × Word)) :=
  if y.whole.any (fun w => w.1 = lid && nhas w.2 t.toNat) then none
  else
    let l := (y.clog.filter (fun r => r.lid = lid && r.tile = t)).map (fun r => (r.first, r.count))
    if 504 < l.length then none else some l

/-- A recall record (R126). -/
def recallBytes (idx : Nat) (l : Launch) (runs : Option (List (Word × Word))) (t : TileId) (time : Dword) : List Byte :=
  let rs := runs.getD [(BitVec.ofNat 32 l.first, BitVec.ofNat 32 l.count)]
  let dw := fun (n : Nat) => toBytes 8 n
  let head := dw (0x52434C4C + 2 ^ 32) ++ dw (idx % 2 ^ 40) ++ dw (l.lid.toNat * 2 ^ 32 + rs.length) ++ dw l.conf.toNat ++
    dw (b2n runs.isNone * 2 ^ 12 + l.part.toNat * 2 ^ 8 + t.toNat) ++ dw time.toNat ++ List.replicate 16 0
  (head ++ rs.flatMap (fun (r : Word × Word) => dw (r.2.toNat * 2 ^ 32 + r.1.toNat)) ++ List.replicate 4032 0).take 4096

/-- One recall: the record is written, and CONF receives FAIL with RECALL (R124, R126). -/
def Mach.recall (m : Mach) (t : TileId) (l : Launch) : Mach :=
  let idx := m.nextRecall
  let m := { m with recalls := tput [] m.recalls (idx % 256) (recallBytes idx l ((m.die t.die).runsOf l.lid t) t m.time),
                    nextRecall := idx + 1 }
  m.confSignal l (.fail (statusVal 3 (idx % 2 ^ 40)))

/-- Every launch with provisional results from a retired tile is recalled. -/
def Mach.recallAll (m : Mach) (t : TileId) : Mach :=
  let ls := m.launches.filterMap (fun x => match x.2 with
    | some l => if l.conf ≠ 0 && nhas l.tiles t.toNat then some l else none
    | none => none)
  ls.foldl (fun (m : Mach) l => m.recall t l) m

/-- The failing symbols that patterns found enter the known-bad tables, in entries not in use (R16, R123). Only Herder firmware
writes the tables. -/
def Mach.noteBad (m : Mach) (d : DieId) (ch : Byte) : Mach :=
  ((Config.failedSymbols m.fresh).foldl (fun (m : Mach) x =>
    let base := rankKey ⟨d, ch.setWidth 7, x.1⟩
    let v := x.2 ||| 0x8000
    let free := (List.range 16).find? (fun k => (tget 0 m.knownBad (base + k)).getLsbD 15 = false)
    let known := (List.range 16).any (fun k => tget 0 m.knownBad (base + k) = v)
    match free with
    | some k => if knownBadOk v && !known then { m with knownBad := tput 0 m.knownBad (base + k) v } else m
    | none => m) m).bump

/-- The unit leaves service for good (R33, R118, R119, R123). Where no Herder runs (`up` false), no known-bad table is written
(R16; log 150). -/
def Mach.takeAway (m : Mach) (u : UnitId) (up : Bool) : Mach :=
  let m := m.outOfService u
  match u.kind with
  | .tile => ((m.recallAll u.unit).capacity (Sys2Proof.TileId.cluster u.unit)).sched
  | .channel => (if up then m.noteBad u.die u.unit else m).alert 0x17
  | _ => m

/-- A lease ends without RETIRED: its entry, its score, the unit back in service, and a confirmation lease owed. -/
def Mach.endReturned (m : Mach) (u : UnitId) (d : DieId) (n : Nat) : Mach :=
  let owed := (m.unit u).owed
  let m := (m.modEntry d n (fun r => r.setState 7)).modUnit u (fun x => { x with owed := false, slicing := false })
  let m := m.giveBack u
  if owed then m.confirm u else m

/-- A lease ends in RETIRED: the unit leaves service at once, its drop record waits to be committed (R129). -/
def State.endRetired (s : State) (u : UnitId) (r : LeaseRec) (n : Nat) (synd : Dword) : State :=
  let s := s.onM (fun m => (m.modUnit u (fun x => { x with owed := false, slicing := false })).takeAway u (s.fw.boot = .ready))
  (s.dropRecord u r.cause 8 (bits r.d0.toNat 31 24) n synd (Config.patternBytes s.m.fresh)).onM Mach.bump

/-- PATTERN_RUN_COMPLETE (R115, R121). -/
def execPatternRunComplete (die : DieId) (n : Byte) (out : RunOutcome) (last : Bool) (s : State) :
    Host.Outcome State Fault Refusal :=
  let r := s.m.entry die n.toNat
  let u := r.unit die
  let stop := fun (s : State) (st : Nat) (synd : Dword) =>
    s.onM (fun m => (m.modEntry die n.toNat (fun r => { r.setState st with tend := m.time, synd := synd })).modUnit u (fun x =>
      { x with lease := none }))
  .next (if leaseState r ≠ 3 || (u.kind = .channel && !(s.m.unit u).slicing) then s
  else
    match out with
    | .pass =>
      if !last then s
      else
        (stop s 4 0).onM (fun m =>
          let m := if r.cause = 2 then m.modUnit u (fun x => { x with score := 128 }) else m
          m.endReturned u die n.toNat)
    | .marginal synd =>
      let s := stop s 5 synd
      if r.cause = 2 then
        let s := s.onM (fun m => (m.modUnit u (fun x => { x with retired := true })).charge u 14 48)
        s.endRetired u r n.toNat synd
      else s.onM (fun m => (m.charge u 14 48).endReturned u die n.toNat)
    | .fail synd => (stop s 6 synd).endRetired u r n.toNat synd)

/-- DROP_RECORD_COMMIT (R123, R129): the oldest record goes into its flash slot; a retirement is then shown in its lease
entry and kept with the retired set in flash, and a return (STATE 7) takes the unit out of that set. -/
def execDropRecordCommit (s : State) : Host.Outcome State Fault Refusal :=
  .next (match s.fw.dropsHeld with
    | [] => s
    | x :: rest =>
      let d0 := ofBytes (x.bytes.take 8)
      let d4 := ofBytes ((x.bytes.drop 32).take 8)
      let die := BitVec.ofNat 2 (bits d4 9 8)
      let u := unitNamed (kindOf (bits d0 42 40)) (BitVec.ofNat 8 (bits d4 7 0)) die
      let fw := { s.fw with dropsHeld := rest, dropsFlash := tput ⟨0, []⟩ s.fw.dropsFlash (x.seq % 1024) x }
      if bits d0 51 48 = 7 then
        { s with fw := { fw with
            retiredFlash := ndel (unitKey u) fw.retiredFlash,
            withheldFlash := if u.kind = .channel then ndel (u.die.toNat * 96 + u.unit.toNat) fw.withheldFlash else fw.withheldFlash } }
      else if bits d0 51 48 = 8 then
        { s with fw := { fw with retiredFlash := nins (unitKey u) fw.retiredFlash },
                 m := s.m.modEntry (unitDie u) (bits d4 31 24) (fun r =>
                   if (leaseState r = 5 || leaseState r = 6) && r.unit die = u then r.setState 8 else r) }
      else { s with fw := fw })

/-- ROTATION_PERIOD_END (R122, R128): at the end of the kind's rotation period every score of the kind is noted and halved. -/
def execRotationPeriodEnd (kind : UnitKind) (s : State) : Host.Outcome State Fault Refusal :=
  .next (s.onM (fun m =>
    let k := kindCode kind
    let at_ := tget 0 m.periodAt k
    if (m.time - at_).toNat < m.periodCycles kind then m
    else
      ((List.range 4).flatMap (fun d => unitsOf (BitVec.ofNat 2 d) kind)).foldl (fun (m : Mach) u =>
        m.modUnit u (fun x => { x with hist := List.drop (x.hist.length + 1 - 256) (x.hist ++ [x.score]), score := x.score >>> 1 }))
        { m with periodAt := tput 0 m.periodAt k (at_ + BitVec.ofNat 64 (m.periodCycles kind)) }))

/-! ### The patrol scrubber (R13, R15, R136, R137) -/

/-- A kennel slot that holds no image is not scrubbed; every other SRAM word is. -/
def Mach.scrubbed (m : Mach) (w : SramWord) : Bool :=
  match w with
  | .kennel t _ => (m.tile t).kennel.isSome
  | _ => true

/-- SRAM_SCRUB_READ (R136, R137): an error is counted and charged as at any read; a correction waits to be written back. -/
def execSramScrubRead (w : SramWord) (s : State) : Host.Outcome State Fault Refusal :=
  .next (s.onM (fun m =>
    if !m.scrubbed w || m.scrubs.contains (.word w) then m
    else
      let fixable := m.sram1.contains w && !m.sram2.contains w
      let m := m.decodeSram w
      if fixable then { m with sram1 := w :: m.sram1, scrubs := m.scrubs ++ [.word w] } else m))

/-- The sector that the scrubber reads next on a channel: it alternates between the pseudo-channels, of which the first has
four sectors more. -/
def scrubSector (d : DieId) (ch : BitVec 7) (pos : Nat) : Nat :=
  let base := 3 * (ch.toNat % 32) + ch.toNat / 32
  let tail := pos % 2 = 1 ∧ 11718748 ≤ pos / 2
  let pc := if tail then 0 else pos % 2
  let k := if tail then pos / 2 + 2 else pos / 2
  let stripe := 2 * (k / 4) + pc
  hbmPa d ((stripe * 96 + base) * 256 + k % 4 * 64) / 64

/-- HBM_SCRUB_READ (R136): one sector of the channel's 23,437,500. -/
def execHbmScrubRead (die : DieId) (ch : BitVec 7) (s : State) : Host.Outcome State Fault Refusal :=
  .next (if 96 ≤ ch.toNat then s
  else s.onM (fun m =>
    let key := die.toNat * 96 + ch.toNat
    let pos := tget 0 m.scrubPos key
    let sec := scrubSector die ch pos
    let m := { m with scrubPos := tput 0 m.scrubPos key ((pos + 1) % 23437500) }.countSectors 0x20 (sec * 64) 64
    let errs := tget [] m.symErr sec
    if errs.isEmpty || m.scrubs.contains (.sector sec) then m
    else
      let x := m.decodeSector sec
      if nhas x.poisS sec || x.mem ≠ m.mem then x
      else { x with symErr := tput [] x.symErr sec errs, scrubs := x.scrubs ++ [.sector sec] }))

/-- SCRUB_WRITEBACK (R137): the oldest correction is written; after a program write, or another read's correction, of the
same place nothing is left for it to do. -/
def execScrubWriteback (s : State) : Host.Outcome State Fault Refusal :=
  .next (s.onM (fun m =>
    match m.scrubs with
    | [] => m
    | .word w :: rest => { m with scrubs := rest, sram1 := m.sram1.filter (fun x => x ≠ w) }
    | .sector sec :: rest => { m with scrubs := rest, symErr := tput [] m.symErr sec [] }.countSectors 0x21 (sec * 64) 64))

end Sys2Proof.Machine
end

