-- ==== Sys2Proof/Machine/Vx.lean ====
section
/-! DEFINITION. The vector operators (R362-R380): alignment of runs, element-wise operators on fp32, bf16 and i32,
conversions, reductions over a run, and movement. -/
namespace Sys2Proof.Machine

/-! ### Alignment (R365) -/

/-- Is the run of a window operand that begins at `i` aligned; none: its first element is outside the window. -/
def runAligned (v : Env) (w : Window) (o : Operand) (width : Nat) (i : Ix) : Option Bool :=
  if o.st0 = 0 then some true
  else if bits o.map.toNat 1 0 ≠ 0 ∨ o.st0 ≠ 1 then some false
  else (w.elemAt v.charea (operandCoords o i) width).map (fun a => decide (a.1 % 256 = 0))

/-- The operands whose runs are checked, with their widths. -/
def alignedOps (m : Mach) (t : TileId) (code : Nat) (b : Block) : List (Operand × Nat) :=
  let once := code = 0x243 ∨ code = 0x244 ∨ (0x250 ≤ code ∧ code ≤ 0x252)
  let rd := fun (o : Operand) => (o, fmtWidth (rdFmt m t o))
  ((if once then [] else [(b.op0, fmtWidth (wrFmt m t b.op0))]) ++ (if code = 0x261 then [] else [rd b.op1]) ++
    [rd b.op2, rd b.op3]).filter (fun x => x.1.kind = 1)

def alignCheck (code : Nat) (m : Mach) (v : Env) (its : List Ix) : StepM Unit := do
  if v.b.ma then return ()
  else do
    let ops := alignedOps m v.t code v.b
    let _ ← (its.filter (fun i => i.1 = 0)).mapM (fun i => ops.mapM (fun (x : Operand × Nat) =>
      match runAligned v ((m.ctx v.t).win x.1.index.toNat) x.1 x.2 i with
      | none => stopWith .lbRange
      | some ok => need ok .vxAlign))
    return ()

/-- One step of a VX operator. -/
def vxStep (code : Nat) (b : Block) (body : Mach → Env → List Ix → StepM Unit) : BlockStep :=
  { code := code, b := b,
    body := fun m v its => do
      alignCheck code m v its
      body m v its }

/-! ### Element-wise execution (R367) -/

/-- Read every source of every iteration, then write every result; a poisoned source faults (R380). -/
def vxElems (v : Env) (its : List Ix) (srcs : List Operand) (f : Ix → List Nat → Nat × BitVec 16) : StepM Unit := do
  let xs ← its.mapM (fun i => do
    let l ← srcs.mapM (fun o => readOp v o i)
    return (i, l))
  need (xs.all (fun x => x.2.all (fun y => !y.2))) .lbPoison
  let _ ← xs.mapM (fun (x : Ix × List (Nat × Bool)) => do
    let (y, fl) := f x.1 (x.2.map (·.1))
    addFlags fl
    writeOp v v.b.op0 x.1 y false)
  return ()

/-- The operands in read positions. -/
def sources (b : Block) : List Operand := [b.op1, b.op2, b.op3].filter (fun o => o.kind ≠ 0)

/-- An FP operator (R368): inputs after FTZI, one rounding under RM, FTZO. -/
def vxFp (code : Nat) (b : Block) (f : Val → Val → Val → Val × BitVec 16) :
    BlockStep :=
  vxStep code b (fun m v its =>
    let f0 := wrFmt m v.t b.op0
    vxElems v its (sources b) (fun _ l =>
      let x := fun (k : Nat) => inVal f0 b.ftzi (l.getD k 0)
      outRes f0 b.rm false b.ftzo (f (x 0) (x 1) (x 2))))

/-- An approximation (R215, R216), to the format's bits, with FTZO. -/
def vxApprox (code : Nat) (b : Block) (f : FFmt → Val → Nat × BitVec 16) :
    BlockStep :=
  vxStep code b (fun m v its =>
    let f0 := wrFmt m v.t b.op0
    let g := if f0 = 1 then fp32 else bf16
    vxElems v its (sources b) (fun _ l => ftzOut (.flt g) b.ftzo (f g (inVal f0 b.ftzi (l.getD 0 0)))))

/-- An i32 operator (R371) on patterns and signed values. -/
def vxInt (code : Nat) (b : Block) (f : Word → Word → Word) : BlockStep :=
  vxStep code b (fun _ v its =>
    vxElems v its (sources b) (fun _ l =>
      ((f (BitVec.ofNat 32 (l.getD 0 0)) (BitVec.ofNat 32 (l.getD 1 0))).toNat, 0)))

/-- SH of R371. -/
def shOf (y : Word) : Nat := y.toNat % 32

/-! ### The FP operators (R368) -/

/-- vx.add (R368). -/
def vxAddStep (b : Block) : BlockStep := vxFp 0x201 b (fun x y _ => valAdd b.rm x y)

/-- vx.add (R368). -/
def execVxAdd (b : Block) (s : State) : Host.Outcome State Fault Refusal := (vxAddStep b).run s

/-- vx.sub (R368). -/
def vxSubStep (b : Block) : BlockStep := vxFp 0x202 b (fun x y _ => valAdd b.rm x y.neg')

/-- vx.sub (R368). -/
def execVxSub (b : Block) (s : State) : Host.Outcome State Fault Refusal := (vxSubStep b).run s

/-- vx.mul (R368). -/
def vxMulStep (b : Block) : BlockStep := vxFp 0x203 b (fun x y _ => valMul x y)

/-- vx.mul (R368). -/
def execVxMul (b : Block) (s : State) : Host.Outcome State Fault Refusal := (vxMulStep b).run s

/-- vx.fma (R368): one rounding. -/
def vxFmaStep (b : Block) : BlockStep := vxFp 0x204 b (fun x y z => valFma b.rm x y z)

/-- vx.fma (R368). -/
def execVxFma (b : Block) (s : State) : Host.Outcome State Fault Refusal := (vxFmaStep b).run s

/-- vx.min (R368, R212). -/
def vxMinStep (b : Block) : BlockStep := vxFp 0x205 b (fun x y _ => (valMin x y, 0))

/-- vx.min (R368, R212). -/
def execVxMin (b : Block) (s : State) : Host.Outcome State Fault Refusal := (vxMinStep b).run s

/-- vx.max (R368, R212). -/
def vxMaxStep (b : Block) : BlockStep := vxFp 0x206 b (fun x y _ => (valMax x y, 0))

/-- vx.max (R368, R212). -/
def execVxMax (b : Block) (s : State) : Host.Outcome State Fault Refusal := (vxMaxStep b).run s

/-- A value with its sign bit cleared. -/
def Val.abs' : Val → Val
  | .nan => .nan
  | .inf _ => .inf false
  | .num _ m e => .num false m e

/-- vx.abs (R368). -/
def vxAbsStep (b : Block) : BlockStep := vxFp 0x207 b (fun x _ _ => (x.abs', 0))

/-- vx.abs (R368). -/
def execVxAbs (b : Block) (s : State) : Host.Outcome State Fault Refusal := (vxAbsStep b).run s

/-- vx.neg (R368). -/
def vxNegStep (b : Block) : BlockStep := vxFp 0x208 b (fun x _ _ => (x.neg', 0))

/-- vx.neg (R368). -/
def execVxNeg (b : Block) (s : State) : Host.Outcome State Fault Refusal := (vxNegStep b).run s

/-- The relations of R369; a NaN operand satisfies only `ne`. -/
def relHolds (rel : Nat) (x y : Val) : Bool :=
  if x = .nan ∨ y = .nan then rel = 1
  else if rel = 0 then valEq x y
  else if rel = 1 then !valEq x y
  else if rel = 2 then valLt x y
  else if rel = 3 then valLt x y || valEq x y
  else if rel = 4 then valLt y x
  else valLt y x || valEq x y

/-- vx.cmp (R369). -/
def vxCmpStep (b : Block) : BlockStep :=
  vxStep 0x209 b (fun m v its =>
    let f1 := rdFmt m v.t b.op1
    vxElems v its (sources b) (fun _ l =>
      (b2n (relHolds (bits b.d15.toNat 2 0) (inVal f1 b.ftzi (l.getD 0 0)) (inVal f1 b.ftzi (l.getD 1 0))), 0)))

/-- vx.cmp (R369). -/
def execVxCmp (b : Block) (s : State) : Host.Outcome State Fault Refusal := (vxCmpStep b).run s

/-- vx.sel (R370, R380): the selected pattern moves with its poison. -/
def vxSelStep (b : Block) : BlockStep :=
  vxStep 0x20A b (fun _ v its => do
    let xs ← its.mapM (fun i => do
      let x ← readOp v b.op1 i
      let y ← readOp v b.op2 i
      let k ← readOp v b.op3 i
      return (i, x, y, k))
    need (xs.all (fun x => !x.2.2.2.2)) .lbPoison
    let _ ← xs.mapM (fun (x : Ix × (Nat × Bool) × (Nat × Bool) × (Nat × Bool)) =>
      let r := if x.2.2.2.1 ≠ 0 then x.2.1 else x.2.2.1
      writeOp v b.op0 x.1 r.1 r.2)
    return ())

/-- vx.sel (R370, R380). -/
def execVxSel (b : Block) (s : State) : Host.Outcome State Fault Refusal := (vxSelStep b).run s

/-- vx.clamp (R368). -/
def vxClampStep (b : Block) : BlockStep := vxFp 0x20B b (fun x y z => (valMin (valMax x y) z, 0))

/-- vx.clamp (R368). -/
def execVxClamp (b : Block) (s : State) : Host.Outcome State Fault Refusal := (vxClampStep b).run s

/-- vx.sqrt (R368). -/
def vxSqrtStep (b : Block) : BlockStep := vxFp 0x20C b (fun x _ _ => valSqrt x)

/-- vx.sqrt (R368). -/
def execVxSqrt (b : Block) (s : State) : Host.Outcome State Fault Refusal := (vxSqrtStep b).run s

/-- vx.rcpa (R215, R216, R368). -/
def vxRcpaStep (b : Block) : BlockStep := vxApprox 0x20D b rcpa

/-- vx.rcpa (R215, R216, R368). -/
def execVxRcpa (b : Block) (s : State) : Host.Outcome State Fault Refusal := (vxRcpaStep b).run s

/-- vx.rsqa (R215, R216, R368). -/
def vxRsqaStep (b : Block) : BlockStep := vxApprox 0x20E b rsqa

/-- vx.rsqa (R215, R216, R368). -/
def execVxRsqa (b : Block) (s : State) : Host.Outcome State Fault Refusal := (vxRsqaStep b).run s

/-- vx.exp2a (R215, R216, R368). -/
def vxExp2aStep (b : Block) : BlockStep := vxApprox 0x20F b exp2a

/-- vx.exp2a (R215, R216, R368). -/
def execVxExp2a (b : Block) (s : State) : Host.Outcome State Fault Refusal := (vxExp2aStep b).run s

/-- vx.log2a (R215, R216, R368). -/
def vxLog2aStep (b : Block) : BlockStep := vxApprox 0x210 b log2a

/-- vx.log2a (R215, R216, R368). -/
def execVxLog2a (b : Block) (s : State) : Host.Outcome State Fault Refusal := (vxLog2aStep b).run s

/-! ### Integer operators (R371, R372) -/

/-- vx.iadd (R371). -/
def vxIaddStep (b : Block) : BlockStep := vxInt 0x220 b (fun x y => x + y)

/-- vx.iadd (R371). -/
def execVxIadd (b : Block) (s : State) : Host.Outcome State Fault Refusal := (vxIaddStep b).run s

/-- vx.isub (R371). -/
def vxIsubStep (b : Block) : BlockStep := vxInt 0x221 b (fun x y => x - y)

/-- vx.isub (R371). -/
def execVxIsub (b : Block) (s : State) : Host.Outcome State Fault Refusal := (vxIsubStep b).run s

/-- vx.imul (R371). -/
def vxImulStep (b : Block) : BlockStep := vxInt 0x222 b (fun x y => x * y)

/-- vx.imul (R371). -/
def execVxImul (b : Block) (s : State) : Host.Outcome State Fault Refusal := (vxImulStep b).run s

/-- vx.iand (R371). -/
def vxIandStep (b : Block) : BlockStep := vxInt 0x223 b (fun x y => x &&& y)

/-- vx.iand (R371). -/
def execVxIand (b : Block) (s : State) : Host.Outcome State Fault Refusal := (vxIandStep b).run s

/-- vx.ior (R371). -/
def vxIorStep (b : Block) : BlockStep := vxInt 0x224 b (fun x y => x ||| y)

/-- vx.ior (R371). -/
def execVxIor (b : Block) (s : State) : Host.Outcome State Fault Refusal := (vxIorStep b).run s

/-- vx.ixor (R371). -/
def vxIxorStep (b : Block) : BlockStep := vxInt 0x225 b (fun x y => x ^^^ y)

/-- vx.ixor (R371). -/
def execVxIxor (b : Block) (s : State) : Host.Outcome State Fault Refusal := (vxIxorStep b).run s

/-- vx.ishl (R371). -/
def vxIshlStep (b : Block) : BlockStep := vxInt 0x226 b (fun x y => x <<< shOf y)

/-- vx.ishl (R371). -/
def execVxIshl (b : Block) (s : State) : Host.Outcome State Fault Refusal := (vxIshlStep b).run s

/-- vx.ishr (R371). -/
def vxIshrStep (b : Block) : BlockStep := vxInt 0x227 b (fun x y => x >>> shOf y)

/-- vx.ishr (R371). -/
def execVxIshr (b : Block) (s : State) : Host.Outcome State Fault Refusal := (vxIshrStep b).run s

/-- vx.isar (R371). -/
def vxIsarStep (b : Block) : BlockStep := vxInt 0x228 b (fun x y => x.sshiftRight (shOf y))

/-- vx.isar (R371). -/
def execVxIsar (b : Block) (s : State) : Host.Outcome State Fault Refusal := (vxIsarStep b).run s

/-- vx.imin (R371). -/
def vxIminStep (b : Block) : BlockStep := vxInt 0x229 b (fun x y => if x.toInt < y.toInt then x else y)

/-- vx.imin (R371). -/
def execVxImin (b : Block) (s : State) : Host.Outcome State Fault Refusal := (vxIminStep b).run s

/-- vx.imax (R371). -/
def vxImaxStep (b : Block) : BlockStep := vxInt 0x22A b (fun x y => if x.toInt < y.toInt then y else x)

/-- vx.imax (R371). -/
def execVxImax (b : Block) (s : State) : Host.Outcome State Fault Refusal := (vxImaxStep b).run s

/-- The sequence number of an iteration in loop order (R372). -/
def seqNo (b : Block) (i : Ix) : Nat :=
  ((i.2.2.2 * b.b2.toNat + i.2.2.1) * b.b1.toNat + i.2.1) * b.b0.toNat + i.1

/-- vx.iota (R372). -/
def vxIotaStep (b : Block) : BlockStep :=
  vxStep 0x22B b (fun _ v its =>
    vxElems v its [] (fun i _ => ((bits b.d15.toNat 31 0 + bits b.d15.toNat 63 32 * seqNo b i) % 2 ^ 32, 0)))

/-- vx.iota (R372). -/
def execVxIota (b : Block) (s : State) : Host.Outcome State Fault Refusal := (vxIotaStep b).run s

/-! ### Conversions (R373-R375) -/

/-- vx.cvt (R373). -/
def vxCvtStep (b : Block) : BlockStep :=
  vxStep 0x240 b (fun m v its =>
    let f0 := wrFmt m v.t b.op0
    let f1 := rdFmt m v.t b.op1
    vxElems v its (sources b) (fun _ l => outCode f0 b.rm b.sat b.ftzo (inVal f1 b.ftzi (l.getD 0 0))))

/-- vx.cvt (R373). -/
def execVxCvt (b : Block) (s : State) : Host.Outcome State Fault Refusal := (vxCvtStep b).run s

/-- The scale of an iteration: 1 where OP2 is none (R374). -/
def scaleVal (b : Block) (l : List Nat) : Val :=
  if b.op2.kind = 0 then .num false 1 0 else inVal b8p1u false (l.getD 1 0)

/-- x / s for a power of two s, with NV where s is zero, an infinity or NaN (R374). -/
def scaleDown (x s : Val) : Val × BitVec 16 :=
  match s with
  | .nan => (.nan, flNV)
  | .inf _ => (.nan, flNV)
  | .num _ m e =>
    if m = 0 then (.nan, flNV)
    else match x with
      | .num neg m' e' => (.num neg m' (e' - e), 0)
      | y => (y, 0)

/-- vx.pack (R374). -/
def vxPackStep (b : Block) : BlockStep :=
  vxStep 0x241 b (fun m v its =>
    let f0 := wrFmt m v.t b.op0
    let f1 := rdFmt m v.t b.op1
    vxElems v its (sources b) (fun _ l =>
      outRes f0 b.rm b.sat b.ftzo (scaleDown (inVal f1 b.ftzi (l.getD 0 0)) (scaleVal b l))))

/-- vx.pack (R374). -/
def execVxPack (b : Block) (s : State) : Host.Outcome State Fault Refusal := (vxPackStep b).run s

/-- vx.unpack (R375). -/
def vxUnpackStep (b : Block) : BlockStep :=
  vxStep 0x242 b (fun m v its =>
    let f0 := wrFmt m v.t b.op0
    let f1 := rdFmt m v.t b.op1
    vxElems v its (sources b) (fun _ l =>
      outRes f0 b.rm b.sat b.ftzo (valMul (inVal f1 b.ftzi (l.getD 0 0)) (scaleVal b l))))

/-- vx.unpack (R375). -/
def execVxUnpack (b : Block) (s : State) : Host.Outcome State Fault Refusal := (vxUnpackStep b).run s

/-! ### Reductions (R376-R378, R214) -/

/-- Add element number `n` of a run to the partial values of its tree (R378, R418): value k stands for 2^k elements. -/
def redAdd (op : Nat → Nat → Nat × BitVec 16) : Nat → Nat → Tbl Word → Nat → Nat → Tbl Word × BitVec 16
  | 0, k, t, _, x => (tput 0 t k (BitVec.ofNat 32 x), 0)
  | fuel + 1, k, t, n, x =>
    if n % 2 = 0 then (tput 0 t k (BitVec.ofNat 32 x), 0)
    else
      let (y, f) := op (tget 0 t k).toNat x
      let (t, g) := redAdd op fuel (k + 1) (tput 0 t k 0) (n / 2) y
      (t, f ||| g)

/-- The value of a run of `n` elements from its partial values: those of the lower bits join those of the higher. -/
def redEnd (op : Nat → Nat → Nat × BitVec 16) (t : Tbl Word) (n : Nat) : Nat × BitVec 16 :=
  match (List.range 17).foldl (fun (acc : Option Nat × BitVec 16) k =>
      if !tst n k then acc
      else
        let y := (tget 0 t k).toNat
        match acc.1 with
        | none => (some y, acc.2)
        | some x => let (z, f) := op y x; (some z, acc.2 ||| f)) (none, 0) with
  | (r, f) => (r.getD 0, f)

/-- One step of an operator that gives one value per level-0 run: `pre` makes an element's value, `op` joins two, and
`post` gives what is written once the run's last element has been taken. -/
def vxRun (code : Nat) (b : Block) (pre : Mach → TileId → Nat → Nat)
    (op : Mach → TileId → Nat → Nat → Nat × BitVec 16) (post : Mach → TileId → Nat → Nat × BitVec 16) :
    BlockStep :=
  vxStep code b (fun m v its => do
    let xs ← its.mapM (fun i => do
      let x ← readOp v b.op1 i
      return (i, x))
    need (xs.all (fun x => !x.2.2)) .lbPoison
    let _ ← xs.mapM (fun (x : Ix × Nat × Bool) => do
      let i := x.1
      let cur ← getM
      let t := if i.1 = 0 then [] else ((cur.ctx v.t).vx).red
      let (t, fl) := redAdd (op m v.t) 16 0 t i.1 (pre m v.t x.2.1)
      addFlags fl
      if i.1 + 1 < b.b0.toNat then setM (cur.modChain v.t .vx (fun c => { c with red := t }))
      else do
        let (y, f1) := redEnd (op m v.t) t b.b0.toNat
        let (z, f2) := post m v.t y
        addFlags (f1 ||| f2)
        setM (cur.modChain v.t .vx (fun c => { c with red := [] }))
        writeElem v b.op0 (0, i.2) z false)
    return ())

/-- The magnitude of a finite non-zero element after FTZI as a pattern without sign; 0 for any other (R376, R377). -/
def magPattern (f : Byte) (ftzi : Bool) (x : Nat) : Nat :=
  match inVal f ftzi x with
  | .num _ m _ => if m = 0 then 0 else x % 2 ^ (fmtWidth f - 1)
  | _ => 0

/-- The greater of two patterns. -/
def patMax (x y : Nat) : Nat × BitVec 16 := (Nat.max x y, 0)

/-- The smallest e with m · 2^me ≤ f · 2^fe · 2^e. -/
def scaleExp (m : Nat) (me : Int) (f : Nat) (fe : Int) : Int :=
  let e := me + Int.ofNat (Nat.log2 m) - fe - Int.ofNat (Nat.log2 f)
  if magLt f (fe + e) m me then e + 1 else e

/-- vx.scalefind (R376). -/
def vxScalefindStep (b : Block) : BlockStep :=
  let f1 := fun (m : Mach) t => rdFmt m t b.op1
  vxRun 0x243 b (fun m t x => magPattern (f1 m t) b.ftzi x) (fun _ _ => patMax) (fun m t y =>
    match inVal (f1 m t) false y, fmtD (b.d15.extractLsb' 0 8) with
    | .num _ mm me, .flt g =>
      if mm = 0 then (128, 0)
      else
        let (fm, fe) := magOf g (maxCode g)
        ((min (max (scaleExp mm me fm fe + 128) 1) 0xFD).toNat, 0)
    | _, _ => (128, 0))

/-- vx.scalefind (R376). -/
def execVxScalefind (b : Block) (s : State) : Host.Outcome State Fault Refusal := (vxScalefindStep b).run s

/-- vx.expmax (R377). -/
def vxExpmaxStep (b : Block) : BlockStep :=
  let f1 := fun (m : Mach) t => rdFmt m t b.op1
  vxRun 0x244 b (fun m t x => magPattern (f1 m t) b.ftzi x) (fun _ _ => patMax) (fun m t y =>
    match inVal (f1 m t) false y with
    | .num _ mm me =>
      if mm = 0 then (2 ^ 31, 0) else ((BitVec.ofInt 32 (me + Int.ofNat (Nat.log2 mm) + 127)).toNat, 0)
    | _ => (2 ^ 31, 0))

/-- vx.expmax (R377). -/
def execVxExpmax (b : Block) (s : State) : Host.Outcome State Fault Refusal := (vxExpmaxStep b).run s

/-- An element of a reduction after FTZI (R367): a flushed one keeps its sign. -/
def redPre (f : Byte) (ftzi : Bool) (x : Nat) : Nat :=
  match decodeVal (fmtD f) x, inVal f ftzi x with
  | .num _ m _, .num _ m' _ => if m ≠ 0 ∧ m' = 0 then x / 2 ^ (fmtWidth f - 1) * 2 ^ (fmtWidth f - 1) else x
  | _, _ => x

/-- A pairwise operation of a reduction (R378): `g` on i32 patterns, `h` on values. -/
def redOp (b : Block) (f : Byte) (g : Word → Word → Word) (h : Val → Val → Val × BitVec 16) (x y : Nat) :
    Nat × BitVec 16 :=
  if f = 6 then ((g (BitVec.ofNat 32 x) (BitVec.ofNat 32 y)).toNat, 0)
  else outRes f b.rm false b.ftzo (h (inVal f false x) (inVal f false y))

/-- What a reduction writes: its value flushed under FTZO, and of a NaN the canonical one (R197, R378). -/
def redPost (f : Byte) (ftzo : Bool) (y : Nat) : Nat × BitVec 16 :=
  match fmtD f with
  | .flt g => if decodeF g y = .nan then (nanCode g, 0) else ftzOut (.flt g) ftzo (y, 0)
  | g => ftzOut g ftzo (y, 0)

/-- A reduction over runs (R378). -/
def vxReduce (code : Nat) (b : Block) (g : Word → Word → Word) (h : Val → Val → Val × BitVec 16) :
    BlockStep :=
  vxRun code b (fun m t x => redPre (rdFmt m t b.op1) b.ftzi x) (fun m t => redOp b (rdFmt m t b.op1) g h)
    (fun m t y => redPost (rdFmt m t b.op1) b.ftzo y)

/-- vx.rsum (R378). -/
def vxRsumStep (b : Block) : BlockStep :=
  vxReduce 0x250 b (fun x y => x + y) (fun x y => valAdd b.rm x y)

/-- vx.rsum (R378). -/
def execVxRsum (b : Block) (s : State) : Host.Outcome State Fault Refusal := (vxRsumStep b).run s

/-- vx.rmax (R378). -/
def vxRmaxStep (b : Block) : BlockStep :=
  vxReduce 0x251 b (fun x y => if x.toInt < y.toInt then y else x) (fun x y => (valMax x y, 0))

/-- vx.rmax (R378). -/
def execVxRmax (b : Block) (s : State) : Host.Outcome State Fault Refusal := (vxRmaxStep b).run s

/-- vx.rmin (R378). -/
def vxRminStep (b : Block) : BlockStep :=
  vxReduce 0x252 b (fun x y => if x.toInt < y.toInt then x else y) (fun x y => (valMin x y, 0))

/-- vx.rmin (R378). -/
def execVxRmin (b : Block) (s : State) : Host.Outcome State Fault Refusal := (vxRminStep b).run s

/-! ### Movement (R379) -/

/-- vx.move (R379, R380): patterns move with their poison. -/
def vxMoveStep (b : Block) : BlockStep :=
  vxStep 0x260 b (fun _ v its => do
    let xs ← its.mapM (fun i => do
      let x ← readOp v b.op1 i
      return (i, x))
    let _ ← xs.mapM (fun (x : Ix × Nat × Bool) => writeOp v b.op0 x.1 x.2.1 x.2.2)
    return ())

/-- vx.move (R379, R380). -/
def execVxMove (b : Block) (s : State) : Host.Outcome State Fault Refusal := (vxMoveStep b).run s

/-- vx.perm (R379): an index outside the run is LB.RANGE. -/
def vxPermStep (b : Block) : BlockStep :=
  vxStep 0x261 b (fun m v its => do
    let f2 := rdFmt m v.t b.op2
    let xs ← its.mapM (fun i => do
      let (c, p) ← readOp v b.op2 i
      need (!p) .lbPoison
      let k := intCode f2 c
      need (decide (0 ≤ k ∧ k < Int.ofNat b.b0.toNat)) .lbRange
      let x ← readElem v b.op1 (k.toNat, i.2) (storeKind v.e)
      return (i, x))
    let _ ← xs.mapM (fun (x : Ix × Nat × Bool) => writeOp v b.op0 x.1 x.2.1 x.2.2)
    return ())

/-- vx.perm (R379). -/
def execVxPerm (b : Block) (s : State) : Host.Outcome State Fault Refusal := (vxPermStep b).run s

/-- vx.zero (R379). -/
def vxZeroStep (b : Block) : BlockStep :=
  vxStep 0x262 b (fun _ v its => do
    let _ ← its.mapM (fun i => writeOp v b.op0 i 0 false)
    return ())

/-- vx.zero (R379). -/
def execVxZero (b : Block) (s : State) : Host.Outcome State Fault Refusal := (vxZeroStep b).run s

end Sys2Proof.Machine
end

