-- ==== Sys2Proof/Machine/Dispatch.lean ====
section
/-! DEFINITION. One arm per instruction: its meaning, or a rejection by name. -/
namespace Sys2Proof.Machine

def exec (i : Instr) (s : State) : Host.Outcome State Fault Refusal :=
  match i with
  | .add d a b => Sys2Proof.Machine.execAdd d a b s
  | .sub d a b => Sys2Proof.Machine.execSub d a b s
  | .and d a b => Sys2Proof.Machine.execAnd d a b s
  | .or d a b => Sys2Proof.Machine.execOr d a b s
  | .xor d a b => Sys2Proof.Machine.execXor d a b s
  | .shl d a b => Sys2Proof.Machine.execShl d a b s
  | .shr d a b => Sys2Proof.Machine.execShr d a b s
  | .sar d a b => Sys2Proof.Machine.execSar d a b s
  | .cmplt d a b => Sys2Proof.Machine.execCmplt d a b s
  | .cmpltu d a b => Sys2Proof.Machine.execCmpltu d a b s
  | .min d a b => Sys2Proof.Machine.execMin d a b s
  | .max d a b => Sys2Proof.Machine.execMax d a b s
  | .minu d a b => Sys2Proof.Machine.execMinu d a b s
  | .maxu d a b => Sys2Proof.Machine.execMaxu d a b s
  | .mul d a b => Sys2Proof.Machine.execMul d a b s
  | .mulhi d a b => Sys2Proof.Machine.execMulhi d a b s
  | .mulhiu d a b => Sys2Proof.Machine.execMulhiu d a b s
  | .div d a b => Sys2Proof.Machine.execDiv d a b s
  | .divu d a b => Sys2Proof.Machine.execDivu d a b s
  | .rem d a b => Sys2Proof.Machine.execRem d a b s
  | .remu d a b => Sys2Proof.Machine.execRemu d a b s
  | .addW d a b => Sys2Proof.Machine.execAddW d a b s
  | .subW d a b => Sys2Proof.Machine.execSubW d a b s
  | .shlW d a b => Sys2Proof.Machine.execShlW d a b s
  | .shrW d a b => Sys2Proof.Machine.execShrW d a b s
  | .sarW d a b => Sys2Proof.Machine.execSarW d a b s
  | .mulW d a b => Sys2Proof.Machine.execMulW d a b s
  | .divW d a b => Sys2Proof.Machine.execDivW d a b s
  | .divuW d a b => Sys2Proof.Machine.execDivuW d a b s
  | .remW d a b => Sys2Proof.Machine.execRemW d a b s
  | .remuW d a b => Sys2Proof.Machine.execRemuW d a b s
  | .addk d a imm => Sys2Proof.Machine.execAddk d a imm s
  | .andk d a imm => Sys2Proof.Machine.execAndk d a imm s
  | .ork d a imm => Sys2Proof.Machine.execOrk d a imm s
  | .xork d a imm => Sys2Proof.Machine.execXork d a imm s
  | .cmpltk d a imm => Sys2Proof.Machine.execCmpltk d a imm s
  | .cmpltuk d a imm => Sys2Proof.Machine.execCmpltuk d a imm s
  | .shlk d a sh => Sys2Proof.Machine.execShlk d a sh s
  | .shrk d a sh => Sys2Proof.Machine.execShrk d a sh s
  | .sark d a sh => Sys2Proof.Machine.execSark d a sh s
  | .hik d imm => Sys2Proof.Machine.execHik d imm s
  | .bfx d a wid off => Sys2Proof.Machine.execBfx d a wid off s
  | .bfxu d a wid off => Sys2Proof.Machine.execBfxu d a wid off s
  | .bfi d a wid off => Sys2Proof.Machine.execBfi d a wid off s
  | .ldb d a cls off => Sys2Proof.Machine.execLdb d a cls off s
  | .ldbu d a cls off => Sys2Proof.Machine.execLdbu d a cls off s
  | .ldh d a cls off => Sys2Proof.Machine.execLdh d a cls off s
  | .ldhu d a cls off => Sys2Proof.Machine.execLdhu d a cls off s
  | .ldw d a cls off => Sys2Proof.Machine.execLdw d a cls off s
  | .ldwu d a cls off => Sys2Proof.Machine.execLdwu d a cls off s
  | .ldd d a cls off => Sys2Proof.Machine.execLdd d a cls off s
  | .stb src a cls off => Sys2Proof.Machine.execStb src a cls off s
  | .sth src a cls off => Sys2Proof.Machine.execSth src a cls off s
  | .stw src a cls off => Sys2Proof.Machine.execStw src a cls off s
  | .std src a cls off => Sys2Proof.Machine.execStd src a cls off s
  | .savem first a cls last off => Sys2Proof.Machine.execSavem first a cls last off s
  | .loadm first a cls last off => Sys2Proof.Machine.execLoadm first a cls last off s
  | .amoswapW d a b cls => Sys2Proof.Machine.execAmoswapW d a b cls s
  | .amoswapD d a b cls => Sys2Proof.Machine.execAmoswapD d a b cls s
  | .amoaddW d a b cls => Sys2Proof.Machine.execAmoaddW d a b cls s
  | .amoaddD d a b cls => Sys2Proof.Machine.execAmoaddD d a b cls s
  | .amoandW d a b cls => Sys2Proof.Machine.execAmoandW d a b cls s
  | .amoandD d a b cls => Sys2Proof.Machine.execAmoandD d a b cls s
  | .amoorW d a b cls => Sys2Proof.Machine.execAmoorW d a b cls s
  | .amoorD d a b cls => Sys2Proof.Machine.execAmoorD d a b cls s
  | .amomaxW d a b cls => Sys2Proof.Machine.execAmomaxW d a b cls s
  | .amomaxD d a b cls => Sys2Proof.Machine.execAmomaxD d a b cls s
  | .amominW d a b cls => Sys2Proof.Machine.execAmominW d a b cls s
  | .amominD d a b cls => Sys2Proof.Machine.execAmominD d a b cls s
  | .amomaxuW d a b cls => Sys2Proof.Machine.execAmomaxuW d a b cls s
  | .amomaxuD d a b cls => Sys2Proof.Machine.execAmomaxuD d a b cls s
  | .amominuW d a b cls => Sys2Proof.Machine.execAmominuW d a b cls s
  | .amominuD d a b cls => Sys2Proof.Machine.execAmominuD d a b cls s
  | .amocasW d a b cls => Sys2Proof.Machine.execAmocasW d a b cls s
  | .amocasD d a b cls => Sys2Proof.Machine.execAmocasD d a b cls s
  | .aqadd a b cls => Sys2Proof.Machine.execAqadd a b cls s
  | .beq a b off => Sys2Proof.Machine.execBeq a b off s
  | .bne a b off => Sys2Proof.Machine.execBne a b off s
  | .blt a b off => Sys2Proof.Machine.execBlt a b off s
  | .bge a b off => Sys2Proof.Machine.execBge a b off s
  | .bltu a b off => Sys2Proof.Machine.execBltu a b off s
  | .bgeu a b off => Sys2Proof.Machine.execBgeu a b off s
  | .jal d off => Sys2Proof.Machine.execJal d off s
  | .jalr d a kind off => Sys2Proof.Machine.execJalr d a kind off s
  | .land t kind tag => Sys2Proof.Machine.execLand t kind tag s
  | .fenceX scope mask => Sys2Proof.Machine.execFenceX scope mask s
  | .iinv a b scope => Sys2Proof.Machine.execIinv a b scope s
  | .isync => Sys2Proof.Machine.execIsync s
  | .arrive bk bn mask => Sys2Proof.Machine.execArrive bk bn mask s
  | .waitb bk bn => Sys2Proof.Machine.execWaitb bk bn s
  | .fork tmpl => Sys2Proof.Machine.execFork tmpl s
  | .join mask => Sys2Proof.Machine.execJoin mask s
  | .semw a sem => Sys2Proof.Machine.execSemw a sem s
  | .semr d sem => Sys2Proof.Machine.execSemr d sem s
  | .rcww a ring => Sys2Proof.Machine.execRcww a ring s
  | .rcwr d ring => Sys2Proof.Machine.execRcwr d ring s
  | .layw a win => Sys2Proof.Machine.execLayw a win s
  | .layr d win => Sys2Proof.Machine.execLayr d win s
  | .acfg a acc => Sys2Proof.Machine.execAcfg a acc s
  | .evwait d a => Sys2Proof.Machine.execEvwait d a s
  | .glset d a hdl => Sys2Proof.Machine.execGlset d a hdl s
  | .glclr hdl => Sys2Proof.Machine.execGlclr hdl s
  | .glret a hdl => Sys2Proof.Machine.execGlret a hdl s
  | .tkpull d a => Sys2Proof.Machine.execTkpull d a s
  | .tkstat d a => Sys2Proof.Machine.execTkstat d a s
  | .signote a => Sys2Proof.Machine.execSignote a s
  | .fadd d a b => Sys2Proof.Machine.execFadd d a b s
  | .fsub d a b => Sys2Proof.Machine.execFsub d a b s
  | .fmul d a b => Sys2Proof.Machine.execFmul d a b s
  | .fmin d a b => Sys2Proof.Machine.execFmin d a b s
  | .fmax d a b => Sys2Proof.Machine.execFmax d a b s
  | .fcmpEq d a b => Sys2Proof.Machine.execFcmpEq d a b s
  | .fcmpLt d a b => Sys2Proof.Machine.execFcmpLt d a b s
  | .fcmpLe d a b => Sys2Proof.Machine.execFcmpLe d a b s
  | .fcmpNe d a b => Sys2Proof.Machine.execFcmpNe d a b s
  | .fcvtIf d a => Sys2Proof.Machine.execFcvtIf d a s
  | .fcvtFi d a => Sys2Proof.Machine.execFcvtFi d a s
  | .sysr d k => Sys2Proof.Machine.execSysr d k s
  | .sysw a k => Sys2Proof.Machine.execSysw a k s
  | .trap imm => Sys2Proof.Machine.execTrap imm s
  | .eret => Sys2Proof.Machine.execEret s
  | .wfe => Sys2Proof.Machine.execWfe s
  | .brk => Sys2Proof.Machine.execBrk s
  | .li d imm => Sys2Proof.Machine.execLi d imm s
  | .liu d imm => Sys2Proof.Machine.execLiu d imm s
  | .lihi d imm => Sys2Proof.Machine.execLihi d imm s
  | .lapc d imm => Sys2Proof.Machine.execLapc d imm s
  | .fenceC p q => Sys2Proof.Machine.execFenceC p q s
  | .asyncTrapDelivery t => Sys2Proof.Machine.execAsyncTrapDelivery t s
  | .storeBufferDrain t cls => Sys2Proof.Machine.execStoreBufferDrain t cls s
  | .musherLoadReturn t => Sys2Proof.Machine.execMusherLoadReturn t s
  | .barrierPhaseComplete bar => Sys2Proof.Machine.execBarrierPhaseComplete bar s
  | .sqNop b => Sys2Proof.Machine.execSqNop b s
  | .sqLoop b => Sys2Proof.Machine.execSqLoop b s
  | .sqEnd b => Sys2Proof.Machine.execSqEnd b s
  | .sqPatch b => Sys2Proof.Machine.execSqPatch b s
  | .sqEvent b => Sys2Proof.Machine.execSqEvent b s
  | .ldCopy b => Sys2Proof.Machine.execLdCopy b s
  | .ldGather b => Sys2Proof.Machine.execLdGather b s
  | .ldBcast b => Sys2Proof.Machine.execLdBcast b s
  | .ldFill b => Sys2Proof.Machine.execLdFill b s
  | .ldPref b => Sys2Proof.Machine.execLdPref b s
  | .stCopy b => Sys2Proof.Machine.execStCopy b s
  | .stScatter b => Sys2Proof.Machine.execStScatter b s
  | .stReduce b => Sys2Proof.Machine.execStReduce b s
  | .mxWload b => Sys2Proof.Machine.execMxWload b s
  | .mxWloads b => Sys2Proof.Machine.execMxWloads b s
  | .mxMma b => Sys2Proof.Machine.execMxMma b s
  | .mxAzero b => Sys2Proof.Machine.execMxAzero b s
  | .mxAfill b => Sys2Proof.Machine.execMxAfill b s
  | .mxAread b => Sys2Proof.Machine.execMxAread b s
  | .mxAdrain b => Sys2Proof.Machine.execMxAdrain b s
  | .mxGlsend b => Sys2Proof.Machine.execMxGlsend b s
  | .mxArebase b => Sys2Proof.Machine.execMxArebase b s
  | .vxAdd b => Sys2Proof.Machine.execVxAdd b s
  | .vxSub b => Sys2Proof.Machine.execVxSub b s
  | .vxMul b => Sys2Proof.Machine.execVxMul b s
  | .vxFma b => Sys2Proof.Machine.execVxFma b s
  | .vxMin b => Sys2Proof.Machine.execVxMin b s
  | .vxMax b => Sys2Proof.Machine.execVxMax b s
  | .vxAbs b => Sys2Proof.Machine.execVxAbs b s
  | .vxNeg b => Sys2Proof.Machine.execVxNeg b s
  | .vxCmp b => Sys2Proof.Machine.execVxCmp b s
  | .vxSel b => Sys2Proof.Machine.execVxSel b s
  | .vxClamp b => Sys2Proof.Machine.execVxClamp b s
  | .vxSqrt b => Sys2Proof.Machine.execVxSqrt b s
  | .vxRcpa b => Sys2Proof.Machine.execVxRcpa b s
  | .vxRsqa b => Sys2Proof.Machine.execVxRsqa b s
  | .vxExp2a b => Sys2Proof.Machine.execVxExp2a b s
  | .vxLog2a b => Sys2Proof.Machine.execVxLog2a b s
  | .vxIadd b => Sys2Proof.Machine.execVxIadd b s
  | .vxIsub b => Sys2Proof.Machine.execVxIsub b s
  | .vxImul b => Sys2Proof.Machine.execVxImul b s
  | .vxIand b => Sys2Proof.Machine.execVxIand b s
  | .vxIor b => Sys2Proof.Machine.execVxIor b s
  | .vxIxor b => Sys2Proof.Machine.execVxIxor b s
  | .vxIshl b => Sys2Proof.Machine.execVxIshl b s
  | .vxIshr b => Sys2Proof.Machine.execVxIshr b s
  | .vxIsar b => Sys2Proof.Machine.execVxIsar b s
  | .vxImin b => Sys2Proof.Machine.execVxImin b s
  | .vxImax b => Sys2Proof.Machine.execVxImax b s
  | .vxIota b => Sys2Proof.Machine.execVxIota b s
  | .vxCvt b => Sys2Proof.Machine.execVxCvt b s
  | .vxPack b => Sys2Proof.Machine.execVxPack b s
  | .vxUnpack b => Sys2Proof.Machine.execVxUnpack b s
  | .vxScalefind b => Sys2Proof.Machine.execVxScalefind b s
  | .vxExpmax b => Sys2Proof.Machine.execVxExpmax b s
  | .vxRsum b => Sys2Proof.Machine.execVxRsum b s
  | .vxRmax b => Sys2Proof.Machine.execVxRmax b s
  | .vxRmin b => Sys2Proof.Machine.execVxRmin b s
  | .vxMove b => Sys2Proof.Machine.execVxMove b s
  | .vxPerm b => Sys2Proof.Machine.execVxPerm b s
  | .vxZero b => Sys2Proof.Machine.execVxZero b s
  | .blockLatch t e => Sys2Proof.Machine.execBlockLatch t e s
  | .semaphoreWaitGrant t e => Sys2Proof.Machine.execSemaphoreWaitGrant t e s
  | .iterationSignal t e => Sys2Proof.Machine.execIterationSignal t e s
  | .stWriteResponse t => Sys2Proof.Machine.execStWriteResponse t s
  | .nop h => Sys2Proof.Machine.execNop h s
  | .launch h p => Sys2Proof.Machine.execLaunch h p s
  | .copy h p => Sys2Proof.Machine.execCopy h p s
  | .waitsig h p => Sys2Proof.Machine.execWaitsig h p s
  | .signal h p => Sys2Proof.Machine.execSignal h p s
  | .cond h p => Sys2Proof.Machine.execCond h p s
  | .graph h gobj param => Sys2Proof.Machine.execGraph h gobj param s
  | .iinvPacket h start len die scope => Sys2Proof.Machine.execIinvPacket h start len die scope s
  | .timestamp h dst => Sys2Proof.Machine.execTimestamp h dst s
  | .drain h all => Sys2Proof.Machine.execDrain h all s
  | .packetFetch q => Sys2Proof.Machine.execPacketFetch q s
  | .graphNodeDispatch inst => Sys2Proof.Machine.execGraphNodeDispatch inst s
  | .packetComplete w => Sys2Proof.Machine.execPacketComplete w s
  | .waitsigEvaluation w => Sys2Proof.Machine.execWaitsigEvaluation w s
  | .launchConfirmed lid => Sys2Proof.Machine.execLaunchConfirmed lid s
  | .copyRowComplete die eng => Sys2Proof.Machine.execCopyRowComplete die eng s
  | .iinvAcknowledge w die => Sys2Proof.Machine.execIinvAcknowledge w die s
  | .create f q => Sys2Proof.Machine.execCreate f q s
  | .destroy f q => Sys2Proof.Machine.execDestroy f q s
  | .reset f q => Sys2Proof.Machine.execReset f q s
  | .queueRetired q => Sys2Proof.Machine.execQueueRetired q s
  | .widxWrite f place bytes v => Sys2Proof.Machine.execWidxWrite f place bytes v s
  | .arbitrationClockGate => Sys2Proof.Machine.execArbitrationClockGate s
  | .arbitrationPowerGate => Sys2Proof.Machine.execArbitrationPowerGate s
  | .arbitrationWake => Sys2Proof.Machine.execArbitrationWake s
  | .registerWrite f off v => Sys2Proof.Machine.execRegisterWrite f off v s
  | .mBaseWrite f vf v => Sys2Proof.Machine.execMBaseWrite f vf v s
  | .powerCapWrite f v => Sys2Proof.Machine.execPowerCapWrite f v s
  | .fqtailWrite f p v => Sys2Proof.Machine.execFqtailWrite f p v s
  | .fqresRetry f p seq => Sys2Proof.Machine.execFqresRetry f p seq s
  | .fqresAbort f p seq => Sys2Proof.Machine.execFqresAbort f p seq s
  | .invctlGo f p => Sys2Proof.Machine.execInvctlGo f p s
  | .invalidationDone p => Sys2Proof.Machine.execInvalidationDone p s
  | .faultRecordPost p => Sys2Proof.Machine.execFaultRecordPost p s
  | .drselWrite f v => Sys2Proof.Machine.execDrselWrite f v s
  | .dropRecordReady => Sys2Proof.Machine.execDropRecordReady s
  | .bind rq0 => Sys2Proof.Machine.execBind rq0 s
  | .unbind rq0 => Sys2Proof.Machine.execUnbind rq0 s
  | .ptroot rq0 rq1 => Sys2Proof.Machine.execPtroot rq0 rq1 s
  | .cluster rq0 rq1 rq2 => Sys2Proof.Machine.execCluster rq0 rq1 rq2 s
  | .lgroup rq0 rq1 rq2 => Sys2Proof.Machine.execLgroup rq0 rq1 rq2 s
  | .imgarea rq0 rq1 rq2 => Sys2Proof.Machine.execImgarea rq0 rq1 rq2 s
  | .exportPart rq0 => Sys2Proof.Machine.execExportPart rq0 s
  | .importPart rq0 rq1 => Sys2Proof.Machine.execImportPart rq0 rq1 s
  | .rotation rq0 rq1 => Sys2Proof.Machine.execRotation rq0 rq1 s
  | .lease rq0 => Sys2Proof.Machine.execLease rq0 s
  | .route rq0 rq1 => Sys2Proof.Machine.execRoute rq0 rq1 s
  | .classMap rq0 rq1 => Sys2Proof.Machine.execClassMap rq0 rq1 s
  | .diecount rq0 rq1 => Sys2Proof.Machine.execDiecount rq0 rq1 s
  | .stage rq0 rq1 => Sys2Proof.Machine.execStage rq0 rq1 s
  | .update => Sys2Proof.Machine.execUpdate s
  | .extend rq0 rq1 => Sys2Proof.Machine.execExtend rq0 rq1 s
  | .grant rq0 rq1 => Sys2Proof.Machine.execGrant rq0 rq1 s
  | .accessTableRead rq0 => Sys2Proof.Machine.execAccessTableRead rq0 s
  | .mailboxCompletion m => Sys2Proof.Machine.execMailboxCompletion m s
  | .quiescentBoundary => Sys2Proof.Machine.execQuiescentBoundary s
  | .standbyTakeover => Sys2Proof.Machine.execStandbyTakeover s
  | .hostMemoryRead f place bytes => Sys2Proof.Machine.execHostMemoryRead f place bytes s
  | .hostMemoryWrite f off data => Sys2Proof.Machine.execHostMemoryWrite f off data s
  | .pcieConfigRequest x => Sys2Proof.Machine.execPcieConfigRequest x s
  | .perstDeassert gen lanes => Sys2Proof.Machine.execPerstDeassert gen lanes s
  | .functionLevelReset f => Sys2Proof.Machine.execFunctionLevelReset f s
  | .flrTimeout f => Sys2Proof.Machine.execFlrTimeout f s
  | .powerOnBoot => Sys2Proof.Machine.execPowerOnBoot s
  | .bootComplete => Sys2Proof.Machine.execBootComplete s
  | .herderStop => Sys2Proof.Machine.execHerderStop s
  | .thermalTrip die temp => Sys2Proof.Machine.execThermalTrip die temp s
  | .regulatorOvercurrent => Sys2Proof.Machine.execRegulatorOvercurrent s
  | .junctionTempAlert temp => Sys2Proof.Machine.execJunctionTempAlert temp s
  | .throttleWindowEnd pavg proj temp => Sys2Proof.Machine.execThrottleWindowEnd pavg proj temp s
  | .sensorRead => Sys2Proof.Machine.execSensorRead s
  | .mgmtPowerCapSet v => Sys2Proof.Machine.execMgmtPowerCapSet v s
  | .warmReset => Sys2Proof.Machine.execWarmReset s
  | .coldReset => Sys2Proof.Machine.execColdReset s
  | .recoveryImage bank img => Sys2Proof.Machine.execRecoveryImage bank img s
  | .firmwareStaging img => Sys2Proof.Machine.execFirmwareStaging img s
  | .leaseTableReadout die => Sys2Proof.Machine.execLeaseTableReadout die s
  | .knownBadTableWrite rank idx v => Sys2Proof.Machine.execKnownBadTableWrite rank idx v s
  | .routingTableRequest pkg v => Sys2Proof.Machine.execRoutingTableRequest pkg v s
  | .maintenanceWindow rank verified => Sys2Proof.Machine.execMaintenanceWindow rank verified s
  | .unitReturnRequest u => Sys2Proof.Machine.execUnitReturnRequest u s
  | .getIdentity seg => Sys2Proof.Machine.execGetIdentity seg s
  | .getMeasurements nonce mask => Sys2Proof.Machine.execGetMeasurements nonce mask s
  | .getDropRecord idx => Sys2Proof.Machine.execGetDropRecord idx s
  | .dataFlitReceive l f => Sys2Proof.Machine.execDataFlitReceive l f s
  | .idleFlitReceive l f => Sys2Proof.Machine.execIdleFlitReceive l f s
  | .flitTransmit l => Sys2Proof.Machine.execFlitTransmit l s
  | .ackIdleTimer l => Sys2Proof.Machine.execAckIdleTimer l s
  | .replayTimerExpiry l => Sys2Proof.Machine.execReplayTimerExpiry l s
  | .retireSendTimer l => Sys2Proof.Machine.execRetireSendTimer l s
  | .laneLossOfLock l => Sys2Proof.Machine.execLaneLossOfLock l s
  | .retrainComplete l x64 => Sys2Proof.Machine.execRetrainComplete l x64 s
  | .retrainTimeout l => Sys2Proof.Machine.execRetrainTimeout l s
  | .linkStateReport m => Sys2Proof.Machine.execLinkStateReport m s
  | .fabricPortDown p => Sys2Proof.Machine.execFabricPortDown p s
  | .fabricPortReturn p => Sys2Proof.Machine.execFabricPortReturn p s
  | .messageForward die m => Sys2Proof.Machine.execMessageForward die m s
  | .readRequest m => Sys2Proof.Machine.execReadRequest m s
  | .writeRequest m => Sys2Proof.Machine.execWriteRequest m s
  | .amoRequest m => Sys2Proof.Machine.execAmoRequest m s
  | .aqaddRequest m => Sys2Proof.Machine.execAqaddRequest m s
  | .reduceElementRequest m => Sys2Proof.Machine.execReduceElementRequest m s
  | .ganglineContribution m => Sys2Proof.Machine.execGanglineContribution m s
  | .replicatedPageUpdate m => Sys2Proof.Machine.execReplicatedPageUpdate m s
  | .sequencedUpdate m => Sys2Proof.Machine.execSequencedUpdate m s
  | .replicaApplied m => Sys2Proof.Machine.execReplicaApplied m s
  | .response m => Sys2Proof.Machine.execResponse m s
  | .tagRetire m => Sys2Proof.Machine.execTagRetire m s
  | .retireAcknowledged m => Sys2Proof.Machine.execRetireAcknowledged m s
  | .reservationCompletion t hdl => Sys2Proof.Machine.execReservationCompletion t hdl s
  | .stealRequest lgid pkg => Sys2Proof.Machine.execStealRequest lgid pkg s
  | .tkpullRound c slot => Sys2Proof.Machine.execTkpullRound c slot s
  | .remoteTeamRetired lid team confirmed faulted => Sys2Proof.Machine.execRemoteTeamRetired lid team confirmed faulted s
  | .sliceExpiry c => Sys2Proof.Machine.execSliceExpiry c s
  | .preempt tgt => Sys2Proof.Machine.execPreempt tgt s
  | .unitHalted t u => Sys2Proof.Machine.execUnitHalted t u s
  | .contextExchange tgt => Sys2Proof.Machine.execContextExchange tgt s
  | .exchangeEnd tgt => Sys2Proof.Machine.execExchangeEnd tgt s
  | .kennelWriteApply t => Sys2Proof.Machine.execKennelWriteApply t s
  | .spill t => Sys2Proof.Machine.execSpill t s
  | .spillReturn p n t => Sys2Proof.Machine.execSpillReturn p n t s
  | .slotToSlotCopy src dst => Sys2Proof.Machine.execSlotToSlotCopy src dst s
  | .rotationDue u => Sys2Proof.Machine.execRotationDue u s
  | .leaseDrainStart die n => Sys2Proof.Machine.execLeaseDrainStart die n s
  | .tileDrainGraceExpiry die n => Sys2Proof.Machine.execTileDrainGraceExpiry die n s
  | .leaseTestingStart die n => Sys2Proof.Machine.execLeaseTestingStart die n s
  | .patternRunComplete die n out last => Sys2Proof.Machine.execPatternRunComplete die n out last s
  | .hbmTestSliceStart die n => Sys2Proof.Machine.execHbmTestSliceStart die n s
  | .hbmTestSliceEnd die n => Sys2Proof.Machine.execHbmTestSliceEnd die n s
  | .dropRecordCommit => Sys2Proof.Machine.execDropRecordCommit s
  | .rotationPeriodEnd kind => Sys2Proof.Machine.execRotationPeriodEnd kind s
  | .sramScrubRead w => Sys2Proof.Machine.execSramScrubRead w s
  | .hbmScrubRead die ch => Sys2Proof.Machine.execHbmScrubRead die ch s
  | .scrubWriteback => Sys2Proof.Machine.execScrubWriteback s
  | .muIllegal w => Sys2Proof.Machine.execMuIllegal w s
  | .unknownRequestCode m code => Sys2Proof.Machine.execUnknownRequestCode m code s
  | .unknownAttestationCode code len => Sys2Proof.Machine.execUnknownAttestationCode code len s
  | .storeStatusReturn t => Sys2Proof.Machine.execStoreStatusReturn t s
  | .launchGroupExchange lgid pkg kobj first count team => Sys2Proof.Machine.execLaunchGroupExchange lgid pkg kobj first count team s

end Sys2Proof.Machine
end

