-- ==== Sys2Proof/Machine/Issue.lean ====
section
/-! DEFINITION. What the next step is: a thread's issue with its fetch (R151, R155, R193, R233, R312), a chain's next move
(R141), a packet, a node, or an event; the passing of time (R85, R157); and the placing of an instruction for a fetch. -/
namespace Sys2Proof.Machine

/-- What a turn comes to: an instruction to run, or a change of the machine that is no instruction's. -/
inductive Todo where
  | run (i : Instr) (m : Mach)
  | done (m : Mach)

/-! ### The issue of a Musher thread -/

/-- An enabled breakpoint matches the address (R312). -/
def Thread.breaks (th : Thread) (pc : Dword) : Bool :=
  (List.range 4).any (fun k =>
    let b := (tget 0 th.kbpa k).toNat
    tst b 0 && decide (bits b 55 2 = pc.toNat / 4))

/-- Fetch and decode the instruction at pc (R233, R234). -/
def Mach.fetchInstr (m : Mach) (t : TileId) : Todo :=
  let pc := (m.thr t).pc
  match m.fetchWord t pc with
  | .trap c v w m => .done (m.takeTrap t c.code false false v pc w)
  | .stall m => .done m
  | .word w m =>
    if isTwoWord w then
      match m.fetchWord t (pc + 4) with
      | .trap c v f m => .done (m.takeTrap t c.code false false v pc f)
      | .stall m => .done m
      | .word w2 m => .run (decodeWord w w2) m
    else .run (decodeWord w 0) m

/-- The part of a thread in its launch ends once its stores have been performed (R96, R184, R419). -/
def Mach.leave (m : Mach) (t : TileId) : Mach :=
  if (m.thr t).wbuf.isEmpty then m.threadEnd t
  else m.modThr t (fun th => { th with st := .idle, sup := th.sup.map (fun u => { u with ended := true }) })

/-- The thread supervises an item's part that has ended, or stands at its launch exit address. -/
def Thread.ended (th : Thread) : Bool := (th.sup.map (fun u => u.ended)).getD false
def Thread.atExit (th : Thread) : Bool := (th.sup.map (fun u => decide (u.exit = th.pc))).getD false

/-- A pending trap that stands before the next instruction: asynchronous, or of a single step. -/
def Mach.issue (m : Mach) (t : TileId) : Todo :=
  let th := m.thr t
  if m.resting t then .done m
  else if th.ended then .done (m.leave t)
  else if !th.asyncs.isEmpty && !th.midMultiple then .run (.asyncTrapDelivery t) m
  else if th.stepTrap then .done (m.trapAt t .brk th.pc)
  else if th.atExit then .done (m.leave t)
  else if th.st = .ready && th.breaks th.pc then .done (m.trapAt t .brk th.pc)
  else m.fetchInstr t

/-! ### The other agents -/

/-- The next move of a chain (R141): latch, wait, step, signal; also of one that a fault of this cycle has stopped (R155). -/
def Mach.chainTodo (m : Mach) (t : TileId) (e : Eng) : Todo :=
  let x := (m.ctx t).chain e
  if x.st ≠ .running && !m.stoppedNow t e then .done m
  else
    match x.latched with
    | none => .run (.blockLatch t e) m
    | some i =>
      match x.phase with
      | .waits => .run (.semaphoreWaitGrant t e) m
      | .steps => .run i m
      | .signals => .run (.iterationSignal t e) m

end Sys2Proof.Machine

namespace Sys2Proof

/-- No time need pass between the moves of two engines of one tile: they can be of one cycle (R146, R155). -/
def Turn.shares (a b : Turn) : Bool := a.act = .chain && b.act = .chain && a.tile = b.tile && a.eng ≠ b.eng

/-- The rows that happen by themselves: neither a Musher word, nor a loop block, nor a packet. -/
def Instr.isEvent (i : Instr) : Bool :=
  match i with
  | .muIllegal _ => false
  | i => (encodeMusher i).isNone && i.block?.isNone && (encodePacket i).isNone

end Sys2Proof

namespace Sys2Proof.Machine

/-- What the turn comes to. -/
def State.todo (s : State) : Todo :=
  match s.turn.act with
  | .issue => s.m.issue s.turn.thread
  | .chain => s.m.chainTodo s.turn.tile s.turn.eng
  | .packet => match (s.m.queue s.turn.queue).held with
    | some i => .run i s.m
    | none => .done s.m
  | .node => .run (.graphNodeDispatch s.turn.inst) s.m
  | .event i => if i.isEvent then .run i s.m else .done s.m

/-! ### Time (R85, R157, R417) -/

/-- Counter sources that the timing of parts not modelled decides (R157): their advance is a free value. -/
def freeTileSources : List Nat := [0x06, 0x07, 0x08, 0x09, 0x0A]

/-- The counters of a tile run while an item is on it (R158). -/
def Tile.pass (x : Tile) (n fresh : Nat) : Tile :=
  if x.bind.isNone || x.halting || x.exchanging || x.ctx.tes.isEmpty then x
  else { x with ctx := freeTileSources.foldl (fun (c : Ctx) k => c.tileEvent k (Config.freeTotal k fresh)) (x.ctx.tileEvent 0x01 n) }

/-- `n` cycles pass. -/
def Mach.pass (m : Mach) (n : Nat) : Mach :=
  let time := m.time + BitVec.ofNat 64 n
  let m := { m with time := time, arbSince := if m.arb = .running && !m.nothingToDo then time else m.arbSince, tiles := m.tiles.map (fun (p : Nat × Tile) => (p.1, p.2.pass n m.fresh)) }
  ((List.range 4).foldl (fun (m : Mach) d => m.dieEvent (BitVec.ofNat 2 d) 0x01 n) m).bump

/-- What a step brings about at once: WAITSIGs are evaluated after the Herder's signal updates, while it runs (R74, R396); turns of
queues that cannot dispatch end (R69); posted writes go on (R192); forwards whose handles are out of use end (R230). -/
def State.settle (s : State) : State :=
  s.onM (fun m =>
    let m := if s.fw.boot = .ready && s.fw.upd ≠ .atBoundary then m.evalNowAll else m
    m.endTurns.drainAllPosted.dropForwards)

/-- A step is over: what it brings about at once has happened, time has passed, and it is another agent's turn (log 3, log 4). -/
def State.tick (s : State) : State :=
  let s := s.settle
  let next := Config.turn s.m.fresh
  { s with turn := next, m := s.m.pass ((if s.turn.shares next then 0 else 1) + Config.elapsed s.m.fresh) }

/-! ### Placing an instruction -/

/-- Memory with a page table at 0x20000 whose one leaf maps virtual addresses 0 to 64 GiB - 1 onto themselves, for every
access at U, and the instruction's words at 0x10000. -/
def placedMem (m : Memory) (w : Nat) : Memory :=
  Memory.write (Memory.write (Memory.write m 0x20000 8 0x22001) 0x22000 8 0xF3) 0x10000 8 w

/-- The thread that fetches it. -/
def placedThread (th : Thread) : Thread :=
  { th with pc := 0x10000, st := .ready, out := none, hold := none, asyncs := [], stepTrap := false, kbpa := [], sup := none, fence := none }

/-- The machine with the instruction where thread 0 of cluster 0 fetches next: the page table of its partition, the right to
read and write memory, the instruction cache without the line, and the turn. -/
def State.placeWord (s : State) (w : Nat) : State :=
  let t : TileId := 0
  let p := s.m.partOf t
  let drop := fun (c : MCore) => { c with ilines := [] }
  let m := { s.m with mem := placedMem s.m.mem w, cores := tmod MCore.reset s.m.cores 0 drop, tlbs := [] }
  let m := (m.modPart p (fun x => { x with ptroot := 0x20000 })).setGrants 2 0 (masterMusher 0) 3
  let m := (m.modThr t placedThread).modTile t (fun x => { x with halting := false, exchanging := false })
  { s with m := { m with poisS := m.poisS.filter (fun x => !(x = 0x400 || x = 0x800 || x = 0x880)) },
           turn := { s.turn with act := .issue, thread := t } }

end Sys2Proof.Machine
end

