-- ==== Sys2Proof/Machine/Step.lean ====
section
/-! DEFINITION. One step of the machine: the turn's agent moves, then time passes. -/
namespace Sys2Proof.Machine

/-- A step ends with the passing of time where the machine goes on. -/
def ticked (o : Host.Outcome State Fault Refusal) : Host.Outcome State Fault Refusal :=
  match o with
  | .next s => .next s.tick
  | .fault f => .fault f
  | .refused r => .refused r

/-- One step of the machine. -/
def step (s : State) : Host.Outcome State Fault Refusal :=
  match s.todo with
  | .run i m => ticked (exec i { s with m := m })
  | .done m => .next ({ s with m := m }).tick

/-- An instruction of the opcode table where the next step fetches (thread 0 of cluster 0); the bits above `nbits` are
zero. -/
def State.withFetchWord (s : State) (nbits w : Nat) : State := s.placeWord (w % 2 ^ nbits)

end Sys2Proof.Machine
end

