-- ==== Sys2Proof/WellFormed.lean ====
section
/-! DEFINITION. Which terms of `Instr` stand for something the spec describes: fields in the ranges of the encodings (R235,
R71, R77-R85, R237-R246) and, for events, units, links and sizes that exist (R10). -/
namespace Sys2Proof

/-- A packet as a queue or a graph node may hold it (R71). -/
def packetOk (i : Instr) : Bool := packetFieldsOk i none || packetFieldsOk i (some 255)

/-- A loop block: its engine is that of its operator's code and its fields keep R238-R246. -/
def blockOk (i : Instr) : Bool :=
  match i.block? with
  | some (code, b) => b.eng = BitVec.ofNat 2 (code / 256) && blockFieldsOk code b && lanesOk ((encBlock code b).getD 1 0)
  | none => true

/-- The link end of an event of a link. -/
def Instr.link? : Instr → Option LinkEnd
  | .dataFlitReceive l _ | .idleFlitReceive l _ | .flitTransmit l | .ackIdleTimer l | .replayTimerExpiry l
  | .retireSendTimer l | .laneLossOfLock l | .retrainComplete l _ | .retrainTimeout l => some l
  | .fabricPortDown p | .fabricPortReturn p => some (Machine.portEnd p)
  | _ => none

/-- An event names only what exists (R10), in the sizes its rule gives. -/
def eventOk (i : Instr) : Bool :=
  ((i.link?.map LinkEnd.valid).getD true) &&
  (match i with
    | .dataFlitReceive _ f => f.data
    | .idleFlitReceive _ f => !f.data
    | .hostMemoryRead _ _ n => decide (1 ≤ n.toNat ∧ n.toNat ≤ 4096)
    | .widxWrite _ _ n _ => decide (1 ≤ n.toNat ∧ n.toNat ≤ 8)
    | .hostMemoryWrite _ _ d => decide (1 ≤ d.length ∧ d.length ≤ 4096)
    | .perstDeassert gen lanes => decide (5 ≤ gen.toNat) && (lanes = 16 || lanes = 8 || lanes = 4)
    | .functionLevelReset f => f ≠ 0
    | .knownBadTableWrite r _ v => decide (r.ch.toNat < 96) && Machine.knownBadOk v
    | .maintenanceWindow r _ => decide (r.ch.toNat < 96)
    | .hbmScrubRead _ ch => decide (ch.toNat < 96)
    | .rotationDue u => Machine.unitExists u
    | .unitReturnRequest u => Machine.unitExists u
    | .routingTableRequest _ v => Machine.routeOk v.toNat
    | .linkStateReport m => m.op = 0x3B
    | .tkpullRound _ n => decide (n < 64)
    | _ => true)

/-- A term that stands for a row of the table with fields the spec admits; MU_ILLEGAL stands for the words of R234. -/
def Instr.wellFormed (i : Instr) : Bool :=
  match i with
  | .muIllegal w => (decMap w 0).isNone
  | i => musherFieldsOk i && packetOk i && blockOk i && eventOk i

abbrev Instr.WellFormed (i : Instr) : Prop := i.wellFormed = true

end Sys2Proof
end

