-- ==== Sys2Proof/Safety.lean ====
section
/-! DEFINITION. What the claims call a safe run, and the words the claims are written in: which step a block takes, what an
instruction leaves as it was, and the invariants of the machine. -/
namespace Sys2Proof.Machine

/-- R20: the power cap in force and the one to come lie between 1,200 W and 2,800 W in steps of 25 W. -/
def Power.capsOk (p : Power) : Prop :=
  (1200 ≤ p.pcap.toNat ∧ p.pcap.toNat ≤ 2800 ∧ p.pcap.toNat % 25 = 0) ∧
    (1200 ≤ p.capSet.toNat ∧ p.capSet.toNat ≤ 2800 ∧ p.capSet.toNat % 25 = 0)

/-- A step that the machine completes. -/
def Completes (o : Host.Outcome State Fault Refusal) : Prop := ∃ t, o = .next t

/-! ### The issuing thread -/

/-- The thread that issues. -/
abbrev State.self (s : State) : Thread := s.m.thr s.turn.thread

/-- Outside the threads nothing differs, and of them only the issuing one. -/
def OnlySelf (s s' : State) : Prop :=
  s' = { s with m := { s.m with threads := s'.m.threads } } ∧ ∀ u, u ≠ s.turn.thread → s'.m.thr u = s.m.thr u

/-- A thread whose instruction has completed with the next one at `pc`: beside the general registers and the pc it is
READY, and a single step at U is to trap (R151, R312). -/
def Completed (th th' : Thread) (pc : Dword) : Prop :=
  th' = { th with g := th'.g, pc := pc, st := .ready, stepTrap := th.pl == 0 && th.ktdbg.getLsbD 1 }

/-- `i` at `s` completes from `l` on, which is `s`, or `s` with an address looked up: gd receives `v` (g0 keeps reading zero), every
other register keeps its value, the pc moves to `pc`, and nothing else changes. -/
def GivesFrom (i : Instr) (s l : State) (d : Reg) (v pc : Dword) : Prop :=
  ∃ s', exec i s = .next s' ∧ OnlySelf l s' ∧ Completed l.self s'.self pc ∧
    ∀ r, s'.self.rd r = if r = d ∧ r ≠ 0 then v else l.self.rd r

/-- `i` completes: gd receives `v`, the pc moves to `pc`, and nothing else changes. -/
def Gives (i : Instr) (s : State) (d : Reg) (v pc : Dword) : Prop := GivesFrom i s s d v pc

/-- `i` completes and only moves the pc. -/
def Moves (i : Instr) (s : State) (pc : Dword) : Prop :=
  ∃ s', exec i s = .next s' ∧ OnlySelf s s' ∧ Completed s.self s'.self pc ∧ s'.self.g = s.self.g

/-- `i` completes: the machine is `m` with the issuing thread moved past one word. -/
def Does (i : Instr) (s : State) (m : Mach) : Prop :=
  exec i s = .next { s with m := m.modThr s.turn.thread (fun th => th.finish (th.pc + 4)) }

/-- `i` takes a precise trap of cause `c` with KTVAL `tv` (R154): the machine is `m` after the trap is taken. `acc` is the kind of the
access refused, which trap firmware's record names (R176): 0 a read or none, 1 a write, 2 an atomic. -/
def Traps (i : Instr) (s : State) (m : Mach) (c : Cause) (tv : Dword) (acc : Nat := 0) : Prop :=
  exec i s = .next { s with m := m.trapAt s.turn.thread c tv acc }

/-- `i` does not complete and issues again later (R151); `Waits`: for an event. -/
def Stalls (i : Instr) (s : State) : Prop := exec i s = .next (s.onThread (fun th => { th with st := .stalled }))
def Waits (i : Instr) (s : State) : Prop := exec i s = .next (s.onThread (fun th => { th with st := .waiting }))

/-- The same from `l` on, which is `s` with an address looked up. -/
def StallsFrom (i : Instr) (s l : State) : Prop := exec i s = .next (l.onThread (fun th => { th with st := .stalled }))

/-- A thread, but for the mark that the answer it waits for fills no cache (R179, R193). -/
def MayStale (a b : Thread) : Prop :=
  ∃ f : Bool, b = { a with out := a.out.map (fun o => { o with stale := o.stale || f }) }

/-! ### Memory -/

/-- An access of memory has nothing beside its own effect: no latent bit error is to be found by a decoder (R13, R15), and no
counter of a die counts sectors, walks or TLB misses (R157). -/
def Mach.quiet (m : Mach) : Prop :=
  m.symErr = [] ∧ m.sram1 = [] ∧ m.sram2 = [] ∧ ∀ src ∈ [0x0E, 0x20, 0x21, 0x22], ∀ d : DieId, m.counts d src = false

/-- Who translates for the issuing thread: its cluster's Mushers (R172). -/
def State.walker (s : State) : Walker := .core (TileId.cluster s.turn.thread)

/-- The state once the thread's translation of an address has looked in the TLB and, where that misses, walked (R172). -/
def State.looked (s : State) (va : Dword) : State :=
  s.onM (fun m => m.looked s.turn.thread va)

/-- Every TLB entry of a partition is what a walk finds now: no entry written since is still to be invalidated (R173). -/
def Mach.tlbFresh (m : Mach) (p : PartId) : Prop :=
  ∀ k, ∀ e ∈ tget [] m.tlbs k, e.part = p →
    ∀ va, va / pageSize e.level = e.page → m.walkRoot p va = .leaf (leafOf e.raw e.level)

/-- What the thread's access of `n` bytes at `va` is translated to (R170). -/
def State.xlate (s : State) (va : Dword) (n : Nat) (acc : Acc) : Xl :=
  s.m.translate s.walker (s.m.partOf s.turn.thread) va.toNat n acc s.self.user

/-- An access of `n` bytes at `va` is translated to the bytes from `pa` up of the thread's own die, where the access tables
grant it to the cluster's Mushers (R51, R170). -/
def State.reaches (s : State) (va : Dword) (n : Nat) (acc : Acc) (pa : Nat) (c : Bool) : Prop :=
  s.xlate va n acc = .ok (.here pa) c ∧
    paDie pa = TileId.die s.turn.thread ∧
    grantOk (s.m.grants (paTarget pa).1 (paTarget pa).2 (masterMusher (TileId.cluster s.turn.thread))) acc = true

/-- No buffered store of the thread holds back an access of class `cls` (R181, R272). -/
def Thread.free (th : Thread) (cls : BitVec 4) : Prop := fenceHeld th.wbuf cls = false ∧ classHeld th.wbuf cls = false

/-- The loads with their sizes and whether they sign-extend (R270). -/
def loadForms (d a : Reg) (cls : BitVec 4) (off : BitVec 12) : List (Instr × Nat × Bool) :=
  [(.ldb d a cls off, 1, true), (.ldbu d a cls off, 1, false), (.ldh d a cls off, 2, true), (.ldhu d a cls off, 2, false),
   (.ldw d a cls off, 4, true), (.ldwu d a cls off, 4, false), (.ldd d a cls off, 8, false)]

/-- The stores with their sizes (R270). -/
def storeForms (r a : Reg) (cls : BitVec 4) (off : BitVec 12) : List (Instr × Nat) :=
  [(.stb r a cls off, 1), (.sth r a cls off, 2), (.stw r a cls off, 4), (.std r a cls off, 8)]

/-- A loaded value of `n` bytes as gd receives it. -/
def loadedValue (n : Nat) (signed : Bool) (v : Nat) : Dword :=
  if signed && decide (2 ^ (8 * n - 1) ≤ v) then BitVec.ofInt 64 (Int.ofNat v - 2 ^ (8 * n)) else BitVec.ofNat 64 v

/-- The signed value of the low `n` bits. -/
def sval (n x : Nat) : Int := (BitVec.ofNat n x).toInt

/-- The atomics (R285): whether they act on a dword, and what they store for the old value o, the operand b and, for
AMOCAS, the comparand d, all of the form's width; none where nothing is stored. -/
def amoForms (d a b : Reg) (cls : BitVec 4) : List (Instr × Bool × (Nat → Nat → Nat → Option Nat)) :=
  [(.amoswapW d a b cls, false, fun _ b _ => some b), (.amoswapD d a b cls, true, fun _ b _ => some b),
   (.amoaddW d a b cls, false, fun o b _ => some ((o + b) % 2 ^ 32)),
   (.amoaddD d a b cls, true, fun o b _ => some ((o + b) % 2 ^ 64)),
   (.amoandW d a b cls, false, fun o b _ => some (o &&& b)), (.amoandD d a b cls, true, fun o b _ => some (o &&& b)),
   (.amoorW d a b cls, false, fun o b _ => some (o ||| b)), (.amoorD d a b cls, true, fun o b _ => some (o ||| b)),
   (.amomaxW d a b cls, false, fun o b _ => some (if sval 32 o < sval 32 b then b else o)),
   (.amomaxD d a b cls, true, fun o b _ => some (if sval 64 o < sval 64 b then b else o)),
   (.amominW d a b cls, false, fun o b _ => some (if sval 32 b < sval 32 o then b else o)),
   (.amominD d a b cls, true, fun o b _ => some (if sval 64 b < sval 64 o then b else o)),
   (.amomaxuW d a b cls, false, fun o b _ => some (if o < b then b else o)),
   (.amomaxuD d a b cls, true, fun o b _ => some (if o < b then b else o)),
   (.amominuW d a b cls, false, fun o b _ => some (if b < o then b else o)),
   (.amominuD d a b cls, true, fun o b _ => some (if b < o then b else o)),
   (.amocasW d a b cls, false, fun o b d => if o = d then some b else none),
   (.amocasD d a b cls, true, fun o b d => if o = d then some b else none)]

/-! ### Loop blocks -/

/-- The step that a loop block takes when its chain's turn comes. -/
def stepOf (i : Instr) (s : State) : Option BlockStep :=
  match i with
  | .sqNop b => some (sqNopStep b)
  | .sqLoop b => some (sqLoopStep b)
  | .sqEnd b => some (sqEndStep b)
  | .sqPatch b => some (sqPatchStep b)
  | .sqEvent b => some (sqEventStep b)
  | .ldCopy b => some (ldCopyStep b)
  | .ldGather b => some (ldGatherStep b)
  | .ldBcast b => some (ldBcastStep b)
  | .ldFill b => some (ldFillStep b)
  | .ldPref b => some (ldPrefStep b)
  | .stCopy b => some (stCopyStep b)
  | .stScatter b => some (stScatterStep b)
  | .stReduce b => some (stReduceStep b)
  | .mxWload b => some (mxWloadStep b)
  | .mxWloads b => some (mxWloadsStep b)
  | .mxMma b => some (mxMmaStep b)
  | .mxAzero b => some (mxAzeroStep b)
  | .mxAfill b => some (mxAfillStep b)
  | .mxAread b => some (drainOf 0x106 b false (s.m.skipsDrain s.turn.tile))
  | .mxAdrain b => some (drainOf 0x107 b true (s.m.skipsDrain s.turn.tile))
  | .mxGlsend b => some (mxGlsendStep b)
  | .mxArebase b => some (mxArebaseStep b)
  | .vxAdd b => some (vxAddStep b)
  | .vxSub b => some (vxSubStep b)
  | .vxMul b => some (vxMulStep b)
  | .vxFma b => some (vxFmaStep b)
  | .vxMin b => some (vxMinStep b)
  | .vxMax b => some (vxMaxStep b)
  | .vxAbs b => some (vxAbsStep b)
  | .vxNeg b => some (vxNegStep b)
  | .vxCmp b => some (vxCmpStep b)
  | .vxSel b => some (vxSelStep b)
  | .vxClamp b => some (vxClampStep b)
  | .vxSqrt b => some (vxSqrtStep b)
  | .vxRcpa b => some (vxRcpaStep b)
  | .vxRsqa b => some (vxRsqaStep b)
  | .vxExp2a b => some (vxExp2aStep b)
  | .vxLog2a b => some (vxLog2aStep b)
  | .vxIadd b => some (vxIaddStep b)
  | .vxIsub b => some (vxIsubStep b)
  | .vxImul b => some (vxImulStep b)
  | .vxIand b => some (vxIandStep b)
  | .vxIor b => some (vxIorStep b)
  | .vxIxor b => some (vxIxorStep b)
  | .vxIshl b => some (vxIshlStep b)
  | .vxIshr b => some (vxIshrStep b)
  | .vxIsar b => some (vxIsarStep b)
  | .vxImin b => some (vxIminStep b)
  | .vxImax b => some (vxImaxStep b)
  | .vxIota b => some (vxIotaStep b)
  | .vxCvt b => some (vxCvtStep b)
  | .vxPack b => some (vxPackStep b)
  | .vxUnpack b => some (vxUnpackStep b)
  | .vxScalefind b => some (vxScalefindStep b)
  | .vxExpmax b => some (vxExpmaxStep b)
  | .vxRsum b => some (vxRsumStep b)
  | .vxRmax b => some (vxRmaxStep b)
  | .vxRmin b => some (vxRminStep b)
  | .vxMove b => some (vxMoveStep b)
  | .vxPerm b => some (vxPermStep b)
  | .vxZero b => some (vxZeroStep b)
  | _ => none

/-- The chain of engine `e` on the turn's tile stands before the first step of a block, and its steps may issue; no write of
the chain is still inside its latency distance, and nothing in the tile is poisoned or in error. -/
def State.firstStep (s : State) (e : Eng) : Prop :=
  let c := s.m.ctx s.turn.tile
  let x := c.chain e
  s.m.chainGoes s.turn.tile e = true ∧ x.phase = .steps ∧ blockIx x = (0, 0, 0, 0) ∧ x.hist = [] ∧ s.m.quiet ∧
    c.storePois = [] ∧ c.accPois = [] ∧ (s.m.tile s.turn.tile).parity = false ∧ c.ext.replaying = none

/-- The same, of a block of one iteration. -/
def State.onlyStep (s : State) (e : Eng) (b : Block) : Prop :=
  s.firstStep e ∧ b.b0 = 1 ∧ b.b1 = 1 ∧ b.b2 = 1 ∧ b.b3 = 1

/-- Operand `o`, at coordinates `c`, is the `n` bytes from `a` on of the tile store, read or written under format `f` through
a window that is not swizzled (R164). -/
def State.coordsAt (s : State) (o : Operand) (c : List Int) (f : Byte) (n a : Nat) : Prop :=
  let w := (s.m.ctx s.turn.tile).win o.index.toNat
  o.kind = 1 ∧ w.space = 0 ∧ bits w.d3.toNat 27 26 = 0 ∧ winFmt w o = f ∧ fmtWidth f = 8 * n ∧
    w.elemAt (s.m.chareaOf s.turn.tile) c (8 * n) = some (a, 0) ∧ a % 64 + n ≤ 64

/-- The same at the coordinates of an iteration (R243). -/
def State.elemAt (s : State) (o : Operand) (i : Ix) (f : Byte) (n a : Nat) : Prop :=
  s.coordsAt o (operandCoords o i) f n a

/-- Operand `o` of a one-iteration block is the `n` clean bytes from physical address `pa` on, on the tile's own die, which
the access tables grant the tile's engines: of a window of a pool that is not swizzled, or of translated memory (R51, R166,
R170). -/
def State.memAt (s : State) (o : Operand) (f : Byte) (n pa : Nat) (acc : Acc) : Prop :=
  let t := s.turn.tile
  let p := s.m.partOf t
  let w := (s.m.ctx t).win o.index.toNat
  o.kind = 1 ∧ winFmt w o = f ∧ fmtWidth f = 8 * n ∧
    (∃ a, w.elemAt (s.m.chareaOf t) (operandCoords o (0, 0, 0, 0)) (8 * n) = some (a, 0) ∧ a % 64 + n ≤ 64 ∧
      ((w.space = 3 ∧ s.m.tlbFresh p ∧ ∃ c, s.m.translate (.engine t) p a n acc true = .ok (.here pa) c) ∨
        ((w.space = 1 ∨ w.space = 2) ∧ bits w.d3.toNat 27 26 = 0 ∧ poolPlace s.m t w a = .here pa))) ∧
    pa % 64 + n ≤ 64 ∧ paDie pa = TileId.die t ∧ s.m.poisoned pa n = false ∧
    grantOk (s.m.grants (paTarget pa).1 (paTarget pa).2 (masterEngine p)) acc = true

/-- An element of the turn's tile store. -/
def State.stored (s : State) (x : Byte × Nat × Nat) : Nat := Memory.read (s.m.ctx s.turn.tile).store x.2.2 x.2.1

/-- The source operands of a one-iteration block are the given elements (format, bytes, address), in order; the others are
none. -/
def State.sourcesAre (s : State) (b : Block) (l : List (Byte × Nat × Nat)) : Prop :=
  ∀ k, k < 3 → let o := if k = 0 then b.op1 else if k = 1 then b.op2 else b.op3
    match l[k]? with
    | some (f, n, a) => s.elemAt o (0, 0, 0, 0) f n a
    | none => o.kind = 0

/-- What a step leaves as it was outside the tile: everything; and inside it, other chains but for the writes they remember,
and the configuration. -/
def TileOnly (s s' : State) (e : Eng) : Prop :=
  let t := s.turn.tile
  let c := s.m.ctx t
  let c' := s'.m.ctx t
  s' = { s with m := { s.m with tiles := s'.m.tiles } } ∧ (∀ u, u ≠ t → s'.m.tile u = s.m.tile u) ∧
    (∀ k, k ≠ e → c'.chain k = { c.chain k with hist := (c'.chain k).hist }) ∧
    c'.sems = c.sems ∧ c'.wins = c.wins ∧ c'.hnd = c.hnd ∧ c'.storePois = [] ∧ c'.accPois = []

/-- The one step of a block has issued: its flags are sticky and its iteration's signals are due (R145, R210). -/
def StepDone (s s' : State) (e : Eng) (fl : BitVec 16) : Prop :=
  let x := (s.m.ctx s.turn.tile).chain e
  let x' := (s'.m.ctx s.turn.tile).chain e
  x'.flags = x.flags ||| fl ∧ x'.phase = .signals ∧ x'.last = true ∧ x'.due = 1 ∧ x'.cur = x.cur ∧ x'.latched = x.latched ∧
    x'.st = x.st

/-- A block's one step at `s` writes, from `l` on, which is `s` or `s` with addresses looked up, `n` bytes of `y` from `a` on of the
tile store, and no other byte and no accumulator entry. -/
def StepWritesFrom (i : Instr) (s l : State) (e : Eng) (n a y : Nat) (fl : BitVec 16) : Prop :=
  ∃ s', exec i s = .next s' ∧ TileOnly l s' e ∧ StepDone l s' e fl ∧
    Memory.read (s'.m.ctx l.turn.tile).store a n = y % 256 ^ n ∧
    (∀ k, k < a ∨ a + n ≤ k → Memory.byte (s'.m.ctx l.turn.tile).store k = Memory.byte (l.m.ctx l.turn.tile).store k) ∧
    (s'.m.ctx l.turn.tile).acc = (l.m.ctx l.turn.tile).acc ∧ (s'.m.ctx l.turn.tile).rings = (l.m.ctx l.turn.tile).rings

/-- A block's one step writes `n` bytes of `y` from `a` on of the tile store, and no other byte and no accumulator entry. -/
def StepWrites (i : Instr) (s : State) (e : Eng) (n a y : Nat) (fl : BitVec 16) : Prop := StepWritesFrom i s s e n a y fl

/-- The same of a step that reads translated memory: its TLBs may have been filled (R172). -/
def StepLoads (i : Instr) (s : State) (e : Eng) (n a y : Nat) (fl : BitVec 16) : Prop :=
  ∃ tl, StepWritesFrom i s (s.onM (fun m => { m with tlbs := tl })) e n a y fl

/-- Coordinates `c` of accumulator tile `n` name entry `e` (R143). -/
def State.entryIs (s : State) (n : Nat) (c : List Int) (e : Nat) : Prop :=
  let cfg := (s.m.ctx s.turn.tile).accCfg n
  0 ≤ c.getD 0 0 ∧ c.getD 0 0 ≤ accNCol cfg ∧ 0 ≤ c.getD 1 0 ∧ c.getD 1 0 ≤ accNRow cfg ∧ c.getD 2 0 = 0 ∧ c.getD 3 0 = 0 ∧
    e = 128 * (accRow0 cfg + (c.getD 1 0).toNat) + (accCol0 cfg + (c.getD 0 0).toNat)

/-- An accumulator entry of the turn's tile. -/
def State.entry (s : State) (e : Nat) : AqEntry := tget AqEntry.zero (s.m.ctx s.turn.tile).acc e

/-- A block's one step writes entry `e` of accumulator tile `n`, whose W bit is then set, and no other entry and no byte of
the tile store. -/
def StepSets (i : Instr) (s : State) (n e : Nat) (y : AqEntry) : Prop :=
  let c := s.m.ctx s.turn.tile
  ∃ s', exec i s = .next s' ∧ TileOnly s s' .mx ∧ StepDone s s' .mx 0 ∧ s'.entry e = y ∧
    (∀ k, k ≠ e → s'.entry k = s.entry k) ∧ (s'.m.ctx s.turn.tile).store = c.store ∧
    (s'.m.ctx s.turn.tile).accCfg n = c.accCfg n ||| 0x4000000000000000 ∧
    (∀ k, k ≠ n → (s'.m.ctx s.turn.tile).accCfg k = c.accCfg k)

/-- A block's one step writes `n` bytes of `y` to memory from `pa` on, and changes nothing of the tile but its chain; the TLBs may
have been filled. -/
def StepWritesMem (i : Instr) (s : State) (e : Eng) (n pa y : Nat) : Prop :=
  let c := s.m.ctx s.turn.tile
  ∃ s', exec i s = .next s' ∧ StepDone s s' e 0 ∧ s'.m.mem = Memory.write s.m.mem pa n y ∧
    s' = { s with m := { s.m with tiles := s'.m.tiles, mem := s'.m.mem, tlbs := s'.m.tlbs } } ∧
    (∀ u, u ≠ s.turn.tile → s'.m.tile u = s.m.tile u) ∧ (s'.m.ctx s.turn.tile).store = c.store ∧
    (s'.m.ctx s.turn.tile).acc = c.acc ∧ (s'.m.ctx s.turn.tile).sems = c.sems

/-- CLOSE on OP0 of a block that ends here (R322): the bits of the tile store from the tail of the ring to the end of its slot, which
become zero; none where it closes nothing. -/
def closedBits (b : Block) (plan : Plan) (rings : Tbl Ring) (charea : Nat) : Option (Nat × Nat) :=
  let r := tget Ring.off rings b.op0.index.toNat
  if plan.next = none ∧ b.op0.kind = 2 ∧ b.op0.opf.getLsbD 0 = true ∧ r.tail.2 ≠ 0 then some (closeSpan charea r) else none

/-- What a step of a block that is taken writes, from `m` on, which its reads and messages have left: its bytes of the tile store and its
accumulator entries, the later ones winning, zeros where CLOSE ends a slot, the positions of its rings, its sticky flags, issue count and
loop indices, and the signals that are due (R104, R145, R210, R240, R322, R330). Nothing else changes but what chains remember of
overwritten values, poison, and the tile's event counters. -/
def StepEnds (m m' : Mach) (v : Env) (plan : Plan) (k : Wk) : Prop :=
  let c := m.ctx v.t
  let c' := m'.ctx v.t
  let x := c.chain v.e
  let i := plan.next.getD (blockIx x)
  let put := fun (a : Nat) => ((storeBytes k.out).filter (fun y => y.1 = a)).foldl
    (fun o y => BitVec.ofNat 8 (maskByte o.toNat y.2.mask y.2.val)) (Memory.byte c.store a)
  let ops := [v.b.op0, v.b.op1, v.b.op2, v.b.op3]
  m' = { m with tiles := m'.tiles } ∧ (∀ u, u ≠ v.t → m'.tile u = m.tile u) ∧ m'.tile v.t = { m.tile v.t with ctx := c' } ∧
    c'.acfg = c.acfg ∧ c'.sems = c.sems ∧ c'.wins = c.wins ∧ c'.hnd = c.hnd ∧ c'.tes = c.tes ∧ c'.macs = c.macs ∧ c'.owed = c.owed ∧
    c'.ext = { c.ext with dupPois := c'.ext.dupPois } ∧
    (∀ e, e ≠ v.e → c'.chain e = { c.chain e with hist := (c'.chain e).hist }) ∧
    c'.chain v.e = { x with flags := x.flags ||| k.fl, issue := x.issue + plan.cyc, i0 := i.1, i1 := i.2.1, i2 := i.2.2.1, i3 := i.2.2.2,
                            due := plan.ends, dueSig := (c'.chain v.e).dueSig, last := plan.next.isNone, phase := .signals, answers := [],
                            wtaken := false, hist := (c'.chain v.e).hist } ∧
    (∀ e, tget AqEntry.zero c'.acc e = ((k.acc.find? (fun p => p.1 = e)).map (·.2)).getD (tget AqEntry.zero c.acc e)) ∧
    ((∀ o ∈ ops, o.kind ≠ 2) → (c'.chain v.e).dueSig = []) ∧
    ((∀ o ∈ ops, o.kind = 2 → o.opf.getLsbD 0 = false) ∨ plan.next ≠ none → c'.rings = k.rings) ∧
    (∀ a, match closedBits v.b plan k.rings v.charea with
      | none => Memory.byte c'.store a = put a
      | some (b0, b1) => (b0 ≤ 8 * a ∧ 8 * a + 8 ≤ b1 → Memory.byte c'.store a = 0) ∧
          (8 * a + 8 ≤ b0 ∨ (b0 ≤ 8 * a ∧ b1 / 8 ≤ a) → Memory.byte c'.store a = put a))

/-- What a step of MX does beside its writes stays in its tile's context: no byte, entry, ring, semaphore, window, handle or other chain,
of the MX chain only what is due, and of the accumulator configurations only those of its own tiles and of `also`. -/
def MxAfter (m m' : Mach) (t : TileId) (n also : Nat) : Prop :=
  let c := m.ctx t
  let c' := m'.ctx t
  m' = { m with tiles := m'.tiles } ∧ (∀ u, u ≠ t → m'.tile u = m.tile u) ∧ m'.tile t = { m.tile t with ctx := c' } ∧
    c'.store = c.store ∧ c'.acc = c.acc ∧ c'.rings = c.rings ∧ c'.sems = c.sems ∧ c'.wins = c.wins ∧ c'.hnd = c.hnd ∧
    c'.ld = c.ld ∧ c'.vx = c.vx ∧ c'.st = c.st ∧ c'.mx = { c.mx with due := c'.mx.due, dueSig := c'.mx.dueSig } ∧
    (∀ q, q ≠ n → q ≠ also → c'.accCfg q = c.accCfg q)

/-- After the signals of a step, chain `x` goes on as `y`: with the same block, or, after its last step, with the block that follows or
that `sq.loop` chose, or it has ended (R240, R325, R326). -/
def ChainGoesOn (x y : Chain) (i : Instr) (code : Nat) : Prop :=
  y.phase = .waits ∧ y.due = 0 ∧ y.flags = x.flags ∧ y.issue = x.issue ∧ y.flight = x.flight ∧
    (x.last = false → y.cur = x.cur ∧ y.latched = some i ∧ y.st = .running ∧ blockIx y = blockIx x) ∧
    (x.last = true → y.latched = none ∧ blockIx y = (0, 0, 0, 0) ∧
      (code % 256 = 0xF2 → y.st = .ended ∧ y.cur = x.cur) ∧
      (code % 256 = 0xF1 → y.st = .running ∧ y.cur = x.i0) ∧
      (code % 256 ≠ 0xF1 → code % 256 ≠ 0xF2 → y.st = .running ∧ y.cur = x.cur + 1))

/-- What a list of waits or signals comes to for one semaphore. -/
def amountOf (l : List (BitVec 5 × Nat)) (k : BitVec 5) : Nat := ((l.filter (fun x => x.1 = k)).map (·.2)).sum

/-- Nothing but the turn's tile differs, and there nothing but its context. -/
def ContextOnly (s s' : State) (t : TileId) : Prop :=
  s' = { s with m := { s.m with tiles := s'.m.tiles } } ∧ (∀ u, u ≠ t → s'.m.tile u = s.m.tile u) ∧
    s'.m.tile t = { s.m.tile t with ctx := s'.m.ctx t }

/-- The operators that make one element of each element, or pair or triple of elements: with their engine, how many sources
they have, and the code and flags they make of the source codes `l`, written under format f0, read under f1 (R332, R335,
R368 to R379; of a run of one element, what the run comes to). -/
def elementForms (b : Block) (f0 f1 : Byte) : List (Instr × Eng × Nat × (List Nat → Nat × BitVec 16)) :=
  let x := fun (l : List Nat) (k : Nat) => inVal f1 b.ftzi (l.getD k 0)
  let fp := fun (g : List Nat → Val × BitVec 16) (l : List Nat) => outRes f0 b.rm false b.ftzo (g l)
  let ap := fun (g : FFmt → Val → Nat × BitVec 16) (l : List Nat) =>
    ftzOut (fmtD f0) b.ftzo (g (if f0 = 1 then fp32 else bf16) (x l 0))
  let int := fun (g : Word → Word → Word) (l : List Nat) =>
    ((g (BitVec.ofNat 32 (l.getD 0 0)) (BitVec.ofNat 32 (l.getD 1 0))).toNat, (0 : BitVec 16))
  let same := fun (l : List Nat) => (l.getD 0 0, (0 : BitVec 16))
  let run := fun (l : List Nat) => redPost f1 b.ftzo (redPre f1 b.ftzi (l.getD 0 0))
  [(.ldCopy b, .ld, 1, same), (.stCopy b, .st, 1, same), (.ldFill b, .ld, 0, fun _ => (b.d15.toNat, 0)),
   (.vxMove b, .vx, 1, same), (.vxZero b, .vx, 0, fun _ => (0, 0)),
   (.vxAdd b, .vx, 2, fp (fun l => valAdd b.rm (x l 0) (x l 1))),
   (.vxSub b, .vx, 2, fp (fun l => valAdd b.rm (x l 0) (x l 1).neg')),
   (.vxMul b, .vx, 2, fp (fun l => valMul (x l 0) (x l 1))),
   (.vxFma b, .vx, 3, fp (fun l => valFma b.rm (x l 0) (x l 1) (x l 2))),
   (.vxMin b, .vx, 2, fp (fun l => (valMin (x l 0) (x l 1), 0))),
   (.vxMax b, .vx, 2, fp (fun l => (valMax (x l 0) (x l 1), 0))),
   (.vxAbs b, .vx, 1, fp (fun l => ((x l 0).abs', 0))), (.vxNeg b, .vx, 1, fp (fun l => ((x l 0).neg', 0))),
   (.vxClamp b, .vx, 3, fp (fun l => (valMin (valMax (x l 0) (x l 1)) (x l 2), 0))),
   (.vxSqrt b, .vx, 1, fp (fun l => valSqrt (x l 0))),
   (.vxRcpa b, .vx, 1, ap rcpa), (.vxRsqa b, .vx, 1, ap rsqa), (.vxExp2a b, .vx, 1, ap exp2a),
   (.vxLog2a b, .vx, 1, ap log2a),
   (.vxCmp b, .vx, 2, fun l => (b2n (relHolds (bits b.d15.toNat 2 0) (x l 0) (x l 1)), 0)),
   (.vxSel b, .vx, 3, fun l => (if l.getD 2 0 ≠ 0 then l.getD 0 0 else l.getD 1 0, 0)),
   (.vxIadd b, .vx, 2, int (fun x y => x + y)), (.vxIsub b, .vx, 2, int (fun x y => x - y)),
   (.vxImul b, .vx, 2, int (fun x y => x * y)), (.vxIand b, .vx, 2, int (fun x y => x &&& y)),
   (.vxIor b, .vx, 2, int (fun x y => x ||| y)), (.vxIxor b, .vx, 2, int (fun x y => x ^^^ y)),
   (.vxIshl b, .vx, 2, int (fun x y => x <<< (y.toNat % 32))),
   (.vxIshr b, .vx, 2, int (fun x y => x >>> (y.toNat % 32))),
   (.vxIsar b, .vx, 2, int (fun x y => x.sshiftRight (y.toNat % 32))),
   (.vxImin b, .vx, 2, int (fun x y => if x.toInt < y.toInt then x else y)),
   (.vxImax b, .vx, 2, int (fun x y => if x.toInt < y.toInt then y else x)),
   (.vxIota b, .vx, 0, fun _ => (bits b.d15.toNat 31 0, 0)),
   (.vxCvt b, .vx, 1, fun l => outCode f0 b.rm b.sat b.ftzo (x l 0)),
   (.vxPack b, .vx, 1, fun l => outCode f0 b.rm b.sat b.ftzo (x l 0)),
   (.vxPack b, .vx, 2, fun l =>
     outRes f0 b.rm b.sat b.ftzo (scaleDown (x l 0) (decodeVal (fmtD b8p1u) (l.getD 1 0)))),
   (.vxUnpack b, .vx, 1, fun l => outRes f0 b.rm b.sat b.ftzo (valMul (x l 0) (.num false 1 0))),
   (.vxUnpack b, .vx, 2, fun l =>
     outRes f0 b.rm b.sat b.ftzo (valMul (x l 0) (decodeVal (fmtD b8p1u) (l.getD 1 0)))),
   (.vxRsum b, .vx, 1, run), (.vxRmax b, .vx, 1, run), (.vxRmin b, .vx, 1, run)]

/-! ### Packets -/

/-- Eight bytes at `va` of a partition are the clean ones from `pa` on in this package, and the Herder may make the access
(R51, R170). -/
def Mach.herderAt (m : Mach) (p : PartId) (va pa : Nat) (acc : Acc) : Prop :=
  (∃ c, m.translate (.die m.herderDie) p va 8 acc false = .ok (.here pa) c) ∧
    grantOk (m.grants (paTarget pa).1 (paTarget pa).2 masterHerder) acc = true ∧ m.quiet ∧ m.poisoned pa 8 = false

/-- A signal that the Herder can reach: in HBM or a die pool (R72, R73). -/
def Mach.signalAt (m : Mach) (p : PartId) (va pa : Nat) (acc : Acc) : Prop := m.herderAt p va pa acc ∧ paRegion pa ≠ 1

/-- The signal at `pa` has been updated, and every waiting WAITSIG is to be evaluated (R73, R74). -/
def Mach.signalled (m : Mach) (pa : Nat) (op : SigOp) : Mach :=
  { m with mem := Memory.write m.mem pa 8 (sigNew (BitVec.ofNat 64 (Memory.read m.mem pa 8)) op).toNat }.evalAll

/-- A packet's completion signal is absent or can be written. -/
def Mach.csigAt (m : Mach) (d : Disp) (h : PktHdr) (pa : Nat) : Prop :=
  h.csig = 0 ∨ m.signalAt d.part h.csig.toNat pa .atomic

/-- A packet of a queue has ended: its completion signal is updated, and its vector raised if it asks for it (R71, R73). -/
def Mach.packetEnd (m : Mach) (d : Disp) (h : PktHdr) (op : SigOp) (pa : Nat) : Mach :=
  let m := if h.csig = 0 then m else m.signalled pa op
  if h.irq then m.irq d.func h.vec else m

/-- The predicate of a COND holds for the value read (R82). -/
def condHolds (p : CondBody) (x : Dword) : Bool :=
  let s := fun (y : Dword) => if p.dword then y.toInt else sval 32 y.toNat
  let z := fun (y : Dword) => if p.dword then y.toNat else y.toNat % 2 ^ 32
  match p.cmp.toNat with
  | 0 => s x = s p.cmpv
  | 1 => s x ≠ s p.cmpv
  | 2 => s x < s p.cmpv
  | 3 => s p.cmpv ≤ s x
  | 4 => z x < z p.cmpv
  | _ => z p.cmpv ≤ z x

/-- The work of a packet has started and goes on (R70). -/
def Mach.working (m m' : Mach) (d : Disp) (i : Instr) (h : PktHdr) : Prop :=
  m'.nextWork = m.nextWork + 1 ∧
    ∃ w, m'.work m.nextWork = some w ∧ w.src = d.src ∧ w.idx = d.idx ∧ w.pkt = i ∧ w.hdr = h ∧ w.part = d.part ∧
      w.start = m.time ∧ w.state = .running

/-- The queue of a packet is in ERROR over it (R67, R75). -/
def Mach.inError (m : Mach) (q : QueueId) (idx : Nat) (code : Byte) : Prop :=
  (m.queue q).state = .error ∧ (m.queue q).errcode = code ∧ (m.queue q).erridx = BitVec.ofNat 64 idx

/-! ### The host -/

/-- A host write of function `f` at offset `off` of aperture A, of which its aperture maps a register there, passes its
checks (R43, R45, R52). -/
def State.regOk (s : State) (f : FuncId) (off : Nat) (visible : Bool) : Prop :=
  s.hostUp = true ∧ visible = true ∧ grantOk (s.m.grants 3 (off / 65536) f.toNat) .write = true

/-- Request `code` with arguments `args` is pending in the Herder mailbox and firmware can act on it (R53). -/
def State.asked (s : State) (code : Nat) (args : List Dword) : Prop :=
  s.firmwareUp = true ∧ s.m.herderBox.asks code args = true

/-- Firmware acts on the request: error code and results wait for their completion, and the state is one that `p` holds of. -/
def Acts (i : Instr) (s : State) (err : Byte) (rs : List Dword) (p : State → Prop) : Prop :=
  ∃ s', exec i s = .next { s' with m := { s'.m with herderBox := { s'.m.herderBox with acted := some (err, rs) } } } ∧ p s'

end Sys2Proof.Machine
end

