-- ==== Sys2Proof/Certificates/Slice0/Obligations.lean ====
section
/-! DEFINITION. The statements for the provers, each from a numbered rule of the spec or from the model's own choices where
its docstring says so. A statement may join several claims of one subject. -/
open Sys2Proof Sys2Proof.Machine

/-! ### Musher arithmetic -/

/-- R264, R262: the 64-bit ALU. A, B are the signed values of ga and gb, uA, uB the unsigned ones, SH bits 5:0 of gb. -/
def Claims.AluResults : Prop :=
  ∀ (s : State) (d a b : Reg),
    let x := s.self.rd a
    let y := s.self.rd b
    let pc := s.self.pc + 4
    Gives (.add d a b) s d (BitVec.ofInt 64 (x.toInt + y.toInt)) pc ∧
    Gives (.sub d a b) s d (BitVec.ofInt 64 (x.toInt - y.toInt)) pc ∧
    Gives (.and d a b) s d (x &&& y) pc ∧
    Gives (.or d a b) s d (x ||| y) pc ∧
    Gives (.xor d a b) s d (x ^^^ y) pc ∧
    Gives (.shl d a b) s d (BitVec.ofNat 64 (x.toNat * 2 ^ (y.toNat % 64))) pc ∧
    Gives (.shr d a b) s d (BitVec.ofNat 64 (x.toNat / 2 ^ (y.toNat % 64))) pc ∧
    Gives (.sar d a b) s d (BitVec.ofInt 64 (x.toInt / 2 ^ (y.toNat % 64))) pc ∧
    Gives (.cmplt d a b) s d (if x.toInt < y.toInt then 1 else 0) pc ∧
    Gives (.cmpltu d a b) s d (if x.toNat < y.toNat then 1 else 0) pc ∧
    Gives (.min d a b) s d (BitVec.ofInt 64 (Min.min x.toInt y.toInt)) pc ∧
    Gives (.max d a b) s d (BitVec.ofInt 64 (Max.max x.toInt y.toInt)) pc ∧
    Gives (.minu d a b) s d (BitVec.ofNat 64 (Min.min x.toNat y.toNat)) pc ∧
    Gives (.maxu d a b) s d (BitVec.ofNat 64 (Max.max x.toNat y.toNat)) pc ∧
    Gives (.mul d a b) s d (BitVec.ofInt 64 (x.toInt * y.toInt)) pc ∧
    Gives (.mulhi d a b) s d (BitVec.ofInt 64 (x.toInt * y.toInt / 2 ^ 64)) pc ∧
    Gives (.mulhiu d a b) s d (BitVec.ofNat 64 (x.toNat * y.toNat / 2 ^ 64)) pc

/-- R217, R264: `div`, `divu`, `rem` and `remu` saturate at the format's limits in the direction of the dividend, and the
remainder is exact. -/
def Claims.DivisionResults : Prop :=
  ∀ (s : State) (d a b : Reg),
    let x := s.self.rd a
    let y := s.self.rd b
    let pc := s.self.pc + 4
    Gives (.div d a b) s d
      (if y.toInt = 0 then (if x.toInt < 0 then 0x8000000000000000 else if x.toInt = 0 then 0 else 0x7FFFFFFFFFFFFFFF)
       else if x.toInt = -2 ^ 63 ∧ y.toInt = -1 then 0x7FFFFFFFFFFFFFFF
       else BitVec.ofInt 64 (x.toInt.tdiv y.toInt)) pc ∧
    Gives (.divu d a b) s d
      (if y.toNat = 0 then (if x.toNat = 0 then 0 else 0xFFFFFFFFFFFFFFFF) else BitVec.ofNat 64 (x.toNat / y.toNat)) pc ∧
    Gives (.rem d a b) s d (BitVec.ofInt 64 (x.toInt.tmod y.toInt)) pc ∧
    Gives (.remu d a b) s d (BitVec.ofNat 64 (x.toNat % y.toNat)) pc

/-- R265, R217: the word ALU works on the low halves and sign-extends its result from bit 31. -/
def Claims.WordAluResults : Prop :=
  ∀ (s : State) (d a b : Reg),
    let x := (s.self.rd a).setWidth 32
    let y := (s.self.rd b).setWidth 32
    let pc := s.self.pc + 4
    let out := fun (w : BitVec 32) => w.signExtend 64
    Gives (.addW d a b) s d (out (BitVec.ofInt 32 (x.toInt + y.toInt))) pc ∧
    Gives (.subW d a b) s d (out (BitVec.ofInt 32 (x.toInt - y.toInt))) pc ∧
    Gives (.shlW d a b) s d (out (BitVec.ofNat 32 (x.toNat * 2 ^ (y.toNat % 32)))) pc ∧
    Gives (.shrW d a b) s d (out (BitVec.ofNat 32 (x.toNat / 2 ^ (y.toNat % 32)))) pc ∧
    Gives (.sarW d a b) s d (out (BitVec.ofInt 32 (x.toInt / 2 ^ (y.toNat % 32)))) pc ∧
    Gives (.mulW d a b) s d (out (BitVec.ofInt 32 (x.toInt * y.toInt))) pc ∧
    Gives (.divW d a b) s d (out
      (if y.toInt = 0 then (if x.toInt < 0 then 0x80000000 else if x.toInt = 0 then 0 else 0x7FFFFFFF)
       else if x.toInt = -2 ^ 31 ∧ y.toInt = -1 then 0x7FFFFFFF
       else BitVec.ofInt 32 (x.toInt.tdiv y.toInt))) pc ∧
    Gives (.divuW d a b) s d (out
      (if y.toNat = 0 then (if x.toNat = 0 then 0 else 0xFFFFFFFF) else BitVec.ofNat 32 (x.toNat / y.toNat))) pc ∧
    Gives (.remW d a b) s d (out (BitVec.ofInt 32 (x.toInt.tmod y.toInt))) pc ∧
    Gives (.remuW d a b) s d (out (BitVec.ofNat 32 (x.toNat % y.toNat))) pc

/-- R266, R267, R268: the immediate forms, and the two-word constants, of which `lihi` keeps the low half of gd and `lapc`
adds to the address of its own first word. -/
def Claims.ImmediateResults : Prop :=
  ∀ (s : State) (d a : Reg) (imm : BitVec 16) (sh : BitVec 6) (imm32 : BitVec 32),
    let x := s.self.rd a
    let pc := s.self.pc + 4
    let pc2 := s.self.pc + 8
    Gives (.addk d a imm) s d (BitVec.ofInt 64 (x.toInt + imm.toInt)) pc ∧
    Gives (.andk d a imm) s d (x &&& BitVec.ofNat 64 imm.toNat) pc ∧
    Gives (.ork d a imm) s d (x ||| BitVec.ofNat 64 imm.toNat) pc ∧
    Gives (.xork d a imm) s d (x ^^^ BitVec.ofNat 64 imm.toNat) pc ∧
    Gives (.cmpltk d a imm) s d (if x.toInt < imm.toInt then 1 else 0) pc ∧
    Gives (.cmpltuk d a imm) s d (if x.toNat < imm.toNat then 1 else 0) pc ∧
    Gives (.shlk d a sh) s d (BitVec.ofNat 64 (x.toNat * 2 ^ sh.toNat)) pc ∧
    Gives (.shrk d a sh) s d (BitVec.ofNat 64 (x.toNat / 2 ^ sh.toNat)) pc ∧
    Gives (.sark d a sh) s d (BitVec.ofInt 64 (x.toInt / 2 ^ sh.toNat)) pc ∧
    Gives (.hik d imm) s d (BitVec.ofInt 64 (imm.toInt * 2 ^ 16)) pc ∧
    Gives (.li d imm32) s d (BitVec.ofInt 64 imm32.toInt) pc2 ∧
    Gives (.liu d imm32) s d (BitVec.ofNat 64 imm32.toNat) pc2 ∧
    Gives (.lihi d imm32) s d (BitVec.ofNat 64 (imm32.toNat * 2 ^ 32 + (s.self.rd d).toNat % 2 ^ 32)) pc2 ∧
    Gives (.lapc d imm32) s d (BitVec.ofInt 64 (s.self.pc.toInt + imm32.toInt)) pc2

/-- R269: a bit field of width w = bf_width(OFF, WID), which the register's end cuts off. Bit k of a result. -/
def Claims.BitFieldResults : Prop :=
  ∀ (s : State) (d a : Reg) (wid off : BitVec 7),
    let x := s.self.rd a
    let o := s.self.rd d
    let pc := s.self.pc + 4
    let w := if 64 ≤ off.toNat then 0 else Min.min wid.toNat (64 - off.toNat)
    ∃ vx vu vi : Dword,
      Gives (.bfx d a wid off) s d vx pc ∧ Gives (.bfxu d a wid off) s d vu pc ∧ Gives (.bfi d a wid off) s d vi pc ∧
      (∀ k : Nat, k < 64 →
        (vx.getLsbD k = (if w = 0 then false else if k < w then x.getLsbD (off.toNat + k) else x.getLsbD (off.toNat + w - 1))) ∧
        (vu.getLsbD k = (decide (k < w) && x.getLsbD (off.toNat + k))) ∧
        (vi.getLsbD k = (if off.toNat ≤ k ∧ k < off.toNat + w then x.getLsbD (k - off.toNat) else o.getLsbD k)))

/-- R217, R262, R264 to R269: what every integer instruction gives, for all operands, with its frame. -/
def Obligations.IntegerResults : Prop := Claims.AluResults ∧ Claims.DivisionResults ∧ Claims.WordAluResults ∧ Claims.ImmediateResults ∧ Claims.BitFieldResults

/-- R281, R282, R213: scalar FP32. The operands are bits 31:0, every NaN result is 0x7FC0_0000, a compare with a NaN operand is
false but for not-equal, and the result fills gd zero-extended. R282: conversions between signed 64-bit integers and FP32 are
to nearest even; to an integer NaN becomes 0 and a value beyond the range the limit. -/
def Obligations.ScalarFpResults : Prop :=
  ∀ (s : State) (d a b : Reg),
    let x := decodeF fp32 ((s.self.rd a).toNat % 2 ^ 32)
    let y := decodeF fp32 ((s.self.rd b).toNat % 2 ^ 32)
    let pc := s.self.pc + 4
    let out := fun (v : Val) => BitVec.ofNat 64 (convertF fp32 v 0 false).1
    let nan := decide (x = .nan) || decide (y = .nan)
    Gives (.fadd d a b) s d (if nan then 0x7FC00000 else out (valAdd 0 x y).1) pc ∧
    Gives (.fsub d a b) s d (if nan then 0x7FC00000 else out (valAdd 0 x y.neg').1) pc ∧
    Gives (.fmul d a b) s d (if nan then 0x7FC00000 else out (valMul x y).1) pc ∧
    Gives (.fmin d a b) s d (if nan then 0x7FC00000 else out (valMin x y)) pc ∧
    Gives (.fmax d a b) s d (if nan then 0x7FC00000 else out (valMax x y)) pc ∧
    Gives (.fcmpEq d a b) s d (if !nan && valEq x y then 1 else 0) pc ∧
    Gives (.fcmpLt d a b) s d (if !nan && valLt x y then 1 else 0) pc ∧
    Gives (.fcmpLe d a b) s d (if !nan && (valLt x y || valEq x y) then 1 else 0) pc ∧
    Gives (.fcmpNe d a b) s d (if nan || !valEq x y then 1 else 0) pc ∧
    Gives (.fcvtIf d a) s d (out (.num (decide ((s.self.rd a).toInt < 0)) (s.self.rd a).toInt.natAbs 0)) pc ∧
    ∃ n : Dword, Gives (.fcvtFi d a) s d n pc ∧ (x = .nan → n = 0) ∧
      (x = .inf true → n = 0x8000000000000000) ∧ (x = .inf false → n = 0x7FFFFFFFFFFFFFFF) ∧
      (∀ neg m e, x = .num neg m e →
        let r := signedInt neg (roundInt 0 neg m e).1
        n = if r < -2 ^ 63 then 0x8000000000000000 else if 2 ^ 63 - 1 < r then 0x7FFFFFFFFFFFFFFF else BitVec.ofInt 64 r)

/-! ### Branches and jumps -/

/-- R275: a branch moves the pc by 4 · sext(off16) where its condition holds, else by 4, and changes nothing else. -/
def Claims.BranchResults : Prop :=
  ∀ (s : State) (a b : Reg) (off : BitVec 16),
    let x := s.self.rd a
    let y := s.self.rd b
    let tgt := fun (c : Bool) => if c then BitVec.ofInt 64 (s.self.pc.toInt + 4 * off.toInt) else s.self.pc + 4
    Moves (.beq a b off) s (tgt (decide (x.toInt = y.toInt))) ∧
    Moves (.bne a b off) s (tgt (decide (x.toInt ≠ y.toInt))) ∧
    Moves (.blt a b off) s (tgt (decide (x.toInt < y.toInt))) ∧
    Moves (.bge a b off) s (tgt (decide (y.toInt ≤ x.toInt))) ∧
    Moves (.bltu a b off) s (tgt (decide (x.toNat < y.toNat))) ∧
    Moves (.bgeu a b off) s (tgt (decide (y.toNat ≤ x.toNat)))

/-- R276, R279: `jal` leaves pc + 4 in gd and jumps by words; `land` in sequence does nothing. -/
def Claims.JumpAndLand : Prop :=
  ∀ (s : State) (d : Reg) (off : BitVec 21) (t : Bool) (kind : BitVec 2) (tag : BitVec 16),
    Gives (.jal d off) s d (s.self.pc + 4) (BitVec.ofInt 64 (s.self.pc.toInt + 4 * off.toInt)) ∧
    Moves (.land t kind tag) s (s.self.pc + 4)

/-- R275, R276, R279: branches, `jal` and `land`. -/
def Obligations.BranchesAndJumps : Prop := Claims.BranchResults ∧ Claims.JumpAndLand

/-- R277, R278, R280: `jalr` whose target's word satisfies the landing-pad table completes: gd gets pc + 4 (ga read before gd
is written) and the pc the target. A target that does not, traps MU.CFI, and a misaligned one MU.ALIGN, with gd unwritten; one
whose word cannot be fetched traps as the fetch does. A `ret` to the launch exit address is no other (log 12).
`m1` and `m2` are the machine after the fetches, which may fill the TLB and the instruction cache. -/
def Obligations.JumpRegisterChecks : Prop :=
  ∀ (s : State) (d a : Reg) (kind : BitVec 2) (off : BitVec 14) (w w' : Word) (m1 m2 : Mach) (cause : Cause) (tv : Dword) (f : WalkFail),
    let t := s.turn.thread
    let g := s.self.rd a + BitVec.ofInt 64 (4 * off.toInt)
    let i := Instr.jalr d a kind off
    let jumps := fun (m : Mach) =>
      exec i s = .next { s with m := m.modThr t (fun th => (th.wr d (th.pc + 4)).finish g) }
    (g.toNat % 4 ≠ 0 → Traps i s s.m .align g) ∧
    (g.toNat % 4 = 0 → s.m.fetchWord t g = .trap .fetch g f m1 →
      exec i s = .next { s with m := m1.takeTrap t Cause.fetch.code false false g (m1.thr t).pc f }) ∧
    (g.toNat % 4 = 0 → kind = 3 → s.m.fetchWord t g = .word w m1 → m1.fetchWord t (g - 4) = .trap cause tv f m2 →
      exec i s = .next { s with m := m2.takeTrap t cause.code false false tv (m2.thr t).pc f }) ∧
    (g.toNat % 4 = 0 → s.m.fetchWord t g = .word w m1 →
      (∀ k tt tag, decodeWord w 0 = .land tt k tag → kind ≠ 3 → k = kind →
        (tt = true → (s.self.rd 31).toNat % 2 ^ 16 = tag.toNat) → jumps m1) ∧
      (∀ k tt tag, decodeWord w 0 = .land tt k tag → kind ≠ 3 →
        (k ≠ kind ∨ (tt = true ∧ (s.self.rd 31).toNat % 2 ^ 16 ≠ tag.toNat)) → Traps i s m1 .cfi g) ∧
      ((∀ k tt tag, decodeWord w 0 ≠ .land tt k tag) → kind ≠ 3 → Traps i s m1 .cfi g) ∧
      (kind = 3 → m1.fetchWord t (g - 4) = .word w' m2 →
        ((∃ d' o, decodeWord w' 0 = .jal d' o ∧ d' ≠ 0) ∨ (∃ d' a' o, decodeWord w' 0 = .jalr d' a' 0 o ∧ d' ≠ 0) →
          jumps m2) ∧
        ((∀ d' o, decodeWord w' 0 ≠ .jal d' o) → (∀ d' a' k o, decodeWord w' 0 ≠ .jalr d' a' k o) →
          Traps i s m2 .cfi g)))

/-! ### Memory -/

/-- R170, R172: looking an address up changes nothing but the TLBs, where nothing is to be counted or corrected; and where no
entry of the partition is out of date, what the access is translated to is what a walk finds. -/
def Claims.LookupFillsTlb : Prop :=
  ∀ (m : Mach) (w : Walker) (p : PartId) (va n : Nat) (acc : Acc) (user : Bool),
    m.quiet → (∀ t, w = .engine t → (m.ctx t).tes.any (fun x => x.2.toNat = 0x0E) = false) →
    m.walked w p va = { m with tlbs := (m.walked w p va).tlbs } ∧
    (m.tlbFresh p → (m.walked w p va).tlbFresh p ∧ (m.walked w p va).translate w p va n acc user = m.translate (.die w.of) p va n acc user)

/-- R270, R272, R184: a load whose bytes no buffered store touches and no data-cache line holds reads them from the memory
of its die, extends them and completes. No byte of memory changes; the data cache alone may take the line in, which is then no
longer to be filled from what other threads of the core have asked for (R179). -/
def Claims.LoadFromMemory : Prop :=
  ∀ (s : State) (d a : Reg) (cls : BitVec 4) (off : BitVec 12) (pa : Nat) (c : Bool),
    let t := s.turn.thread
    let ea := s.self.rd a + BitVec.ofInt 64 off.toInt
    let l := s.looked ea
    ∀ x ∈ loadForms d a cls off,
      ea.toNat % x.2.1 = 0 → l.reaches ea x.2.1 .read pa c → l.self.free cls → l.self.out = none →
      (∀ w ∈ l.self.wbuf, overlaps (.here pa) x.2.1 w = false) →
      (c = true → ∀ y ∈ (l.m.core (TileId.cluster t)).dlines, y.line ≠ pa / 64) →
      l.m.quiet → l.m.poisoned pa x.2.1 = false →
      ∃ s', exec x.1 s = .next s' ∧
        s' = { l with m := { l.m with threads := s'.m.threads, cores := s'.m.cores } } ∧
        (∀ u, u ≠ t → MayStale (l.m.thr u) (s'.m.thr u)) ∧ Completed l.self s'.self (l.self.pc + 4) ∧
        (∀ r, s'.self.rd r =
          if r = d ∧ r ≠ 0 then loadedValue x.2.1 x.2.2 (Memory.read l.m.mem pa x.2.1) else l.self.rd r) ∧
        (c = false → s'.m.cores = l.m.cores) ∧
        (∀ k, k ≠ TileId.cluster t → s'.m.core k = l.m.core k)

/-- R272, R184: a load whose bytes lie in one buffered store, the youngest that touches them, gets that store's bytes; one
that a cached line holds gets the line's bytes. Nothing but the registers and the TLB changes. -/
def Claims.LoadForwardedOrCached : Prop :=
  ∀ (s : State) (d a : Reg) (cls : BitVec 4) (off : BitVec 12) (pa : Nat) (c : Bool) (w : WEntry) (data : List Byte),
    let t := s.turn.thread
    let ea := s.self.rd a + BitVec.ofInt 64 off.toInt
    let l := s.looked ea
    ∀ x ∈ loadForms d a cls off,
      ea.toNat % x.2.1 = 0 → l.xlate ea x.2.1 .read = .ok (.here pa) c → fenceHeld l.self.wbuf cls = false →
      (youngest l.self.wbuf (.here pa) x.2.1 = some w → coveredBy (.here pa) x.2.1 w = true →
        GivesFrom x.1 s l d (loadedValue x.2.1 x.2.2 (w.data.toNat / 2 ^ (8 * (pa - (placeAddr w.place).2)) % 2 ^ (8 * x.2.1)))
          (l.self.pc + 4)) ∧
      (youngest l.self.wbuf (.here pa) x.2.1 = none → classHeld l.self.wbuf cls = false → c = true →
        dfind (l.m.core (TileId.cluster t)) (pa / 64) = some data → data.length = 64 →
        GivesFrom x.1 s l d (loadedValue x.2.1 x.2.2 (ofBytes ((data.drop (pa % 64)).take x.2.1))) (l.self.pc + 4)) ∧
      (youngest l.self.wbuf (.here pa) x.2.1 = some w → coveredBy (.here pa) x.2.1 w = false → StallsFrom x.1 s l)

/-- R170, R172, R270, R272, R184: loads, from memory, from the write buffer and from the data cache, and the TLB they go through. -/
def Obligations.Loads : Prop := Claims.LookupFillsTlb ∧ Claims.LoadFromMemory ∧ Claims.LoadForwardedOrCached

/-- R271, R285, R287: where a load, a store or an atomic traps, and in which order: alignment, then the walk and the page's
permissions, then the access tables, then poison; an atomic on a host page traps MU.ACCESS. Each trap is precise, and its record names
the kind of the access (R176). -/
def Obligations.AccessFaults : Prop :=
  ∀ (s : State) (r a b : Reg) (cls : BitVec 4) (off : BitVec 12),
    let t := s.turn.thread
    let ea := s.self.rd a + BitVec.ofInt 64 off.toInt
    let l := s.looked ea
    let pages := fun (i : Instr) (l : State) (ea : Dword) (f : WalkFail) =>
      exec i s = .next { l with m := l.m.takeTrap t Cause.page.code false false ea l.self.pc f }
    (∀ x ∈ loadForms r a cls off, ea.toNat % x.2.1 ≠ 0 → Traps x.1 s s.m .align ea) ∧
    (∀ x ∈ storeForms r a cls off, ea.toNat % x.2 ≠ 0 → Traps x.1 s s.m .align ea 1) ∧
    (∀ (f : WalkFail), ∀ x ∈ loadForms r a cls off, ea.toNat % x.2.1 = 0 →
      l.xlate ea x.2.1 .read = .bad f → pages x.1 l ea f) ∧
    (∀ (f : WalkFail), ∀ x ∈ storeForms r a cls off, ea.toNat % x.2 = 0 →
      l.xlate ea x.2 .write = .bad f → pages x.1 l ea f) ∧
    (∀ (pa : Nat), ∀ x ∈ loadForms r a cls off, ea.toNat % x.2.1 = 0 →
      l.xlate ea x.2.1 .read = .ok (.here pa) false → paDie pa = TileId.die t →
      l.self.free cls → (∀ w ∈ l.self.wbuf, overlaps (.here pa) x.2.1 w = false) →
      let k := paTarget pa
      let master := masterMusher (TileId.cluster t)
      (grantOk (l.m.grants k.1 k.2 master) .read = false →
        Traps x.1 s (l.m.violation (paDie pa) pa k.1 k.2 master false false) .access ea) ∧
      (grantOk (l.m.grants k.1 k.2 master) .read = true → l.m.quiet → l.m.poisoned pa x.2.1 = true →
        Traps x.1 s l.m .poison ea)) ∧
    ((s.self.rd a).toNat % 16 ≠ 0 → Traps (.aqadd a b cls) s s.m .align (s.self.rd a) 2) ∧
    (∀ x ∈ amoForms r a b cls,
      let ad := s.self.rd a
      let l := s.looked ad
      let n := if x.2.1 then 8 else 4
      (ad.toNat % n ≠ 0 → Traps x.1 s s.m .align ad 2) ∧
      (∀ f, ad.toNat % n = 0 → l.xlate ad n .atomic = .bad f → pages x.1 l ad f) ∧
      (∀ ba c, ad.toNat % n = 0 → l.xlate ad n .atomic = .ok (.host ba) c → l.self.free cls →
        Traps x.1 s l.m .access ad 2))

/-- R270, R272: a store that the page allows completes when it enters the write buffer, behind the thread's earlier ones,
with the low bytes of gs; memory does not change yet. A full buffer, or a fence, stalls it. -/
def Claims.StoreIsBuffered : Prop :=
  ∀ (s : State) (r a : Reg) (cls : BitVec 4) (off : BitVec 12) (place : Place) (c : Bool),
    let ea := s.self.rd a + BitVec.ofInt 64 off.toInt
    let l := s.looked ea
    ∀ x ∈ storeForms r a cls off,
      ea.toNat % x.2 = 0 → l.xlate ea x.2 .write = .ok place c →
      (fenceHeld l.self.wbuf cls = false → buffered l.self.wbuf < 8 →
        ∃ s', exec x.1 s = .next s' ∧ OnlySelf l s' ∧
          s'.self = { l.self with
            pc := l.self.pc + 4, st := .ready, stepTrap := l.self.pl == 0 && l.self.ktdbg.getLsbD 1,
            wbuf := l.self.wbuf ++ [⟨ea, place, x.2, BitVec.ofNat 64 ((s.self.rd r).toNat % 2 ^ (8 * x.2)), cls, 0, false, none⟩] }) ∧
      (fenceHeld l.self.wbuf cls = true ∨ 8 ≤ buffered l.self.wbuf → StallsFrom x.1 s l)

/-- R272, R270, R137: the oldest store of a class leaves the buffer for memory of its die: its bytes are written
little-endian at its place, every other byte of memory keeps its value, and the thread's buffer no longer holds it. -/
def Claims.StoreDrainsToMemory : Prop :=
  ∀ (s : State) (t : TileId) (cls : BitVec 4) (w : WEntry) (before after : List WEntry) (pa : Nat),
    (s.m.thr t).wbuf = before ++ w :: after → (∀ x ∈ before, x.cls ≠ cls) → w.cls = cls → w.sent = false →
    w.place = .here pa → paDie pa = TileId.die t →
    grantOk (s.m.grants (paTarget pa).1 (paTarget pa).2 (masterMusher (TileId.cluster t))) .write = true →
    s.m.quiet →
    ∃ s', exec (.storeBufferDrain t cls) s = .next s' ∧
      (∀ k, k < w.size → Memory.byte s'.m.mem (pa + k) = BitVec.ofNat 8 (w.data.toNat / 256 ^ k)) ∧
      (∀ b, (b < pa ∨ pa + w.size ≤ b) → Memory.byte s'.m.mem b = Memory.byte s.m.mem b) ∧
      MayStale { s.m.thr t with wbuf := before ++ after } (s'.m.thr t) ∧ (∀ u, u ≠ t → MayStale (s.m.thr u) (s'.m.thr u)) ∧
      s' = { s with m := { s.m with mem := s'.m.mem, threads := s'.m.threads, cores := s'.m.cores,
                                    poisS := s'.m.poisS, poisW := s'.m.poisW } }

/-- R270, R272, R137: a store enters the write buffer, and leaves it for memory. -/
def Obligations.Stores : Prop := Claims.StoreIsBuffered ∧ Claims.StoreDrainsToMemory

/-- R285, R190: an atomic on memory of its die gives gd the old value, sign-extended in the word forms, and stores the new
one in the same step: every byte outside the operand's keeps its value. AMOCAS stores only where the old value is gd's. -/
def Claims.AtomicResults : Prop :=
  ∀ (s : State) (d a b : Reg) (cls : BitVec 4) (pa : Nat) (c : Bool),
    let t := s.turn.thread
    let ea := s.self.rd a
    let l := s.looked ea
    ∀ x ∈ amoForms d a b cls,
      let n := if x.2.1 then 8 else 4
      let old := Memory.read l.m.mem pa n
      let new := x.2.2 old ((s.self.rd b).toNat % 2 ^ (8 * n)) ((s.self.rd d).toNat % 2 ^ (8 * n))
      ea.toNat % n = 0 → l.reaches ea n .atomic pa c → l.self.free cls → l.self.out = none → l.m.quiet → l.m.poisoned pa n = false →
      ∃ s', exec x.1 s = .next s' ∧ Completed l.self s'.self (l.self.pc + 4) ∧
        (∀ r, s'.self.rd r = if r = d ∧ r ≠ 0 then loadedValue n (!x.2.1) old else l.self.rd r) ∧
        Memory.read s'.m.mem pa n = new.getD old ∧
        (∀ k, (k < pa ∨ pa + n ≤ k) → Memory.byte s'.m.mem k = Memory.byte l.m.mem k) ∧
        (∀ u, u ≠ t → MayStale (l.m.thr u) (s'.m.thr u)) ∧
        s' = { l with m := { l.m with mem := s'.m.mem, threads := s'.m.threads, cores := s'.m.cores } }

/-- R287: `aqadd` adds the pair gb (low half), gb + 1 (high half) to sixteen bytes of memory, wrapping; no register changes. -/
def Claims.AqAddResult : Prop :=
  ∀ (s : State) (a b : Reg) (cls : BitVec 4) (pa : Nat) (c : Bool),
    let t := s.turn.thread
    let ea := s.self.rd a
    let l := s.looked ea
    let v := (s.self.rd b).toNat + (s.self.rd (b + 1)).toNat * 2 ^ 64
    ea.toNat % 16 = 0 → l.reaches ea 16 .atomic pa c → l.self.free cls → l.self.out = none → l.m.quiet → l.m.poisoned pa 16 = false →
    ∃ s', exec (.aqadd a b cls) s = .next s' ∧ Completed l.self s'.self (l.self.pc + 4) ∧ s'.self.g = l.self.g ∧
      Memory.read s'.m.mem pa 16 = (Memory.read l.m.mem pa 16 + v) % 2 ^ 128 ∧
      (∀ k, (k < pa ∨ pa + 16 ≤ k) → Memory.byte s'.m.mem k = Memory.byte l.m.mem k) ∧
      (∀ u, u ≠ t → MayStale (l.m.thr u) (s'.m.thr u)) ∧
      s' = { l with m := { l.m with mem := s'.m.mem, threads := s'.m.threads, cores := s'.m.cores } }

/-- R285, R287, R190: the atomics on memory of the die. -/
def Obligations.Atomics : Prop := Claims.AtomicResults ∧ Claims.AqAddResult

/-- R273, R274: `savem` puts the registers F to L into the write buffer, in order, at consecutive dwords, clears MPROG and
completes, from the register MPROG names where a transfer was partly done. -/
def Claims.SaveMultiple : Prop :=
  ∀ (s : State) (first a last : Reg) (cls : BitVec 4) (off : BitVec 7) (n : Nat) (place : Nat → Place),
    let ea0 := s.self.rd a + BitVec.ofInt 64 (8 * off.toInt)
    let ea := fun (i : Nat) => ea0 + BitVec.ofNat 64 (8 * (i - first.toNat))
    first.toNat ≤ last.toNat → ea0.toNat % 8 = 0 →
    (s.self.mprog.toNat < 32 ∧ n = first.toNat ∨
      32 ≤ s.self.mprog.toNat ∧ n = s.self.mprog.toNat - 32 ∧ first.toNat ≤ n ∧ n ≤ last.toNat) →
    s.m.quiet → s.m.tlbFresh (s.m.partOf s.turn.thread) →
    (∀ i, n ≤ i → i ≤ last.toNat → ∃ c, s.xlate (ea i) 8 .write = .ok (place i) c) →
    fenceHeld s.self.wbuf cls = false → buffered s.self.wbuf + (last.toNat + 1 - n) ≤ 8 →
    ∃ s', exec (.savem first a cls last off) s = .next s' ∧
      s' = { s with m := { s.m with threads := s'.m.threads, tlbs := s'.m.tlbs } } ∧
      (∀ u, u ≠ s.turn.thread → s'.m.thr u = s.m.thr u) ∧
      s'.self = { s.self with
        pc := s.self.pc + 4, st := .ready, stepTrap := s.self.pl == 0 && s.self.ktdbg.getLsbD 1,
        kstat := setBits s.self.kstat 15 10 0,
        wbuf := s.self.wbuf ++ (List.range (last.toNat + 1 - n)).map (fun k =>
          ⟨ea (n + k), place (n + k), 8, s.self.rd (BitVec.ofNat 5 (n + k)), cls, 0, false, none⟩) }

/-- R273: `loadm` loads the registers F to L from consecutive dwords and completes with MPROG clear; here from memory of the
die behind an uncached page. Every register outside F to L, and all of memory, keeps its value. -/
def Claims.LoadMultiple : Prop :=
  ∀ (s : State) (first a last : Reg) (cls : BitVec 4) (off : BitVec 7) (pa : Nat → Nat),
    let ea0 := s.self.rd a + BitVec.ofInt 64 (8 * off.toInt)
    let ea := fun (i : Nat) => ea0 + BitVec.ofNat 64 (8 * (i - first.toNat))
    first.toNat ≤ last.toNat → ¬ (first.toNat ≤ a.toNat ∧ a.toNat ≤ last.toNat) → ea0.toNat % 8 = 0 →
    s.self.mprog.toNat < 32 → s.self.wbuf = [] → s.m.quiet → s.m.tlbFresh (s.m.partOf s.turn.thread) →
    (∀ i, first.toNat ≤ i → i ≤ last.toNat → s.reaches (ea i) 8 .read (pa i) false ∧ s.m.poisoned (pa i) 8 = false) →
    ∃ s', exec (.loadm first a cls last off) s = .next s' ∧
      s' = { s with m := { s.m with threads := s'.m.threads, tlbs := s'.m.tlbs } } ∧
      (∀ u, u ≠ s.turn.thread → s'.m.thr u = s.m.thr u) ∧
      (∀ r, s'.self.rd r = if first.toNat ≤ r.toNat ∧ r.toNat ≤ last.toNat ∧ r ≠ 0
        then BitVec.ofNat 64 (Memory.read s.m.mem (pa r.toNat) 8) else s.self.rd r) ∧
      s'.self = { s.self with
        g := s'.self.g, pc := s.self.pc + 4, st := .ready, stepTrap := s.self.pl == 0 && s.self.ktdbg.getLsbD 1,
        kstat := setBits s.self.kstat 15 10 0 }

/-- R273, R274: where SAVEM and LOADM trap MU.ARG or MU.ALIGN before any transfer, with MPROG cleared where it named a
register outside the range; and a fault at the first register leaves MPROG naming it. -/
def Claims.MultipleFaults : Prop :=
  ∀ (s : State) (first a last : Reg) (cls : BitVec 4) (off : BitVec 7) (f : WalkFail),
    let t := s.turn.thread
    let ea0 := s.self.rd a + BitVec.ofInt 64 (8 * off.toInt)
    let sv := Instr.savem first a cls last off
    let ld := Instr.loadm first a cls last off
    let n := s.self.mprog.toNat - 32
    (last.toNat < first.toNat → Traps sv s s.m .arg (instrWord sv) ∧ Traps ld s s.m .arg (instrWord ld)) ∧
    (first.toNat ≤ a.toNat → a.toNat ≤ last.toNat → Traps ld s s.m .arg (instrWord ld)) ∧
    (first.toNat ≤ last.toNat → ea0.toNat % 8 ≠ 0 → Traps sv s s.m .align ea0 1) ∧
    (first.toNat ≤ last.toNat → ea0.toNat % 8 = 0 → 32 ≤ s.self.mprog.toNat → n < first.toNat ∨ last.toNat < n →
      Traps sv s (s.m.modThr t (fun th => th.setMprog 0)) .arg (instrWord sv)) ∧
    (first.toNat ≤ last.toNat → ea0.toNat % 8 = 0 → s.self.mprog.toNat < 32 → s.self.asyncs = [] →
      (s.looked ea0).xlate ea0 8 .write = .bad f →
      let m1 := (s.looked ea0).m.modThr t (fun th => th.setMprog (BitVec.ofNat 6 (32 + first.toNat)))
      exec sv s = .next { s with m := m1.takeTrap t Cause.page.code false false ea0 s.self.pc f })

/-- R273, R274: SAVEM and LOADM, with their traps. -/
def Obligations.MultipleTransfers : Prop := Claims.SaveMultiple ∧ Claims.LoadMultiple ∧ Claims.MultipleFaults

/-! ### Fences, barriers -/

/-- R181, R183, R184, R288-R291; the marks of what an engine has sent are the model's own (log 114), and what happened before the fence in
another thread has been performed by then (log 114). FENCE.C makes every buffered store of a class in P hold back the classes in Q, and moves
past its two words. FENCE.X waits for the thread's own stores, where its mask holds md, and for what the LD, ST and MX engines of its
tile have sent on the paths of the mask at the cycle of the fence, and not for what they send later, at every scope; one of cluster
scope or wider whose mask holds md then empties the core's data cache. IINV drops the partition's instruction-cache lines that overlap its
range, at the issuing core, or at those of the die or of the package on which the partition is resident (scopes 3, and 4 and 5), with every
core's acknowledgement in the same step (log 55, log 61), and traps MU.ARG for a range the address space cannot hold. ISYNC only moves the
pc. -/
def Obligations.Fences : Prop :=
  ∀ (s : State) (p q : BitVec 16) (scope : BitVec 3) (mask : BitVec 9) (a b : Reg) (n : Nat),
    let t := s.turn.thread
    let k := TileId.cluster t
    let x := s.m.core k
    let i := Instr.fenceX scope mask
    let ua := (s.self.rd a).toNat
    let ub := (s.self.rd b).toNat
    let mine := fun (g : Agent) => s.self.sup.isSome && onPath s.m t mask true g
    let stores := mask.getLsbD 0 = true → s.self.wbuf = []
    let reached := fun (j : ClusterId) => if scope.toNat = 2 then j = k
      else (scope.toNat = 3 → ClusterId.die j = ClusterId.die k) ∧ (s.m.clu j).resident = some (s.m.partOf t)
    let emptied := fun (m m' : Mach) => if mask.getLsbD 0 = true ∧ 2 ≤ scope.toNat then
        m' = { m with threads := m'.threads, cores := m'.cores } ∧ m'.core k = { x with dlines := [] } ∧
          (∀ j, j ≠ k → m'.core j = s.m.core j) ∧ (∀ u, MayStale (m.thr u) (m'.thr u))
      else m' = m
    let held := fun (m : Mach) (n : Nat) =>
      exec i s = .next { s with m := m.modThr t (fun th => { th with st := .stalled, fence := some n }) }
    (∃ s', exec (.fenceC p q) s = .next s' ∧ OnlySelf s s' ∧
      s'.self = { s.self with
        pc := s.self.pc + 8, st := .ready, stepTrap := s.self.pl == 0 && s.self.ktdbg.getLsbD 1,
        wbuf := s.self.wbuf.map (fun w => { w with blocks := if p.getLsbD w.cls.toNat then w.blocks ||| q else w.blocks }) }) ∧
    (s.self.fence = none → stores → s.m.owedTo (TileId.die t) mine = 0 → ∃ m', Does i s m' ∧ emptied s.m m') ∧
    (s.self.fence = none → ¬ (stores ∧ s.m.owedTo (TileId.die t) mine = 0) →
      held (s.m.markSent (TileId.die t) mine) s.m.nextMark) ∧
    (s.self.fence = some n → ¬ stores ∨ s.m.markLeft (TileId.die t) n = true → held s.m n) ∧
    (s.self.fence = some n → stores → s.m.markLeft (TileId.die t) n = false →
      ∃ m', Does i s m' ∧ emptied (s.m.modThr t (fun th => { th with fence := none })) m') ∧
    (ub = 0 → Does (.iinv a b scope) s s.m) ∧
    (ub ≠ 0 → 2 ^ 40 < ub ∨ 2 ^ 56 < ua + ub → Traps (.iinv a b scope) s s.m .arg (instrWord (.iinv a b scope))) ∧
    (ub ≠ 0 → ub ≤ 2 ^ 40 → ua + ub ≤ 2 ^ 56 → 2 ≤ scope.toNat → scope.toNat ≤ 5 → ∃ m', Does (.iinv a b scope) s m' ∧
      (∀ j l, l ∈ (m'.core j).ilines ↔ l ∈ (s.m.core j).ilines ∧
        ¬ (reached j ∧ l.part = s.m.partOf t ∧ 64 * l.line < ua + ub ∧ ua < 64 * l.line + 64)) ∧
      (∀ j, (m'.core j).dlines = (s.m.core j).dlines) ∧ (∀ u, MayStale (s.m.thr u) (m'.thr u)) ∧
      m' = { s.m with cores := m'.cores, threads := m'.threads }) ∧
    Moves .isync s (s.self.pc + 4)

/-! ### Barriers -/

/-- R188, R189, R292: ARRIVE counts the thread into the current phase of the barrier it names (a thread that joined in that phase into
the next), which the thread's launch then owns, remembers the phase and the paths for its WAITB, and marks the writes that its tile's
engines have sent on those paths, which the phase waits for (the marks are the model's own, log 114); it stalls while a store it releases is unperformed or the thread
has already arrived, and traps MU.ARG or MU.BUSY where the barrier is not its team's or another launch's. -/
def Claims.BarrierArrival : Prop :=
  ∀ (s : State) (bk : BitVec 2) (bn : BitVec 4) (mask : BitVec 9) (u : Sup),
    let t := s.turn.thread
    let id : BarId := if bk = 0 then .cb (TileId.cluster t) u.slot bn else if bk = 1 then .db (TileId.die t) bn else .pb bn
    let b := s.m.bar id
    let i := Instr.arrive bk bn mask
    let th := s.self
    let k := partKey (TileId.cluster t) u.slot u.pos
    s.m.supOf t = some u →
    (bk = 0 → 2 * s.m.slotSize t u ≤ bn.toNat → Traps i s s.m .arg (instrWord i)) ∧
    (bk ≠ 0 → b.owned = true → b.owner ≠ u.lid → Traps i s s.m .busy (instrWord i)) ∧
    ((bk = 0 → bn.toNat < 2 * s.m.slotSize t u) → (bk ≠ 0 → b.owned = true → b.owner = u.lid) →
      ((∃ a ∈ th.arrivals, a.bar = id ∧ b.phase ≤ a.phase) → Stalls i s) ∧
      ((∀ a ∈ th.arrivals, a.bar = id → a.phase < b.phase) → mask.getLsbD 0 = true → th.wbuf ≠ [] → Stalls i s) ∧
      ((∀ a ∈ th.arrivals, a.bar = id → a.phase < b.phase) → (mask.getLsbD 0 = true → th.wbuf = []) →
        let late := nhas b.late k
        let b1 : Bar := { b with owned := true, owner := if b.owned then b.owner else u.lid }
        let sent := (TileId.die t, s.m.nextMark)
        let b2 : Bar := if late = true then { b1 with next := nins k b.next, sentNext := b.sentNext ++ [sent] }
          else { b1 with arrived := nins k b.arrived, sent := b.sent ++ [sent] }
        let x : Arrival := ⟨id, if late = true then b.phase + 1 else b.phase, mask⟩
        let th' := { th with arrivals := th.arrivals.filter (fun a => a.bar ≠ id) ++ [x] }
        Does i s (((s.m.markSent (TileId.die t) (onPath s.m t mask false)).setBar id b2).setThr t th')))

/-- R188, R293: WAITB waits while the phase of the thread's last ARRIVE lasts; once it is over it completes, acquiring with
the arrival's mask. With no arrival it completes at once. -/
def Claims.BarrierWait : Prop :=
  ∀ (s : State) (bk : BitVec 2) (bn : BitVec 4) (a : Arrival),
    let t := s.turn.thread
    let id : BarId := barOf t ((s.self.sup.map (fun u => u.slot)).getD 0) bk bn
    let i := Instr.waitb bk bn
    let th' := { s.self with arrivals := s.self.arrivals.filter (fun a => a.bar ≠ id) }
    ((∀ x ∈ s.self.arrivals, x.bar ≠ id) → Does i s s.m) ∧
    (s.self.arrivals.find? (fun x => x.bar = id) = some a → (s.m.bar id).phase ≤ a.phase → Waits i s) ∧
    (s.self.arrivals.find? (fun x => x.bar = id) = some a → a.phase < (s.m.bar id).phase → a.mask.getLsbD 0 = true →
      Does i s ((s.m.setThr t th').dinvalidate (TileId.cluster t))) ∧
    (s.self.arrivals.find? (fun x => x.bar = id) = some a → a.phase < (s.m.bar id).phase → a.mask.getLsbD 0 = false →
      Does i s (s.m.setThr t th'))

/-- R188, R189: a barrier's phase ends, and the next begins with those arrived who joined in this one, exactly when somebody has
arrived (log 55), no reservation is registered, every participant has arrived and the writes marked at the arrivals, those of threads that
have ended since among them, have been performed (log 114); else nothing happens. -/
def Claims.BarrierPhase : Prop :=
  ∀ (s : State) (bar : BarId),
    let b := s.m.bar bar
    let ends := b.arrived ≠ [] ∧ b.resv = [] ∧ (∀ l ∈ s.m.participants bar b, nhas b.arrived l.key = true) ∧
      (∀ x ∈ b.sent, s.m.markLeft x.1 x.2 = false)
    (ends → exec (.barrierPhaseComplete bar) s =
      .next { s with m := s.m.setBar bar { b with phase := b.phase + 1, arrived := b.next, late := [], next := [],
                                                  sent := b.sentNext, sentNext := [] } }) ∧
    (¬ ends → exec (.barrierPhaseComplete bar) s = .next s)

/-- R188, R189, R292, R293: arrival, waiting, and the end of a phase (log 55, log 114). -/
def Obligations.Barriers : Prop := Claims.BarrierArrival ∧ Claims.BarrierWait ∧ Claims.BarrierPhase

/-! ### Tile control -/

/-- R294: without a tile to act on, every tile-control, gangline and ticket instruction traps MU.BUSY. -/
def Claims.TileControlNeedsTile : Prop :=
  ∀ (s : State) (d a : Reg) (n4 : BitVec 4) (n5 : BitVec 5) (n6 : BitVec 6) (n3 : BitVec 3),
    s.m.supOf s.turn.thread = none →
    ∀ i ∈ [Instr.fork n4, .join n4, .semw a n5, .semr d n5, .rcww a n4, .rcwr d n4, .layw a n6, .layr d n6, .acfg a n6,
        .evwait d a, .glset d a n3, .glclr n3, .glret a n3, .tkpull d a, .tkstat d a],
      Traps i s s.m .busy (instrWord i)

/-- R295, R142, R296: FORK starts the template's chain at its first block, RUNNING with fresh loop counters, and JOIN waits
until every engine of its mask is ENDED or IDLE. -/
def Claims.ForkAndJoin : Prop :=
  ∀ (s : State) (tmpl mask : BitVec 4) (u : Sup) (k : Kernel) (x : Tmpl),
    let t := s.turn.thread
    let c := s.m.ctx t
    let idle := fun (e : Eng) => mask.getLsbD e.code.toNat = true → (c.chain e).st = .ended ∨ (c.chain e).st = .idle
    s.m.supOf t = some u →
    ((∀ e, idle e) → Does (.join mask) s s.m) ∧ (¬ (∀ e, idle e) → Waits (.join mask) s) ∧
    (s.m.kernelOf t = some k →
      (k.tmpls[tmpl.toNat]? = none → Traps (.fork tmpl) s s.m .arg (instrWord (.fork tmpl))) ∧
      (k.tmpls[tmpl.toNat]? = some x →
        let e := Eng.ofCode x.eng
        (x.prime = true → Traps (.fork tmpl) s s.m .arg (instrWord (.fork tmpl))) ∧
        (x.prime = false → (c.chain e).st = .running ∨ (c.chain e).st = .parked →
          Traps (.fork tmpl) s s.m .busy (instrWord (.fork tmpl))) ∧
        (x.prime = false → (c.chain e).st ≠ .running → (c.chain e).st ≠ .parked →
          ∃ s', exec (.fork tmpl) s = .next s' ∧
            ((s'.m.ctx t).chain e).st = .running ∧ ((s'.m.ctx t).chain e).cur = k.firstBlock tmpl.toNat ∧
            ((s'.m.ctx t).chain e).loops = [] ∧ ((s'.m.ctx t).chain e).latched = none ∧
            ((s'.m.ctx t).chain e).flags = (c.chain e).flags ∧
            (∀ e', e' ≠ e → (s'.m.ctx t).chain e' = c.chain e') ∧
            (s'.m.ctx t).sems = c.sems ∧ (s'.m.ctx t).rings = c.rings ∧ (s'.m.ctx t).wins = c.wins ∧
            (s'.m.ctx t).store = c.store ∧ (∀ v, v ≠ t → s'.m.tile v = s.m.tile v) ∧
            Completed s.self s'.self (s.self.pc + 4) ∧ s'.self.g = s.self.g ∧ s'.m.mem = s.m.mem)))

/-- R297, R146: SEMW sets a semaphore's count, MU.ARG above 65,535; SEMR reads it. -/
def Claims.SemaphoreAccess : Prop :=
  ∀ (s : State) (d a : Reg) (sem : BitVec 5) (u : Sup),
    let t := s.turn.thread
    let v := (s.self.rd a).toNat
    s.m.supOf t = some u →
    Gives (.semr d sem) s d (BitVec.ofNat 64 ((s.m.ctx t).sem sem).toNat) (s.self.pc + 4) ∧
    (65535 < v → Traps (.semw a sem) s s.m .arg (instrWord (.semw a sem))) ∧
    (v ≤ 65535 → ∃ s', exec (.semw a sem) s = .next s' ∧ ((s'.m.ctx t).sem sem).toNat = v ∧
      (∀ n, n ≠ sem → (s'.m.ctx t).sem n = (s.m.ctx t).sem n) ∧
      s'.m.ctx t = { s.m.ctx t with sems := (s'.m.ctx t).sems } ∧ (∀ w, w ≠ t → s'.m.tile w = s.m.tile w) ∧
      Completed s.self s'.self (s.self.pc + 4) ∧ s'.self.g = s.self.g ∧
      s' = { s with m := { s.m with threads := s'.m.threads, tiles := s'.m.tiles } })

/-- R142, R146, R294 to R297: tile control. -/
def Obligations.TileControl : Prop := Claims.TileControlNeedsTile ∧ Claims.ForkAndJoin ∧ Claims.SemaphoreAccess

/-- R298, R299, R300: what the configuration instructions write and read back, with their MU.ARG and MU.BUSY. An overlap is MU.ARG whatever
the word's own V (log 50), and a word with V = 0 is kept as it is written, with W clear (log 77). -/
def Obligations.Configuration : Prop :=
  ∀ (s : State) (d a : Reg) (q : BitVec 4) (w acc : BitVec 6) (u : Sup),
    let t := s.turn.thread
    let c := s.m.ctx t
    let ca := s.m.chareaOf t
    let g := fun (k : Nat) => s.self.rd (a + BitVec.ofNat 5 k)
    let r := c.ring q.toNat
    let win := c.win w.toNat
    s.m.supOf t = some u →
    (ringBad (g 0) (g 1) = true → Traps (.rcww a q) s s.m .arg (instrWord (.rcww a q))) ∧
    (ringBad (g 0) (g 1) = false → c.named ca 2 q.toNat = true → Traps (.rcww a q) s s.m .busy (instrWord (.rcww a q))) ∧
    (ringBad (g 0) (g 1) = false → c.named ca 2 q.toNat = false →
      Does (.rcww a q) s (s.m.modCtx t (fun c => c.setRing q.toNat
        ⟨g 0 &&& 0x80FFFFFFFFFFFFFF, g 1 &&& 0x00003FFF00000007, (0, 0), (0, 0), none, none⟩))) ∧
    Does (.rcwr d q) s (s.m.modThr t (fun th =>
      (th.wr d r.d0).wr (d + 1) r.d1)) ∧
    (layBad ⟨g 0, g 1, g 2, g 3⟩ ca = true → Traps (.layw a w) s s.m .arg (instrWord (.layw a w))) ∧
    (layBad ⟨g 0, g 1, g 2, g 3⟩ ca = false → c.named ca 1 w.toNat = true →
      Traps (.layw a w) s s.m .busy (instrWord (.layw a w))) ∧
    (layBad ⟨g 0, g 1, g 2, g 3⟩ ca = false → c.named ca 1 w.toNat = false →
      Does (.layw a w) s (s.m.modCtx t (fun c => { c with wins := tput Window.off c.wins w.toNat ⟨g 0, g 1, g 2, g 3⟩ }))) ∧
    Does (.layr d w) s (s.m.modThr t (fun th =>
      (((th.wr d win.d0).wr (d + 1) win.d1).wr (d + 2) win.d2).wr (d + 3) win.d3)) ∧
    (c.acfgBad acc.toNat (g 0) = true → Traps (.acfg a acc) s s.m .arg (instrWord (.acfg a acc))) ∧
    (c.acfgBad acc.toNat (g 0) = false → c.mx.st = .running ∨ c.mx.st = .parked ∨ c.reserved acc.toNat = true →
      Traps (.acfg a acc) s s.m .busy (instrWord (.acfg a acc))) ∧
    (c.acfgBad acc.toNat (g 0) = false → c.mx.st ≠ .running → c.mx.st ≠ .parked → c.reserved acc.toNat = false →
      ∃ s', exec (.acfg a acc) s = .next s' ∧
        (s'.m.ctx t).accCfg acc.toNat = setBits (g 0) 62 62 (if (g 0).getLsbD 63 then 1 else 0) ∧
        (∀ k, k ≠ acc.toNat → (s'.m.ctx t).accCfg k = c.accCfg k) ∧
        ((g 0).getLsbD 63 = true → ∀ e, inRect (g 0) e = true → tget AqEntry.zero (s'.m.ctx t).acc e = AqEntry.zero) ∧
        (∀ e, (g 0).getLsbD 63 = false ∨ inRect (g 0) e = false →
          tget AqEntry.zero (s'.m.ctx t).acc e = tget AqEntry.zero c.acc e) ∧
        Completed s.self s'.self (s.self.pc + 4) ∧ (∀ v, v ≠ t → s'.m.tile v = s.m.tile v) ∧ s'.m.mem = s.m.mem)

/-- R301: EVWAIT waits until a pending event is in its mask, then gives gd those events and clears them; WFE waits for any
event or asynchronous trap and changes nothing. -/
def Obligations.EventWaits : Prop :=
  ∀ (s : State) (d a : Reg) (u : Sup),
    let t := s.turn.thread
    let mask := s.self.rd a
    let got := s.self.kevt &&& mask.setWidth 8
    (s.self.kevt = 0 → s.self.asyncs = [] → Waits .wfe s) ∧
    (s.self.kevt ≠ 0 ∨ s.self.asyncs ≠ [] → Does .wfe s s.m) ∧
    (s.m.supOf t = some u →
      (mask = 0 ∨ 256 ≤ mask.toNat → Traps (.evwait d a) s s.m .arg (instrWord (.evwait d a))) ∧
      (mask ≠ 0 → mask.toNat < 256 → got = 0 → Waits (.evwait d a) s) ∧
      (mask ≠ 0 → mask.toNat < 256 → got ≠ 0 → ∃ s', exec (.evwait d a) s = .next s' ∧ OnlySelf s s' ∧
        (∀ r, s'.self.rd r = if r = d ∧ r ≠ 0 then BitVec.ofNat 64 got.toNat else s.self.rd r) ∧
        s'.self = { s.self with g := s'.self.g, kevt := s.self.kevt &&& ~~~got, pc := s.self.pc + 4, st := .ready,
                                stepTrap := s.self.pl == 0 && s.self.ktdbg.getLsbD 1 }))

/-! ### Gangline handles, tickets -/

/-- R221, R302: GLSET reserves: the handle becomes a landing handle with V = 1, ROLE = 1, the next epoch, and COUNT messages
for each entry of the tile left to come, the completion line registers it, and gd gets the send handle that names this
tile, handle and epoch. -/
def Claims.GangReserve : Prop :=
  ∀ (s : State) (d a : Reg) (hdl : BitVec 3) (u : Sup),
    let t := s.turn.thread
    let v := (s.self.rd a).toNat
    let n := bits v 5 0
    let c := s.m.ctx t
    let cfg := c.accCfg n
    let h := c.handle hdl
    let i := Instr.glset d a hdl
    let bar := barOf t u.slot (BitVec.ofNat 2 (bits v 16 15 - 1)) (BitVec.ofNat 4 (bits v 20 17))
    let b := s.m.bar bar
    let argOk := bits v 31 21 = 0 ∧ bits v 63 48 = 0 ∧ (bits v 14 11 = 0 → bits v 10 6 = 0) ∧
      (bits v 16 15 = 0 → bits v 20 17 = 0) ∧ accV cfg = true ∧ bits v 47 32 ≠ 0 ∧
      (bits v 16 15 = 3 → bits v 20 17 ≤ 7) ∧ (bits v 16 15 = 1 → bits v 20 17 < 2 * s.m.slotSize t u)
    let free := h.getLsbD 63 = false ∧ c.reserved n = false ∧
      (2 ≤ bits v 16 15 → b.owned = true → b.owner = u.lid)
    s.m.supOf t = some u →
    (¬ argOk → Traps i s s.m .arg (instrWord i)) ∧ (argOk → ¬ free → Traps i s s.m .busy (instrWord i)) ∧
    (argOk → free → ∃ s', exec i s = .next s' ∧
      let h' := (s'.m.ctx t).handle hdl
      h'.getLsbD 63 = true ∧ h'.getLsbD 62 = true ∧ bits h'.toNat 61 56 = n ∧
      bits h'.toNat 55 48 = (bits h.toNat 55 48 + 1) % 256 ∧ bits h'.toNat 47 43 = bits v 10 6 ∧
      bits h'.toNat 42 39 = bits v 14 11 ∧ bits h'.toNat 38 37 = bits v 16 15 ∧ bits h'.toNat 36 33 = bits v 20 17 ∧
      bits h'.toNat 29 0 = bits v 47 32 * (accNRow cfg + 1) * (accNCol cfg + 1) % 2 ^ 30 ∧
      (∀ k, k ≠ hdl → (s'.m.ctx t).handle k = c.handle k) ∧
      (∀ r, s'.self.rd r = if r = d ∧ r ≠ 0 then sendHandle t hdl.toNat ((bits h.toNat 55 48 + 1) % 256) cfg
        else s.self.rd r) ∧
      Completed s.self s'.self (s.self.pc + 4) ∧ (bits v 16 15 = 0 → s'.m.bars = s.m.bars) ∧
      (bits v 16 15 ≠ 0 → (s'.m.bar bar).owned = true ∧ (s'.m.bar bar).owner = (if b.owned then b.owner else u.lid) ∧
        (s'.m.bar bar).resv = b.resv ++ [(partKey (TileId.cluster t) u.slot u.pos, hdl)] ∧
        (s'.m.bar bar).phase = b.phase ∧ (s'.m.bar bar).arrived = b.arrived))

/-- R223, R224, R303: GLCLR frees a handle (a reservation ends with it, and no barrier waits for it), and GLRET writes a
send handle, with a chain that had parked on GL.ABSENT through it running again. -/
def Claims.GangHandles : Prop :=
  ∀ (s : State) (a : Reg) (hdl : BitVec 3) (u : Sup),
    let t := s.turn.thread
    let c := s.m.ctx t
    let h := c.handle hdl
    let v := s.self.rd a
    let clear := s.m.modCtx t (fun c => c.setHandle hdl (setBits h 63 63 0))
    let write := s.m.modCtx t (fun c => c.setHandle hdl (setBits v 61 61 0))
    s.m.supOf t = some u →
    (h.getLsbD 63 = false → Does (.glclr hdl) s s.m) ∧
    (h.getLsbD 63 = true → h.getLsbD 62 = true →
      Does (.glclr hdl) s (clear.dropResv (partKey (TileId.cluster t) u.slot u.pos) hdl)) ∧
    (h.getLsbD 63 = true → h.getLsbD 62 = false → c.handleInUse hdl true = true →
      Traps (.glclr hdl) s s.m .busy (instrWord (.glclr hdl))) ∧
    (h.getLsbD 63 = true → h.getLsbD 62 = false → c.handleInUse hdl true = false → Does (.glclr hdl) s clear) ∧
    (v.getLsbD 62 = true ∨ bits v.toNat 3 0 ≠ 0 → Traps (.glret a hdl) s s.m .arg (instrWord (.glret a hdl))) ∧
    (v.getLsbD 62 = false → bits v.toNat 3 0 = 0 → landing h = true ∨ c.handleInUse hdl false = true →
      Traps (.glret a hdl) s s.m .busy (instrWord (.glret a hdl))) ∧
    (v.getLsbD 62 = false → bits v.toNat 3 0 = 0 → landing h = false → c.handleInUse hdl true = false →
      Does (.glret a hdl) s write) ∧
    (v.getLsbD 62 = false → bits v.toNat 3 0 = 0 → landing h = false → c.handleInUse hdl false = false →
      c.handleInUse hdl true = true → c.mx.cause = Cause.glAbsent.code →
      ∃ s', exec (.glret a hdl) s = .next s' ∧ (s'.m.ctx t).mx.st = .running ∧ (s'.m.ctx t).mx.cause = 0 ∧
        (s'.m.ctx t).handle hdl = setBits v 61 61 0 ∧ Completed s.self s'.self (s.self.pc + 4))

/-- R221, R223, R224, R302, R303: GLSET, GLCLR and GLRET. -/
def Obligations.GanglineHandles : Prop := Claims.GangReserve ∧ Claims.GangHandles

/-- R95, R97, R304, R305: TKSTAT gives NEXT × 2^32 + (END − NEXT) of a counter of the thread's launch; TKPULL waits for its
round and then gives the value it drew; SIGNOTE asks for the evaluation of the partition's WAITSIG packets, those that name its
signal first. -/
def Obligations.TicketsAndSignote : Prop :=
  ∀ (s : State) (d a e : Reg) (u : Sup) (k : Ticket) (v : Dword),
    let t := s.turn.thread
    (∃ s', exec (.signote a) s = .next s' ∧ Completed s.self s'.self (s.self.pc + 4) ∧ s'.self.g = s.self.g ∧
      (∀ n x, (n, x) ∈ s.m.works → (∃ w, x = some w ∧ w.part = s.m.partOf t ∧ ∃ h b, w.pkt = .waitsig h b) →
        n ∈ s'.m.evalDue) ∧ (∀ n ∈ s.m.evalDue, n ∈ s'.m.evalDue) ∧
      (∀ n x, (n, x) ∈ s.m.works → (∃ w, x = some w ∧ w.part = s.m.partOf t ∧ ∃ h b, w.pkt = .waitsig h b ∧
        s.self.rd a ≠ 0 ∧ ∃ x ∈ [b.sig0, b.sig1, b.sig2, b.sig3], x.toNat = (s.self.rd a).toNat) → n ∈ s'.m.noteFirst) ∧ s'.m.mem = s.m.mem) ∧
    (s.m.supOf t = some u →
    (s.m.ticketOf t u (s.self.rd a) = none → Traps (.tkstat d a) s s.m .arg (instrWord (.tkstat d a))) ∧
    (s.m.ticketOf t u (s.self.rd a) = none → (∀ e x, s.self.pull ≠ .given e x) →
      Traps (.tkpull d a) s s.m .arg (instrWord (.tkpull d a))) ∧
    (s.m.ticketOf t u (s.self.rd a) = some k →
      Gives (.tkstat d a) s d (BitVec.ofNat 64 (k.next * 2 ^ 32 + (k.stop - k.next))) (s.self.pc + 4)) ∧
    (s.m.ticketOf t u (s.self.rd a) = some k → (∀ e x, s.self.pull ≠ .given e x) →
      exec (.tkpull d a) s = .next (s.onThread (fun th =>
        { th with pull := .waiting ((th.rd a).setWidth 4) d, st := .waiting }))) ∧
    (s.self.pull = .given e v → ∃ s', exec (.tkpull d a) s = .next s' ∧ OnlySelf s s' ∧ s'.self.pull = .none ∧
      s'.self.pc = s.self.pc + 4 ∧ ∀ r, s'.self.rd r = if r = e ∧ r ≠ 0 then v else s.self.rd r))


/-! ### System registers, traps -/

/-- R306, R307: SYSR reads each register of the map at its level or above, traps MU.PRIV below it, and MU.ILLEGAL for a
number outside the map; only gd changes. -/
def Claims.SystemRegisterReads : Prop :=
  ∀ (s : State) (d : Reg) (k : BitVec 12),
    let t := s.turn.thread
    let th := s.self
    let c := s.m.ctx t
    let y := s.m.die (TileId.die t)
    let i := Instr.sysr d k
    let reads := fun (n lvl : Nat) (v : Dword) => k.toNat = n →
      (th.pl.toNat < lvl → Traps i s s.m .priv (instrWord i)) ∧
      (lvl ≤ th.pl.toNat → Gives i s d v (th.pc + 4))
    reads 0x000 0 th.kstat ∧ reads 0x001 1 th.kepc ∧ reads 0x002 1 th.kcause ∧ reads 0x003 1 th.ktval ∧
    reads 0x004 2 th.ktvec ∧ reads 0x005 2 th.kscratch ∧ reads 0x008 0 (BitVec.ofNat 64 th.kcap.toNat) ∧
    reads 0x009 0 (BitVec.ofNat 64 th.kevt.toNat) ∧
    reads 0x00A 0 (BitVec.ofNat 64 ((TileId.cluster t).toNat * 2 ^ 11 + (TileId.num t).toNat * 2 ^ 8 + t.toNat)) ∧
    reads 0x00B 0 s.m.time ∧ reads 0x010 1 th.ktdbg ∧
    (∀ n, n < 4 → reads (0x011 + n) 1 (tget 0 th.kbpa n)) ∧
    (∀ n, n < 4 → reads (0x020 + n) 0 (BitVec.ofNat 64 (c.chain (Eng.ofCode (BitVec.ofNat 2 n))).flags.toNat)) ∧
    (∀ n, n < 8 → reads (0x040 + n) 0 (tget 0 c.tec n)) ∧
    (∀ n, n < 8 → reads (0x048 + n) 0 (BitVec.ofNat 64 (tget 0 c.tes n).toNat)) ∧
    (∀ n, n < 32 → reads (0x080 + n) 1 (tget 0 y.dec n)) ∧
    (∀ n, n < 32 → reads (0x0A0 + n) 1 (BitVec.ofNat 64 (tget 0 y.des n).toNat)) ∧
    ((k.toNat ∈ [6, 7, 0xC, 0xD, 0xE, 0xF] ∨ 0x15 ≤ k.toNat ∧ k.toNat < 0x20 ∨ 0x24 ≤ k.toNat ∧ k.toNat < 0x40 ∨
      0x50 ≤ k.toNat ∧ k.toNat < 0x80 ∨ 0xC0 ≤ k.toNat) → Traps i s s.m .illegal (instrWord i))

/-- R306-R312, R157, R210: what SYSW writes: in KSTAT only MPROG and PPL, KEPC and KTVEC with bits 1:0 zero, KEVT and sticky
flags cleared where a 1 is written, the counters and their selects (one that no source has becomes 0); MU.PRIV for a register no privilege may write or below its level, and MU.ARG with nothing
changed for a reserved bit. -/
def Claims.SystemRegisterWrites : Prop :=
  ∀ (s : State) (a : Reg) (k : BitVec 12),
    let t := s.turn.thread
    let th := s.self
    let v := th.rd a
    let i := Instr.sysw a k
    let writes := fun (n lvl : Nat) (ok : Prop) (f : Thread → Thread) => k.toNat = n →
      (th.pl.toNat < lvl → Traps i s s.m .priv (instrWord i)) ∧
      (lvl ≤ th.pl.toNat → ¬ ok → Traps i s s.m .arg (instrWord i)) ∧
      (lvl ≤ th.pl.toNat → ok → Does i s (s.m.modThr t f))
    writes 0x000 2 (bits v.toNat 63 16 = 0 ∧ bits v.toNat 9 9 = 0 ∧ bits v.toNat 7 6 = 0 ∧ bits v.toNat 3 2 = 0 ∧
        bits v.toNat 5 4 ≠ 3)
      (fun th => { th with kstat := setBits (setBits th.kstat 15 10 (bits v.toNat 15 10)) 5 4 (bits v.toNat 5 4) }) ∧
    writes 0x001 2 True (fun th => { th with kepc := v &&& 0xFFFFFFFFFFFFFFFC }) ∧
    writes 0x002 2 (bits v.toNat 63 16 = 0 ∧ bits v.toNat 14 9 = 0) (fun th => { th with kcause := v }) ∧
    writes 0x003 2 True (fun th => { th with ktval := v }) ∧
    writes 0x004 2 True (fun th => { th with ktvec := v &&& 0xFFFFFFFFFFFFFFFC }) ∧
    writes 0x005 2 True (fun th => { th with kscratch := v }) ∧
    writes 0x009 0 (bits v.toNat 63 8 = 0 ∧ bits v.toNat 3 3 = 0) (fun th => { th with kevt := th.kevt &&& ~~~(v.setWidth 8) }) ∧
    writes 0x010 1 (bits v.toNat 63 2 = 0) (fun th => { th with ktdbg := v }) ∧
    (∀ n, n < 4 → writes (0x011 + n) 1 (bits v.toNat 63 56 = 0 ∧ bits v.toNat 1 1 = 0)
      (fun th => { th with kbpa := tput 0 th.kbpa n v })) ∧
    (∀ n, n < 8 → k.toNat = 0x040 + n → Does i s (s.m.modCtx t (fun c => { c with tec := tput 0 c.tec n v }))) ∧
    (∀ n, n < 4 → k.toNat = 0x020 + n →
      (bits v.toNat 63 9 ≠ 0 → Traps i s s.m .arg (instrWord i)) ∧
      (bits v.toNat 63 9 = 0 → Does i s (s.m.modChain t (Eng.ofCode (BitVec.ofNat 2 n))
        (fun c => { c with flags := c.flags &&& ~~~(v.setWidth 16) })))) ∧
    (∀ n, n < 8 → k.toNat = 0x048 + n →
      (bits v.toNat 63 8 ≠ 0 → Traps i s s.m .arg (instrWord i)) ∧
      (bits v.toNat 63 8 = 0 → Does i s (s.m.modCtx t (fun c =>
        { c with tes := tput 0 c.tes n (if tileSel v.toNat then v.setWidth 8 else 0) })))) ∧
    (∀ n, n < 64 → k.toNat = 0x080 + n → th.pl.toNat < 1 → Traps i s s.m .priv (instrWord i)) ∧
    (∀ n, n < 32 → k.toNat = 0x080 + n → 1 ≤ th.pl.toNat →
      Does i s (s.m.modDie (TileId.die t) (fun y => { y with dec := tput 0 y.dec n v }))) ∧
    (∀ n, n < 32 → k.toNat = 0x0A0 + n → 1 ≤ th.pl.toNat →
      (bits v.toNat 63 8 ≠ 0 → Traps i s s.m .arg (instrWord i)) ∧
      (bits v.toNat 63 8 = 0 → Does i s (s.m.modDie (TileId.die t) (fun y =>
        { y with des := tput 0 y.des n (if dieSel v.toNat then v.setWidth 8 else 0) })))) ∧
    (k.toNat ∈ [0x008, 0x00A, 0x00B] → Traps i s s.m .priv (instrWord i)) ∧
    ((k.toNat ∈ [6, 7, 0xC, 0xD, 0xE, 0xF] ∨ 0x15 ≤ k.toNat ∧ k.toNat < 0x20 ∨ 0x24 ≤ k.toNat ∧ k.toNat < 0x40 ∨
      0x50 ≤ k.toNat ∧ k.toNat < 0x80 ∨ 0xC0 ≤ k.toNat) → Traps i s s.m .illegal (instrWord i))

/-- R306 to R312: SYSR and SYSW. Choices of the model: the tile registers of a thread without an item (log 57) and the unnamed upper bits
of registers, taken as reserved (log 58). -/
def Obligations.SystemRegisters : Prop := Claims.SystemRegisterReads ∧ Claims.SystemRegisterWrites

/-- R154, R234, R313, R315: the instructions whose effect is a trap, on a thread with no item: KEPC, KCAUSE and KTVAL are
saved, PPL takes the old PL, PL becomes F, TIP 1, and the pc KTVEC. `trap` has completed (KEPC is the next instruction);
`brk` and an illegal word have not. With TIP already 1 the thread halts instead, and a firmware error is raised. -/
def Claims.TrapEntry : Prop :=
  ∀ (s : State) (imm : BitVec 16) (w : Word),
    s.self.sup = none →
    let enters := fun (i : Instr) (code : Nat) (tval kepc : Dword) => ∃ s', exec i s = .next s' ∧ OnlySelf s s' ∧
      s'.self = { s.self with
        kepc := kepc &&& 0xFFFFFFFFFFFFFFFC, kcause := BitVec.ofNat 64 code, ktval := tval, kstat := s'.self.kstat,
        pc := s.self.ktvec &&& 0xFFFFFFFFFFFFFFFC, st := .ready, stepTrap := false, fence := none } ∧
      s'.self.pl = 2 ∧ s'.self.tip = true ∧ bits s'.self.kstat.toNat 5 4 = s.self.pl.toNat ∧
      s'.self.mprog = s.self.mprog
    (s.self.tip = false →
      enters (.trap imm) 0x0B (BitVec.ofNat 64 imm.toNat) (s.self.pc + 4) ∧
      enters .brk 0x0C s.self.pc s.self.pc ∧
      enters (.muIllegal w) 0x01 (BitVec.ofNat 64 w.toNat) s.self.pc) ∧
    (s.self.tip = true → ∀ i ∈ [Instr.trap imm, .brk, .muIllegal w], ∃ s', exec i s = .next s' ∧
      s'.self.st = .halted ∧ s'.self.kepc = s.self.kepc ∧ s'.self.kcause = s.self.kcause ∧ s'.self.ktval = s.self.ktval ∧
      s'.m.alerts = s.m.alerts ++ [0x01] ∧ s'.m.mem = s.m.mem)

/-- R154, R314: ERET at F restores: pc := KEPC, PL := PPL, TIP := 0, with MPROG left; below F it traps MU.PRIV. -/
def Claims.TrapReturn : Prop :=
  ∀ s : State,
    (s.self.pl.toNat < 2 → Traps .eret s s.m .priv (instrWord .eret)) ∧
    (2 ≤ s.self.pl.toNat → ∃ s', exec .eret s = .next s' ∧ OnlySelf s s' ∧
      s'.self = { s.self with pc := s.self.kepc, kstat := s'.self.kstat, st := .ready, stepTrap := false } ∧
      s'.self.pl.toNat = bits s.self.kstat.toNat 5 4 ∧ s'.self.tip = false ∧ s'.self.mprog = s.self.mprog ∧
      bits s'.self.kstat.toNat 5 4 = bits s.self.kstat.toNat 5 4)

/-- R419: TRAP on a thread that supervises an item posts a record with REASON 6 in the partition's fault queue, where it has
room, and the thread waits for its resolution. -/
def Claims.TrapWithItemWaits : Prop :=
  ∀ (s : State) (imm : BitVec 16) (u : Sup),
    let t := s.turn.thread
    let p := s.m.partOf t
    let q := s.m.fq p
    s.self.sup = some u → s.self.tip = false → q.held = [] → q.head - q.tail ≠ 256 →
    ∃ s', exec (.trap imm) s = .next s' ∧ s'.self.st = .waiting ∧ s'.self.hold = some q.head ∧
      s'.self.kepc = (s.self.pc + 4) &&& 0xFFFFFFFFFFFFFFFC ∧ (s'.m.fq p).head = q.head + 1 ∧
      (q.head, Waiter.thread t) ∈ (s'.m.fq p).waits ∧
      tget [] (s'.m.fq p).recs (q.head % 256) =
        [0, BitVec.ofNat 64 (u.lid.toNat * 2 ^ 32 + (u.item.getD 0).toNat),
         BitVec.ofNat 64 (0x0B * 2 ^ 40 + (TileId.cluster t).toNat * 2 ^ 24 + (TileId.num t).toNat * 2 ^ 21 + 2 ^ 19),
         BitVec.ofNat 64 (6 * 2 ^ 60 + p.toNat * 2 ^ 54), BitVec.ofNat 64 q.head, s.m.time,
         BitVec.ofNat 64 imm.toNat, 0] ∧
      s'.m.mem = s.m.mem

/-- R155: a pending asynchronous trap of a thread that may take one is taken: on a thread with no item and TIP 0, KEPC is the
instruction not yet completed, and KCAUSE says ASYNC and its source. -/
def Claims.AsyncTrapTaken : Prop :=
  ∀ (s : State) (t : TileId) (x : ATrap) (rest : List ATrap),
    let th := s.m.thr t
    th.asyncs = x :: rest → th.sup = none → th.tip = false → s.m.resting t = false → th.midMultiple = false →
    ∃ s', exec (.asyncTrapDelivery t) s = .next s' ∧ (s'.m.thr t).asyncs = rest ∧
      (s'.m.thr t).kepc = th.pc &&& 0xFFFFFFFFFFFFFFFC ∧ (s'.m.thr t).ktval = x.tval ∧
      (s'.m.thr t).kcause.toNat = 2 ^ 15 + (if x.src then 2 ^ 8 else 0) + x.code.toNat ∧ (s'.m.thr t).pl = 2 ∧
      (s'.m.thr t).tip = true ∧ (s'.m.thr t).pc = th.ktvec &&& 0xFFFFFFFFFFFFFFFC ∧
      (∀ r, (s'.m.thr t).rd r = th.rd r) ∧ (∀ v, v ≠ t → s'.m.thr v = s.m.thr v) ∧
      s' = { s with m := { s.m with threads := s'.m.threads } }

/-- R154, R155, R313 to R315, R419: taking an exception and returning from one. Choices of the model: the alert's code (log 99) and when
an asynchronous trap waits (log 102). -/
def Obligations.TrapsAndReturn : Prop := Claims.TrapEntry ∧ Claims.TrapReturn ∧ Claims.TrapWithItemWaits ∧ Claims.AsyncTrapTaken

/-- R171, R271, R286: a returned answer completes the load or atomic that waits for it, or takes its precise trap where the
STATUS is not 0; that of an atomic completed at a halt writes its register, or becomes an asynchronous trap with KTVAL its address, and
so does the STATUS of a store that has left. An instruction line that was invalidated while it was fetched is not kept (R193). -/
def Obligations.ReturnsComplete : Prop :=
  ∀ (s : State) (t : TileId) (o : Outst) (data st : Nat) (w : WEntry) (d : Reg) (n : Nat) (sg : Bool),
    let th := s.m.thr t
    (th.out = some o → o.resp = some (0, data) → o.fin = .load d n sg → o.cache = false → o.late = false →
      ∃ s', exec (.musherLoadReturn t) s = .next s' ∧ (s'.m.thr t).out = none ∧ (s'.m.thr t).pc = th.pc + 4 ∧
        (s'.m.thr t).st = .ready ∧
        (∀ r, (s'.m.thr t).rd r = if r = d ∧ r ≠ 0
          then loadedValue n sg (data / 2 ^ (8 * ((placeAddr o.place).2 % 16)) % 2 ^ (8 * n)) else th.rd r) ∧
        s' = { s with m := { s.m with threads := s'.m.threads } }) ∧
    (th.out = some o → o.resp = some (2, data) → o.fin = .load d n sg → th.asyncs = [] → o.late = false →
      let m1 := s.m.modThr t (fun th => { th with out := none, st := .ready })
      exec (.musherLoadReturn t) s = .next { s with m := m1.trapAt t .access o.va }) ∧
    (th.out = some o → o.resp = some (0, data) → o.fin = .amo d sg →
      let v := if sg then BitVec.ofInt 64 (BitVec.ofNat 32 data).toInt else BitVec.ofNat 64 data
      let one := fun (th' : Thread) => exec (.musherLoadReturn t) s = .next { s with m := s.m.setThr t (th'.wr d v) }
      (o.late = true → one { th with out := none }) ∧
      (o.late = false → ∃ s', exec (.musherLoadReturn t) s = .next s' ∧ (s'.m.thr t).pc = th.pc + 4 ∧
        (∀ r, (s'.m.thr t).rd r = if r = d ∧ r ≠ 0 then v else th.rd r) ∧ s' = { s with m := { s.m with threads := s'.m.threads } })) ∧
    (th.out = some o → o.resp = some (st, data) → o.fin = .amo d sg → o.late = true → st ≠ 0 →
      let th' := { th with out := none, asyncs := th.asyncs ++ [⟨(statusCause st).code, false, o.va, 2, s.m.time⟩] }
      exec (.musherLoadReturn t) s = .next { s with m := s.m.setThr t th' }) ∧
    (∀ line, th.out = some o → o.resp = some (0, data) → o.fin = .fetch line → o.late = false → o.stale = true →
      exec (.musherLoadReturn t) s = .next { s with m := s.m.setThr t { th with out := none, st := .ready } }) ∧
    (th.wbuf.find? (fun w => w.resp.isSome) = some w → w.resp = some st →
      ∃ s', exec (.storeStatusReturn t) s = .next s' ∧ (s'.m.thr t).wbuf.length + 1 = th.wbuf.length ∧
        (s'.m.thr t).asyncs = th.asyncs ++ (if st = 0 then [] else [⟨(statusCause st).code, false, w.va, 1, s.m.time⟩]) ∧
        (s'.m.thr t).g = th.g ∧ s' = { s with m := { s.m with threads := s'.m.threads } })

/-! ### Loop blocks -/

/-- R104, R145, R148, R210, R240, R322, R330, for every operator: a step whose reads, checks and translations all go through writes
its bytes, entries and ring positions together, moves its loop indices and issue count on, and leaves its signals due; what it does
beside that leaves the machine as it is, or, of an MX operator, stays in its tile's context and off its data (but for `mx.glsend`, `ld.bcast`
and the sequencer operators, which O21, O24 and O25 state). Before its turn a step of LD, VX or ST does nothing. Here no code word of a
tile is in error (R13). An `mx.glsend` waits while fewer than 64 tags to its target are free (R32). -/
def Obligations.BlockStepWrites : Prop :=
  ∀ (s : State) (i : Instr) (x : BlockStep),
    let t := s.turn.tile
    let sq := x.code % 256 = 0xF1 ∨ x.code % 256 = 0xF2 ∨ x.code % 256 = 0xF4
    stepOf i s = some x → s.m.stoppedNow t x.eng = false →
    (∀ b, i = .mxGlsend b → s.m.tagRoom t.die (List.replicate 64 (s.m.glDest t b)) = true) →
    (∀ v plan k m, x.parity t s.m = false → x.try_ t s.m = .taken v plan k m → m.sram1 = [] → m.sram2 = [] →
      v.t = t ∧ v.e = x.eng ∧ v.b = x.b ∧
      ∃ m', exec i s = .next { s with m := x.after v plan k m' } ∧ StepEnds m m' v plan k ∧
        (x.eng ≠ .mx → ¬ sq → x.code ≠ 0x003 → x.after v plan k m' = m') ∧
        (x.eng = .mx → x.code % 256 < 0xF0 → x.code ≠ 0x108 →
          MxAfter m' (x.after v plan k m') t (if x.code = 0x106 ∨ x.code = 0x107 then x.b.op1 else x.b.op0).index.toNat
            (bits x.b.d15.toNat 37 32))) ∧
    (x.eng ≠ .mx → s.m.chainGoes t x.eng = false ∨ (s.m.ctx t |>.chain x.eng).phase ≠ .steps → exec i s = .next s)

/-- R324 to R328: the one step of a sequencer operator. `sq.nop` does nothing; `sq.loop` leaves the block that follows in
loop index 0 with its counter, LB.RANGE where it would need a fifth counter; `sq.end` of an engine other than MX does
nothing more, that of MX gives the signals deferred to the window's end and those that the weight planes hold, LB.SEMOVF where one does
not fit; `sq.event` sets its engine's bit of KEVT in the thread of the tile's number, an MX one outside a replay. -/
def Claims.SequencerBlocks : Prop :=
  ∀ (s : State) (b : Block),
    let e := Eng.ofCode b.eng
    let t := s.turn.tile
    let c := s.m.ctx t
    s.onlyStep e b → b.op0.kind = 0 → b.op1.kind = 0 → b.op2.kind = 0 → b.op3.kind = 0 →
    (∃ s', exec (.sqNop b) s = .next s' ∧ TileOnly s s' e ∧ StepDone s s' e 0 ∧ (s'.m.ctx t).store = c.store ∧
      (s'.m.ctx t).acc = c.acc) ∧
    (∀ l n, loopPass (c.chain e).loops (c.chain e).cur b.d15 = some (l, n) →
      ∃ s', exec (.sqLoop b) s = .next s' ∧ TileOnly s s' e ∧ StepDone s s' e 0 ∧ (s'.m.ctx t).store = c.store ∧
        (s'.m.ctx t).acc = c.acc ∧ ((s'.m.ctx t).chain e).loops = l ∧ ((s'.m.ctx t).chain e).i0 = n) ∧
    (loopPass (c.chain e).loops (c.chain e).cur b.d15 = none → (c.chain e).flight = [] →
      exec (.sqLoop b) s = .next { s with m := s.m.chainFault t e (c.chain e).cur .lbRange }) ∧
    (e ≠ .mx → ∃ s', exec (.sqEnd b) s = .next s' ∧ TileOnly s s' e ∧ StepDone s s' e 0 ∧ (s'.m.ctx t).store = c.store ∧
      (s'.m.ctx t).acc = c.acc) ∧
    (e = .mx →
      let p := c.ext.p0
      let q := c.ext.p1
      let l := p.held ++ q.held ++ ((c.defer1 p.heldWin).defer1 q.heldWin).deferred
      ((∀ k, (c.sem k).toNat + amountOf l k ≤ 65535) →
        ∃ s', exec (.sqEnd b) s = .next s' ∧ ContextOnly s s' t ∧ StepDone s s' e 0 ∧
          (∀ k, ((s'.m.ctx t).sem k).toNat = (c.sem k).toNat + amountOf l k) ∧ (s'.m.ctx t).ext.defer = [] ∧
          (s'.m.ctx t).ext.p0 = { p with held := [], heldWin := [] } ∧ (s'.m.ctx t).ext.p1 = { q with held := [], heldWin := [] } ∧
          (s'.m.ctx t).store = c.store ∧ (s'.m.ctx t).acc = c.acc ∧ (s'.m.ctx t).rings = c.rings) ∧
      ((∃ k, 65535 < (c.sem k).toNat + amountOf l k) → ∃ s', exec (.sqEnd b) s = .next s' ∧ (s'.m.ctx t).mx.st = .faulted ∧
        (s'.m.ctx t).mx.cause = Cause.lbSemovf.code)) ∧
    (∃ s' s'', exec (.sqNop b) s = .next s' ∧ exec (.sqEvent b) s = .next s'' ∧
      s'' = { s' with m := s'.m.modThr t (fun th =>
        { th with kevt := th.kevt ||| (if e = .ld then 16 else if e = .mx then 32 else if e = .vx then 64 else 128) }) })

/-- R249: `sq.patch` with SRC 1 replaces a field of a dword of the chain area with the low bits of its constant, and changes
no other byte; LB.PATCH for a block outside the chain area, a field past bit 63, or OPC. -/
def Claims.PatchBlock : Prop :=
  ∀ (s : State) (b : Block),
    let e := Eng.ofCode b.eng
    let t := s.turn.tile
    let ca := s.m.chareaOf t
    let d := b.d15.toNat
    let lsb := bits d 21 16
    let len := bits d 27 22 + 1
    let a := chainBase ca + 128 * bits d 11 0 + 8 * bits d 15 12
    let old := Memory.read (s.m.ctx t).store a 8
    let ok := bits d 11 0 * 128 < ca * 4096 ∧ lsb + len ≤ 64 ∧ ¬ (bits d 15 12 = 0 ∧ lsb ≤ 9)
    s.onlyStep e b → b.op0.kind = 0 → b.op1.kind = 0 → b.op2.kind = 0 → b.op3.kind = 0 → bits d 29 28 = 1 →
    (ok → ∃ s', exec (.sqPatch b) s = .next s' ∧ TileOnly s s' e ∧ StepDone s s' e 0 ∧
      Memory.read (s'.m.ctx t).store a 8 =
        old % 2 ^ lsb + ((b.d15.extractLsb' 32 32).toInt % 2 ^ len).toNat * 2 ^ lsb +
          old / 2 ^ (lsb + len) * 2 ^ (lsb + len) ∧
      (∀ k, k < a ∨ a + 8 ≤ k → Memory.byte (s'.m.ctx t).store k = Memory.byte (s.m.ctx t).store k)) ∧
    (¬ ok → ((s.m.ctx t).chain e).flight = [] → exec (.sqPatch b) s = .next { s with m := s.m.chainFault t e ((s.m.ctx t).chain e).cur .lbPatch })

/-- R131, R249, R324 to R328, R347: the sequencer operators. -/
def Obligations.SequencerSteps : Prop := Claims.SequencerBlocks ∧ Claims.PatchBlock

/-- R332, R335, R368 to R379: the one step of an operator whose operands are elements of the tile store writes the element
that the operator makes of its sources, with its flags, and nothing else. The blocks carry MA or broadcast strides, so that
no run is misaligned (R365). -/
def Claims.ElementBlocks : Prop :=
  ∀ (s : State) (b : Block) (f0 : Byte) (n0 a0 : Nat) (l : List (Byte × Nat × Nat)),
    ∀ x ∈ elementForms b f0 ((l.headD (f0, 0, 0)).1),
      s.onlyStep x.2.1 b → l.length = x.2.2.1 → s.elemAt b.op0 (0, 0, 0, 0) f0 n0 a0 → s.sourcesAre b l →
      (b.ma = true ∨ (b.op0.st0 = 0 ∧ b.op1.st0 = 0 ∧ b.op2.st0 = 0 ∧ b.op3.st0 = 0)) →
      StepWrites x.1 s x.2.1 n0 a0 (x.2.2.2 (l.map s.stored)).1 (x.2.2.2 (l.map s.stored)).2

/-- R376, R377, R379: of a run of one element, `vx.scalefind` writes the least scale code under which the element does not
overflow TFMT, 128 for an element that is zero, infinite or NaN; `vx.expmax` writes floor(log2 |x|) + 127, −2^31 for such an
element; `vx.perm` moves the element that index 0 names, and faults LB.RANGE on any other index. -/
def Claims.RunBlocks : Prop :=
  ∀ (s : State) (b : Block) (f0 f1 f2 : Byte) (n0 a0 n1 a1 n2 a2 : Nat) (g : FFmt),
    let x := s.stored (f1, n1, a1)
    let nothing := ∀ sg mm me, inVal f1 b.ftzi x = .num sg mm me → mm = 0
    s.onlyStep .vx b → s.elemAt b.op0 (0, 0, 0, 0) f0 n0 a0 → s.elemAt b.op1 (0, 0, 0, 0) f1 n1 a1 →
    (b.ma = true ∨ (b.op0.st0 = 0 ∧ b.op1.st0 = 0 ∧ b.op2.st0 = 0 ∧ b.op3.st0 = 0)) → b.op3.kind = 0 →
    (b.op2.kind = 0 →
      (isFp f1 = true → nothing → StepWrites (.vxScalefind b) s .vx n0 a0 128 0 ∧ StepWrites (.vxExpmax b) s .vx n0 a0 (2 ^ 31) 0) ∧
      (∀ sg mm me, isFp f1 = true → inVal f1 b.ftzi x = .num sg mm me → mm ≠ 0 →
        StepWrites (.vxExpmax b) s .vx n0 a0 (BitVec.ofInt 32 (me + Nat.log2 mm + 127)).toNat 0 ∧
        (fmtD (b.d15.extractLsb' 0 8) = .flt g →
          ∃ e : Int, magLt (magOf g (maxCode g)).1 ((magOf g (maxCode g)).2 + e) mm me = false ∧
            magLt (magOf g (maxCode g)).1 ((magOf g (maxCode g)).2 + (e - 1)) mm me = true ∧
            StepWrites (.vxScalefind b) s .vx n0 a0 (min (max (e + 128) 1) 0xFD).toNat 0))) ∧
    (s.elemAt b.op2 (0, 0, 0, 0) f2 n2 a2 → f2 = 6 ∨ f2 = 8 →
      (s.stored (f2, n2, a2) = 0 → StepWrites (.vxPerm b) s .vx n0 a0 x 0) ∧
      (s.stored (f2, n2, a2) ≠ 0 → (s.m.ctx s.turn.tile).vx.flight = [] →
        exec (.vxPerm b) s = .next { s with m := s.m.chainFault s.turn.tile .vx ((s.m.ctx s.turn.tile).vx).cur .lbRange }))

/-- R332, R335, R368 to R379: the operators on elements and on runs. -/
def Obligations.VectorSteps : Prop := Claims.ElementBlocks ∧ Claims.RunBlocks

/-- R349, R353, R354, R358: the one step of an operator that writes an accumulator entry. `mx.azero` zeroes it; `mx.afill`
makes it of an element; `mx.mma` of one activation code popped from a ring and one dense weight adds their product;
`mx.arebase` of a tile of one entry rebases it and writes the new anchor. -/
def Claims.AccumulatorBlocks : Prop :=
  ∀ (s : State) (b : Block) (e n1 a1 : Nat) (f1 : Byte),
    let c := s.m.ctx s.turn.tile
    let n := b.op0.index.toNat
    let anchor := accAnchor (c.accCfg n)
    let d := b.d15.toNat
    s.onlyStep .mx b → b.op0.kind = 3 → b.op2.kind = 0 → b.op3.kind = 0 →
    (b.op1.kind = 0 → s.entryIs n (operandCoords b.op0 (0, 0, 0, 0)) e →
      StepSets (.mxAzero b) s n e AqEntry.zero) ∧
    (s.elemAt b.op1 (0, 0, 0, 0) f1 n1 a1 → s.entryIs n (operandCoords b.op0 (0, 0, 0, 0)) e →
      (f1 ≠ 7 → StepSets (.mxAfill b) s n e (aqFromValue (inVal f1 b.ftzi (s.stored (f1, n1, a1))) anchor)) ∧
      (f1 = 7 → StepSets (.mxAfill b) s n e
        ⟨BitVec.ofNat 128 (s.stored (f1, n1, a1)), 0, false, false,
          BitVec.ofNat 32 (Nat.min (aqTerms (BitVec.ofNat 128 (s.stored (f1, n1, a1)))) cntMax)⟩)) ∧
    (let r := c.ring b.op1.index.toNat
     let p := c.ext.plane (bits d 0 0)
     b.op1.kind = 2 → ringSrc r = f1 → popFmt r b.op1 = f1 → fmtWidth f1 = 8 * n1 →
     ringBase r * 8 + r.head.1 * ringSlotu r * 512 + r.head.2 * (8 * n1) = 8 * a1 →
     ringBase r + ringNslot r * ringSlotu r * 64 ≤ chainBase (s.m.chareaOf s.turn.tile) → b.op1.opf.getLsbD 0 = false → bits d 17 8 = 0 → bits d 30 24 = 0 → b.dup = false →
     p.sparse = false → s.entryIs n (operandCoords b.op0 (0, 0, 0, 0)) e →
     ∃ s', exec (.mxMma b) s = .next s' ∧ TileOnly s s' .mx ∧ StepDone s s' .mx 0 ∧
       s'.entry e = aqAccumulate (s.entry e)
         (aqProduct (inVal f1 b.ftzi (s.stored (f1, n1, a1))) (inVal p.fmt b.ftzi (tget 0 p.w 0)) (.num false 1 0)
           (inVal b8p1u false (tget 128 p.scale 0))) anchor ∧
       (∀ k, k ≠ e → s'.entry k = s.entry k) ∧ (s'.m.ctx s.turn.tile).store = c.store ∧
       (s'.m.ctx s.turn.tile).ring b.op1.index.toNat = { r with head := ringStep r r.head } ∧
       (∀ q, q ≠ b.op1.index.toNat → (s'.m.ctx s.turn.tile).ring q = c.ring q)) ∧
    (let cfg := c.accCfg n
     b.op1.kind = 0 → accNRow cfg = 0 → accNCol cfg = 0 → c.reserved n = false → e = entryAt (accRow0 cfg) (accCol0 cfg) →
     ∃ s', exec (.mxArebase b) s = .next s' ∧ TileOnly s s' .mx ∧ StepDone s s' .mx 0 ∧
       s'.entry e = aqRebase (s.entry e) anchor (b.d15.extractLsb' 0 11).toInt ∧
       (∀ k, k ≠ e → s'.entry k = s.entry k) ∧ (s'.m.ctx s.turn.tile).store = c.store ∧
       (s'.m.ctx s.turn.tile).accCfg n = setBits (cfg ||| 0x4000000000000000) 42 32 (bits d 10 0) ∧
       (∀ k, k ≠ n → (s'.m.ctx s.turn.tile).accCfg k = c.accCfg k))

/-- R355, R356: the one step of `mx.aread` and `mx.adrain` of a tile without DUP writes its entry, converted, to an element
of the tile store; `mx.adrain` multiplies it by its scale, adds its bias and clips it first, where it has them. An aq128
element takes the entry as it is. -/
def Claims.DrainBlocks : Prop :=
  ∀ (s : State) (b : Block) (f0 : Byte) (n0 a0 e a2 a3 : Nat),
    let c := s.m.ctx s.turn.tile
    let n := b.op1.index.toNat
    let f := if b.op1.fmt = 0 then f0 else b.op1.fmt
    let x := s.entry e
    let v := aqValue x (accAnchor (c.accCfg n)) b.smap
    let out := fun (i : Instr) (y : Nat × BitVec 16) => StepWrites i s .mx n0 a0 y.1 (aqFlags x ||| y.2)
    let conv := outRes f b.rm b.sat b.ftzo
    let z := fun (a : Nat) => some (inVal 1 b.ftzi (s.stored (1, 4, a)))
    s.onlyStep .mx b → s.elemAt b.op0 (0, 0, 0, 0) f0 n0 a0 → b.op1.kind = 3 →
    s.entryIs n (operandCoords b.op1 (0, 0, 0, 0)) e → (tget (false, 0) c.ext.dup n).1 = false →
    (b.op2.kind = 0 → b.op3.kind = 0 →
      (f = 7 → out (.mxAread b) (x.i.toNat, 0) ∧ out (.mxAdrain b) (x.i.toNat, 0)) ∧
      (f ≠ 7 → out (.mxAread b) (conv (v, 0)) ∧ out (.mxAdrain b) (conv (drainValue b v none none)))) ∧
    (f ≠ 7 → s.elemAt b.op2 (0, 0, 0, 0) 1 4 a2 → b.op3.kind = 0 →
      out (.mxAdrain b) (conv (drainValue b v (z a2) none))) ∧
    (f ≠ 7 → b.op2.kind = 0 → s.elemAt b.op3 (0, 0, 0, 0) 1 4 a3 →
      out (.mxAdrain b) (conv (drainValue b v none (z a3)))) ∧
    (f ≠ 7 → s.elemAt b.op2 (0, 0, 0, 0) 1 4 a2 → s.elemAt b.op3 (0, 0, 0, 0) 1 4 a3 →
      out (.mxAdrain b) (conv (drainValue b v (z a2) (z a3))))

/-- R349, R353 to R358: the operators that write or drain accumulator entries. -/
def Obligations.AccumulatorSteps : Prop := Claims.AccumulatorBlocks ∧ Claims.DrainBlocks

/-- R345, R346: the one step of `mx.wload` of one element makes a plane of that one dense weight, in its format, and every
other weight of the plane zero; `mx.wloads` of one column with N = 1 makes a sparse plane of its four entries, each in its
own group, and faults MX.SPMETA where an index is not below 128. The other plane stays. -/
def Claims.WeightBlocks : Prop :=
  ∀ (s : State) (b : Block) (f1 : Byte) (n1 : Nat) (a1 a2 : Nat → Nat),
    let t := s.turn.tile
    let c := s.m.ctx t
    let d := b.d15.toNat
    let k := bits d 0 0
    let nb := bits d 23 16
    let p := c.ext.plane k
    let x := fun (j : Nat) => s.stored (f1, n1, a1 j)
    let m := fun (j : Nat) => s.stored (5, 1, a2 j)
    s.firstStep .mx → b.op0.kind = 0 → b.b0 = 1 → b.b2 = 1 → b.b3 = 1 → b.op3.kind = 0 →
    (b.b1 = 1 → b.op2.kind = 0 → s.elemAt b.op1 (0, 0, 0, 0) f1 n1 (a1 0) →
      ∃ s', exec (.mxWload b) s = .next s' ∧ TileOnly s s' .mx ∧ StepDone s s' .mx 0 ∧
        (s'.m.ctx t).store = c.store ∧ (s'.m.ctx t).acc = c.acc ∧
        (s'.m.ctx t).ext.plane (1 - k) = c.ext.plane (1 - k) ∧
        (let p' := (s'.m.ctx t).ext.plane k
         p'.fmt = f1 ∧ p'.sparse = false ∧ p'.blk = BitVec.ofNat 12 c.mx.cur ∧ p'.held = p.held ∧ p'.scale = [] ∧
          ∀ q, tget 0 p'.w q = if q = bits d 15 8 * 128 + nb then x 0 else 0)) ∧
    (b.b1 = 4 → bits d 13 8 = 0 → (∀ j, j < 4 → s.elemAt b.op1 (0, j, 0, 0) f1 n1 (a1 j)) →
      (∀ j, j < 4 → s.elemAt b.op2 (0, j, 0, 0) 5 1 (a2 j)) →
      ((∀ j, j < 4 → m j < 128) →
        ∃ s', exec (.mxWloads b) s = .next s' ∧ TileOnly s s' .mx ∧
          (s'.m.ctx t).store = c.store ∧ (s'.m.ctx t).acc = c.acc ∧ (s'.m.ctx t).mx.phase = .signals ∧
          (s'.m.ctx t).mx.last = true ∧ (s'.m.ctx t).ext.plane (1 - k) = c.ext.plane (1 - k) ∧
          (let p' := (s'.m.ctx t).ext.plane k
           p'.fmt = f1 ∧ p'.sparse = true ∧ p'.n = 1 ∧ p'.blk = BitVec.ofNat 12 c.mx.cur ∧
            ∀ j, j < 4 → tget 0 p'.w (nb * 128 + j) = x j ∧ tget 0 p'.rows (nb * 128 + j) = 128 * j + m j + 1)) ∧
      ((∃ j, j < 4 ∧ 128 ≤ m j) → c.mx.flight = [] → ∃ s', exec (.mxWloads b) s = .next s' ∧ (s'.m.ctx t).mx.st = .faulted ∧
        (s'.m.ctx t).mx.cause = Cause.mxSpmeta.code ∧ ((s'.m.ctx t).ext.plane k).fmt = 0))

/-- R225, R226, R357: the one step of `mx.glsend` of a tile of one entry, over a handle that is valid, no landing handle,
not absent, and of the tile's size and anchor, sends the entry with its flags as one gangline message under the next free
tag and counts it as unanswered; the window is then bound to the gangline. -/
def Claims.GanglineSend : Prop :=
  ∀ (s : State) (b : Block) (tag : BitVec 12),
    let t := s.turn.tile
    let d := t.die
    let c := s.m.ctx t
    let n := b.op1.index.toNat
    let cfg := c.accCfg n
    let h := c.handle (b.d15.extractLsb' 0 3)
    let e := entryAt (accRow0 cfg) (accCol0 cfg)
    let x := glMsg s.m t (s.m.partOf t) h b.cls [(0, s.entry e)]
    let y := s.m.die d
    s.onlyStep .mx b → b.op0.kind = 0 → b.op1.kind = 3 → b.op2.kind = 0 → b.op3.kind = 0 → c.mx.glh = 0 → c.mx.glmask = 0 →
    accNRow cfg = 0 → accNCol cfg = 0 → bits h.toNat 17 11 = 0 → bits h.toNat 10 4 = 0 → h.getLsbD 63 = true →
    h.getLsbD 62 = false → h.getLsbD 61 = false → accAnchor cfg = (h.extractLsb' 18 11).toInt →
    s.m.tagRoom d (List.replicate 64 (s.m.glDest t b)) = true → s.m.routed d x.dpkg = true →
    firstTag y.tags x.dpkg x.ddie (y.tags.length + 1) (tget 0 y.tagNext (x.dpkg.toNat * 4 + x.ddie.toNat)) = some tag →
    ∃ s', exec (.mxGlsend b) s = .next s' ∧ StepDone s s' .mx (aqFlags (s.entry e)) ∧
      (s'.m.ctx t).mx.outw = c.mx.outw + 1 ∧ (s'.m.ctx t).mx.glh = h ∧ (s'.m.ctx t).ext.glb = true ∧
      (s'.m.ctx t).acc = c.acc ∧ (s'.m.ctx t).store = c.store ∧
      (∀ u, u ≠ t → s'.m.tile u = s.m.tile u) ∧ (∀ k, k ≠ d → s'.m.die k = s.m.die k) ∧
      s' = { s with m := { s.m with tiles := s'.m.tiles, dies := s'.m.dies } } ∧
      (let sent : Msg := { x with tag := tag, hops := 15, sdie := d, spkg := s.m.pkg }
       let tags := y.tags ++ [⟨x.dpkg, x.ddie, tag, .gang t 0 1, .here 0, false, x.sagent, none, [], b.cls⟩]
       (s'.m.die d).tags = tags ∧
         (x.dpkg = s.m.pkg ∧ x.ddie = d → (s'.m.die d).inq = y.inq ++ [sent] ∧ (s'.m.die d).outq = y.outq) ∧
         (¬ (x.dpkg = s.m.pkg ∧ x.ddie = d) → (s'.m.die d).outq = y.outq ++ [sent] ∧ (s'.m.die d).inq = y.inq))

/-- R225, R226, R345, R346, R357: weight loads and the gangline send. -/
def Obligations.WeightAndSendSteps : Prop := Claims.WeightBlocks ∧ Claims.GanglineSend

/-- R170, R332, R336, R337: the one step of a block whose operands lie in memory of the tile's die: `ld.copy` and `ld.pref`
bring an element, to the tile store or a pool; `st.copy` writes one; `st.reduce` adds one, or takes the greater, at its
location. No access of the block's class that the chain has sent is still to be performed (R180). -/
def Claims.MemoryBlocks : Prop :=
  ∀ (s : State) (b : Block) (f : Byte) (n a pa pb : Nat),
    let x := Memory.read s.m.mem pa n
    let y := s.stored (f, n, a)
    b.op2.kind = 0 → b.op3.kind = 0 →
    (s.onlyStep .ld b → s.m.classOwed s.turn.tile .ld b.cls = [] → s.memAt b.op1 f n pa .read →
      (s.elemAt b.op0 (0, 0, 0, 0) f n a → StepLoads (.ldCopy b) s .ld n a x 0) ∧
      (s.memAt b.op0 f n pb .write → StepWritesMem (.ldPref b) s .ld n pb x)) ∧
    (s.onlyStep .st b → s.m.classOwed s.turn.tile .st b.cls = [] → s.elemAt b.op1 (0, 0, 0, 0) f n a →
      (s.memAt b.op0 f n pb .write → StepWritesMem (.stCopy b) s .st n pb y) ∧
      (let rop := reduceCode b.d15 f
       s.memAt b.op0 f n pb .atomic → n = reduceSize rop →
        StepWritesMem (.stReduce b) s .st n pb (reduceNew rop b.rm (Memory.read s.m.mem pb n) y)))

/-- R333: `ld.gather` replaces coordinate G of OP1, and `st.scatter` of OP0, by its index; an index outside the extent is
LB.RANGE, or under SKIP a gathered zero and a scatter that writes nothing. -/
def Claims.IndexedBlocks : Prop :=
  ∀ (s : State) (b : Block) (f f2 : Byte) (n a a' n2 a2 : Nat),
    let t := s.turn.tile
    let g := bits b.d15.toNat 1 0
    let ix := intCode f2 (s.stored (f2, n2, a2))
    let ext := fun (o : Operand) => ((s.m.ctx t).win o.index.toNat).ext g
    let inside := fun (o : Operand) => 0 ≤ ix ∧ ix < ext o
    s.elemAt b.op2 (0, 0, 0, 0) f2 n2 a2 → b.op3.kind = 0 →
    (s.onlyStep .ld b → s.elemAt b.op0 (0, 0, 0, 0) f n a →
      (inside b.op1 → s.coordsAt b.op1 ((operandCoords b.op1 (0, 0, 0, 0)).set g ix) f n a' →
        StepWrites (.ldGather b) s .ld n a (s.stored (f, n, a')) 0) ∧
      (¬ inside b.op1 → b.d15.getLsbD 2 = true → StepWrites (.ldGather b) s .ld n a 0 0) ∧
      (¬ inside b.op1 → b.d15.getLsbD 2 = false → (s.m.ctx t).ld.flight = [] →
        exec (.ldGather b) s = .next { s with m := s.m.chainFault t .ld ((s.m.ctx t).ld).cur .lbRange })) ∧
    (s.onlyStep .st b → s.elemAt b.op1 (0, 0, 0, 0) f n a →
      (inside b.op0 → s.coordsAt b.op0 ((operandCoords b.op0 (0, 0, 0, 0)).set g ix) f n a' →
        StepWrites (.stScatter b) s .st n a' (s.stored (f, n, a)) 0) ∧
      (¬ inside b.op0 → b.d15.getLsbD 2 = true → StepWrites (.stScatter b) s .st 0 0 0 0) ∧
      (¬ inside b.op0 → b.d15.getLsbD 2 = false → (s.m.ctx t).st.flight = [] →
        exec (.stScatter b) s = .next { s with m := s.m.chainFault t .st ((s.m.ctx t).st).cur .lbRange }))

/-- R334: `ld.bcast` writes its element at one address of the tile store of every tile that TMASK names, where items of the
same launch and slot run, and adds AMT to the semaphore it names there; no other tile changes. -/
def Claims.BroadcastBlock : Prop :=
  ∀ (s : State) (b : Block) (f : Byte) (n a a1 : Nat) (bd : Bind),
    let t := s.turn.tile
    let d := b.d15.toNat
    let named := fun (u : TileId) => TileId.cluster u = TileId.cluster t ∧ tst d (TileId.num u).toNat = true
    let sem := b.d15.extractLsb' 8 5
    let amt := bits d 16 13
    s.onlyStep .ld b → s.elemAt b.op0 (0, 0, 0, 0) f n a → s.elemAt b.op1 (0, 0, 0, 0) f n a1 →
    b.op2.kind = 0 → b.op3.kind = 0 → (s.m.tile t).bind = some bd →
    (∀ u, named u → (s.m.tile u).halting = false ∧ ((s.m.ctx u).sem sem).toNat + amt ≤ 65535 ∧
      ∃ x, (s.m.tile u).bind = some x ∧ x.lid = bd.lid ∧ x.slot = bd.slot) →
    ∃ s', exec (.ldBcast b) s = .next s' ∧ StepDone s s' .ld 0 ∧
      s' = { s with m := { s.m with tiles := s'.m.tiles } } ∧
      (∀ u, named u → Memory.read (s'.m.ctx u).store a n = s.stored (f, n, a1) ∧
        (∀ k, k < a ∨ a + n ≤ k → Memory.byte (s'.m.ctx u).store k = Memory.byte (s.m.ctx u).store k) ∧
        ((s'.m.ctx u).sem sem).toNat = ((s.m.ctx u).sem sem).toNat + amt ∧
        (∀ k, k ≠ sem → (s'.m.ctx u).sem k = (s.m.ctx u).sem k) ∧ (s'.m.ctx u).acc = (s.m.ctx u).acc ∧
        (s'.m.ctx u).wins = (s.m.ctx u).wins ∧ (s'.m.ctx u).rings = (s.m.ctx u).rings) ∧
      (∀ u, ¬ named u → u ≠ t → s'.m.tile u = s.m.tile u) ∧
      (¬ named t → (s'.m.ctx t).store = (s.m.ctx t).store ∧ (s'.m.ctx t).sems = (s.m.ctx t).sems)

/-- R170, R332 to R334, R336, R337: the operators of the LD and ST engines on memory, by index, and to other tiles. -/
def Obligations.MemorySteps : Prop := Claims.MemoryBlocks ∧ Claims.IndexedBlocks ∧ Claims.BroadcastBlock

/-- R145, R246, R247, R252, R383: latching. A block of LD, VX or ST whose last step has issued is over but for its signals, which wait
until its accesses have landed, and the next block latches (log 161). A block past the chain area faults LB.RANGE, one that does not
decode LB.ILLEGAL or LB.RESERVED, also where it names no configured object but a reserved window word as well (log 54); a fault waits
until the blocks before it have landed. A block that passes every check binds its rings and becomes the latched block, still to take
its waits, or is over at once where a bound is zero; one of MX opens a window with TS, issuing what the last one deferred (R131), and a
weight load issues what its plane held before the window (R347): LB.SEMOVF where one of those signals does not fit. -/
def Obligations.BlockLatching : Prop :=
  ∀ (s : State) (t : TileId) (e : Eng),
    let y := (s.m.ctx t).chain e
    let s1 := s.onM (fun m => if m.flies t e then m.modCtx t (fun c => c.fly e) else m)
    let c := s1.m.ctx t
    let x := c.chain e
    let ca := s.m.chareaOf t
    let i := Instr.blockLatch t e
    let ds := c.blockWords ca x.cur
    let faults := fun (f : Cause) =>
      exec i s = .next (if x.flight = [] then { s1 with m := s1.m.chainFault t e x.cur f } else s)
    s.m.chainGoes t e = true →
    (s.m.flies t e = false → y.latched ≠ none → exec i s = .next s) ∧
    (∀ j code b, s.m.flies t e = true → y.latched = some j → j.block? = some (code, b) →
      let l := y.dueSig ++ signalsOf b y.due
      x.latched = none ∧ x.cur = y.cur + 1 ∧ x.phase = .waits ∧ x.st = .running ∧ x.flight = y.flight ++ (if l = [] then [] else [(y.cur, l)]) ∧
        x.flags = y.flags ∧ x.issue = y.issue ∧ c = (s.m.ctx t).setChain e x) ∧
    (x.latched = none →
      (chainBlocks ca ≤ x.cur → faults .lbRange) ∧
      (x.cur < chainBlocks ca →
        (decodeBlock e ds = .illegal → faults .lbIllegal) ∧ (decodeBlock e ds = .reserved → faults .lbReserved) ∧
        (∀ j code b, decodeBlock e ds = .ok j → j.block? = some (code, b) →
          (∀ f, c.objectFault b = some f → faults (if c.winReserved code b then .lbReserved else f)) ∧
          (c.objectFault b = none → s1.m.dynReserved t code x.cur b = true → faults .lbReserved) ∧
          (c.objectFault b = none → s1.m.dynReserved t code x.cur b = false → ∀ f, s1.m.kindFault t code b = some f → faults f) ∧
          (c.objectFault b = none → s1.m.dynReserved t code x.cur b = false → s1.m.kindFault t code b = none →
            (c.bindRings e b = none → faults .lbRing) ∧
            (∀ c', c.bindRings e b = some c' → e ≠ .mx → code / 256 = e.code.toNat →
              ∃ s', exec i s = .next s' ∧ ContextOnly s s' t ∧
                s'.m.ctx t = c'.setChain e (if zeroBound b then x.finish (c'.histFrom e) (x.cur + 1)
                  else { x with latched := some j, phase := .waits, last := false, due := 0, dueSig := [] })) ∧
            (∀ c', c.bindRings e b = some c' → e = .mx →
              let opens := b.ts = true ∧ c.ext.replaying = none
              let p := c.ext.plane (bits b.d15.toNat 0 0)
              let loads := blockIx x = (0, 0, 0, 0) ∧ (code = 0x101 ∨ code = 0x102)
              let l := (if opens then c.deferred else []) ++
                (if loads then (if opens then p.newWindow.held else p.held) else [])
              ((∀ k, (c.sem k).toNat + amountOf l k ≤ 65535) →
                ∃ s', exec i s = .next s' ∧ ContextOnly s s' t ∧
                  (∀ k, ((s'.m.ctx t).sem k).toNat = (c.sem k).toNat + amountOf l k) ∧
                  (s'.m.ctx t).mx.latched = (if zeroBound b then none else some j) ∧ (s'.m.ctx t).mx.phase = .waits ∧
                  (s'.m.ctx t).mx.cur = (if zeroBound b then x.cur + 1 else x.cur) ∧ (s'.m.ctx t).mx.flags = x.flags ∧
                  (s'.m.ctx t).store = c.store ∧ (s'.m.ctx t).acc = c.acc ∧ (s'.m.ctx t).rings = c'.rings ∧
                  (s'.m.ctx t).acfg = c.acfg ∧ (∀ k, k ≠ .mx → (s'.m.ctx t).chain k = c.chain k) ∧
                  (loads → ((s'.m.ctx t).ext.plane (bits b.d15.toNat 0 0)).held = [] ∧
                    ((s'.m.ctx t).ext.plane (bits b.d15.toNat 0 0)).heldWin = []) ∧
                  (opens → (s'.m.ctx t).ext.tsblk = BitVec.ofNat 12 x.cur ∧ (s'.m.ctx t).ext.defer = [] ∧
                    (s'.m.ctx t).ext.writ = [] ∧ (s'.m.ctx t).ext.init = [] ∧ (s'.m.ctx t).ext.repl = false ∧
                    (s'.m.ctx t).ext.glb = false)) ∧
              ((∃ k, 65535 < (c.sem k).toNat + amountOf l k) → x.flight = [] → ∃ s', exec i s = .next s' ∧
                (s'.m.ctx t).mx.st = .faulted ∧ (s'.m.ctx t).mx.cause = Cause.lbSemovf.code))))))

/-- R145, R146, R321: the waits of the next step, its ring waits among them, are taken together or not at all, and the step
may then issue; not while an engine earlier in the order MX, VX, LD, ST could be granted a wait on one of their counts. Two waits on
one semaphore take the sum (log 51); where their rings have too few slots for both, two bf16 steps wait one by one (log 113). MX
gives the signals it has deferred, and starts a new window, before it waits (R131). -/
def Claims.WaitsTogether : Prop :=
  ∀ (s : State) (t : TileId) (e : Eng) (i : Instr) (code : Nat) (b : Block) (rt : List (BitVec 5 × Nat)),
    let c := s.m.ctx t
    let x := c.chain e
    let plan := s.m.stepPlan t code b (blockIx x)
    let need := waitsOf b plan.begins ++ rt
    s.m.chainGoes t e = true → x.phase = .waits → x.latched = some i → i.block? = some (code, b) →
    (e = .mx → c.ext.replaying = none) →
    (c.ringTakes (ringMoves code b plan.its.length) = none →
      exec (.semaphoreWaitGrant t e) s = .next (if x.flight = [] then { s with m := s.m.chainFault t e x.cur .lbRing } else s)) ∧
    (c.ringTakes (ringMoves code b plan.its.length) = some rt →
      ((∀ k, amountOf need k ≤ (c.sem k).toNat) → s.m.outranked t e need = true →
        exec (.semaphoreWaitGrant t e) s = .next s) ∧
      ((∀ k, amountOf need k ≤ (c.sem k).toNat) → s.m.outranked t e need = false →
        ∃ s', exec (.semaphoreWaitGrant t e) s = .next s' ∧ ContextOnly s s' t ∧
          (∀ k, ((s'.m.ctx t).sem k).toNat + amountOf need k = (c.sem k).toNat) ∧
          s'.m.ctx t = { c with sems := (s'.m.ctx t).sems }.setChain e { x with phase := .steps, wtaken := true }) ∧
      ((∃ k, (c.sem k).toNat < amountOf need k) →
        ((e = .mx → c.ext.defer = []) → exec (.semaphoreWaitGrant t e) s = .next s) ∧
        (e = .mx → c.ext.defer ≠ [] →
          ((∀ k, (c.sem k).toNat + amountOf c.deferred k ≤ 65535) →
            ∃ s', exec (.semaphoreWaitGrant t e) s = .next s' ∧ ContextOnly s s' t ∧
              (∀ k, ((s'.m.ctx t).sem k).toNat = (c.sem k).toNat + amountOf c.deferred k) ∧
              (s'.m.ctx t).ext.defer = [] ∧ (s'.m.ctx t).ext.tsblk = BitVec.ofNat 12 x.cur ∧ (s'.m.ctx t).ext.writ = [] ∧
              (s'.m.ctx t).mx.phase = .waits ∧ (s'.m.ctx t).mx.latched = some i ∧ (s'.m.ctx t).mx.cur = x.cur ∧
              (s'.m.ctx t).store = c.store ∧ (s'.m.ctx t).acc = c.acc ∧ (s'.m.ctx t).rings = c.rings) ∧
          ((∃ k, 65535 < (c.sem k).toNat + amountOf c.deferred k) → ∃ s', exec (.semaphoreWaitGrant t e) s = .next s' ∧
            (s'.m.ctx t).mx.st = .faulted ∧ (s'.m.ctx t).mx.cause = Cause.lbSemovf.code))))

/-- R145, R146, R326: once the writes that they cover have landed, the signals of the iterations that a step ended are
given, and after its block's last step the chain goes on with the next block, at the one that `sq.loop` chose, or has ended
with `sq.end`; a signal past 65,535 faults LB.SEMOVF, and a failed write of the block its own cause. An engine earlier in the order
MX, VX, LD, ST that raises one of the same counts goes first. -/
def Claims.SignalsGiven : Prop :=
  ∀ (s : State) (t : TileId) (e : Eng) (i : Instr) (code : Nat) (b : Block),
    let c := s.m.ctx t
    let x := c.chain e
    let l := x.dueSig ++ signalsOf b x.due
    let ev := Instr.iterationSignal t e
    s.m.chainGoes t e = true → x.phase = .signals → x.latched = some i → i.block? = some (code, b) → e ≠ .mx → x.landsFirst = false →
    (s.m.signalsFirst t e = true → exec ev s = .next s) ∧ (s.m.signalsFirst t e = false →
    (code = 0x005 → x.outw ≠ 0 → exec ev s = .next s) ∧
    (code ≠ 0x108 → (code = 0x005 → x.outw = 0) → x.outst.1 ≠ 0 →
      exec ev s = .next { s with m := s.m.chainFault t e x.outst.2 (statusChain x.outst.1) }) ∧
    (code ≠ 0x108 → (code = 0x005 → x.outw = 0) → x.outst.1 = 0 →
      ((∀ k, (c.sem k).toNat + amountOf l k ≤ 65535) →
        ∃ s', exec ev s = .next s' ∧ ContextOnly s s' t ∧
          (∀ k, ((s'.m.ctx t).sem k).toNat = (c.sem k).toNat + amountOf l k) ∧
          s'.m.ctx t = { c with sems := (s'.m.ctx t).sems }.setChain e ((s'.m.ctx t).chain e) ∧
          ChainGoesOn x ((s'.m.ctx t).chain e) i code) ∧
      ((∃ k, 65535 < (c.sem k).toNat + amountOf l k) → ∃ s', exec ev s = .next s' ∧
        ((s'.m.ctx t).chain e).st = .faulted ∧ ((s'.m.ctx t).chain e).cause = Cause.lbSemovf.code)))

/-- R145, R383: the signals of an earlier block whose accesses have landed are given first, in the order of the blocks (log 161);
LB.SEMOVF names that block. -/
def Claims.LandedSignals : Prop :=
  ∀ (s : State) (t : TileId) (e : Eng) (j : Nat) (l : List (BitVec 5 × Nat)) (rest : List (Nat × List (BitVec 5 × Nat))),
    let c := s.m.ctx t
    let x := c.chain e
    let ev := Instr.iterationSignal t e
    x.flight = (j, l) :: rest → x.landsFirst = true →
    (s.m.signalsFirst t e = true → exec ev s = .next s) ∧
    (s.m.signalsFirst t e = false →
      ((∀ k, (c.sem k).toNat + amountOf l k ≤ 65535) →
        ∃ s', exec ev s = .next s' ∧ ContextOnly s s' t ∧
          (∀ k, ((s'.m.ctx t).sem k).toNat = (c.sem k).toNat + amountOf l k) ∧
          s'.m.ctx t = { c with sems := (s'.m.ctx t).sems }.setChain e { x with flight := rest }) ∧
      ((∃ k, 65535 < (c.sem k).toNat + amountOf l k) → ∃ (s' : State) (m : Mach), exec ev s = .next s' ∧
        s'.m = m.chainFault t e j .lbSemovf ∧ (m.thr t) = s.m.thr t ∧ ((s'.m.ctx t).chain e).st = .faulted ∧
        ((s'.m.ctx t).chain e).cause = Cause.lbSemovf.code))

/-- R130, R131, R347, R355: what becomes of the signals of an MX step that is no part of a replay. Those of `mx.mma`, `mx.azero`,
`mx.afill` and `mx.arebase` are deferred to the window's end; those of a weight load are held by its plane; those of the iterations of a
drain wait until its block completes, with its ring's too under DUP; the others are given. -/
def Claims.MxSignals : Prop :=
  ∀ (s : State) (t : TileId) (i : Instr) (code : Nat) (b : Block),
    let c := s.m.ctx t
    let x := c.mx
    let ev := Instr.iterationSignal t .mx
    let d1 := signalsOf b x.due
    let k := bits b.d15.toNat 0 0
    let load := code = 0x101 ∨ code = 0x102
    let drain := code = 0x106 ∨ code = 0x107
    let dup := (tget (false, 0) c.ext.dup b.op1.index.toNat).1 = true
    let w := if drain then addSigs c.ext.withheld (if dup then x.dueSig ++ d1 else d1) else c.ext.withheld
    let now := if load ∨ defersSignals code = true ∨ (drain ∧ dup) then [] else if drain then x.dueSig else x.dueSig ++ d1
    let l := now ++ (if x.last = true then w else [])
    s.m.chainGoes t .mx = true → x.phase = .signals → x.latched = some i → i.block? = some (code, b) → code ≠ 0x005 → code ≠ 0x108 →
    x.flight = [] → x.outst.1 = 0 → c.ext.replaying = none →
    ((∀ q, (c.sem q).toNat + amountOf l q ≤ 65535) →
      ∃ s', exec ev s = .next s' ∧ ContextOnly s s' t ∧
        (∀ q, ((s'.m.ctx t).sem q).toNat = (c.sem q).toNat + amountOf l q) ∧ ChainGoesOn x (s'.m.ctx t).mx i code ∧
        (s'.m.ctx t).store = c.store ∧ (s'.m.ctx t).acc = c.acc ∧ (s'.m.ctx t).rings = c.rings ∧ (s'.m.ctx t).acfg = c.acfg ∧
        (∀ e, e ≠ .mx → (s'.m.ctx t).chain e = c.chain e) ∧
        (s'.m.ctx t).ext.withheld = (if x.last = true then [] else w) ∧
        (s'.m.ctx t).ext.defer = (if defersSignals code = true then (c.defer1 (x.dueSig ++ d1)).ext.defer else c.ext.defer) ∧
        (load → ((s'.m.ctx t).ext.plane k).held = (c.ext.plane k).held ∧
          ((s'.m.ctx t).ext.plane k).heldWin = addSigs (c.ext.plane k).heldWin d1)) ∧
    ((∃ q, 65535 < (c.sem q).toNat + amountOf l q) → ∃ s', exec ev s = .next s' ∧ (s'.m.ctx t).mx.st = .faulted ∧
      (s'.m.ctx t).mx.cause = Cause.lbSemovf.code)

/-- R155: a chain that the fault of another chain of its tile has stopped in this very cycle records a fault of its own that comes in the
cycle; of the two the trap reports the one of the lower engine. -/
def Claims.FaultsOfOneCycle : Prop :=
  ∀ (s : State) (t : TileId) (e : Eng) (a : ATrap) (f : Nat),
    let x := (s.m.ctx t).chain e
    s.m.stoppedNow t e = true → x.latched = none → chainBlocks (s.m.chareaOf t) ≤ x.cur → x.halted = false →
    (s.m.tile t).halting = false → x.flight = [] → (s.m.thr t).asyncs = [a] → a.engAt s.m.time = some f →
    ∃ s', exec (.blockLatch t e) s = .next s' ∧ ((s'.m.ctx t).chain e).st = .faulted ∧
      ((s'.m.ctx t).chain e).cause = Cause.lbRange.code ∧
      (s'.m.thr t).asyncs = (if e.code.toNat < f then [⟨Cause.lbRange.code, true, chainTval e x.cur, 0, s.m.time⟩] else [a])

/-- R330: a non-zero STATUS of a write that the ST chain has sent faults the chain against the block that sent it; without
one nothing happens. -/
def Claims.WriteResponse : Prop :=
  ∀ (s : State) (t : TileId),
    let x := (s.m.ctx t).st
    (x.outst.1 = 0 → exec (.stWriteResponse t) s = .next s) ∧
    (x.outst.1 ≠ 0 → (s.m.tile t).halting = false → x.st = .running ∨ x.st = .ended ∨ x.st = .parked →
      ∃ s', exec (.stWriteResponse t) s = .next s' ∧ (s'.m.ctx t).st.st = .faulted ∧
        (s'.m.ctx t).st.cause = (statusChain x.outst.1).code ∧ (s'.m.ctx t).st.outst = (0, 0) ∧
        (s'.m.thr t).asyncs = addFault (s.m.thr t).asyncs
          ⟨(statusChain x.outst.1).code, true, BitVec.ofNat 64 (3 * 2 ^ 16 + x.outst.2 % 2 ^ 16), 0, s.m.time⟩)

/-- R145, R146, R155, R321, R326, R330: what stands before and after the steps of a block. -/
def Obligations.WaitsAndSignals : Prop :=
  Claims.WaitsTogether ∧ Claims.SignalsGiven ∧ Claims.LandedSignals ∧ Claims.MxSignals ∧ Claims.WriteResponse ∧ Claims.FaultsOfOneCycle

/-! ### Packets and the Herder -/

/-- R69, R70: a packet that may be dispatched now leaves its queue or instance and does its work; nothing else happens with
one that may not. -/
def Claims.PacketDispatch : Prop :=
  ∀ (s : State) (i : Instr), (hdrOf i).isSome = true →
    (∀ d, s.dispatchOf i = some d → exec i s = .next { s with m := (s.m.takePkt d i).runPkt d i }) ∧
    (s.dispatchOf i = none → exec i s = .next s)

/-- R74, R77 to R85: what the dispatch of a queue's packet does. NOP, SIGNAL, COND, TIMESTAMP, a DRAIN of its own queue, and the
packets of no work complete at once, with DEC 1 on CSIG and the vector; the others start their work. The WAITSIGs are evaluated
between a packet's two updates. COPY of overlapping ranges fails, GRAPH of a malformed object is Q.BADGRAPH, and a negative signal fails its WAITSIG. -/
def Claims.PacketResults : Prop :=
  ∀ (s : State) (d : Disp) (q : QueueId) (h : PktHdr) (pa pb : Nat),
    let m := s.m.takePkt d (.nop h)
    let completes := fun (i : Instr) (m : Mach) => m.csigAt d h pa → exec i s = .next { s with m := m.packetEnd d h (.dec 1) pa }
    let fails := fun (i : Instr) (code : Byte) => ∃ s', exec i s = .next s' ∧ s'.m.inError q d.idx code
    let starts := fun (i : Instr) (f : Mach → Prop) => ∃ s', exec i s = .next s' ∧ m.working s'.m d i h ∧ f s'.m
    d.src = .queue q →
    (s.dispatchOf (.nop h) = some d → completes (.nop h) m) ∧
    (∀ p : SignalBody, s.dispatchOf (.signal h p) = some d → m.signalAt d.part p.sig.toNat pb .atomic →
      completes (.signal h p) (m.signalled pb
        (if p.op = 0 then .dec p.val.toNat else if p.op = 1 then .inc p.val.toNat else .set p.val)).evalNowAll) ∧
    (∀ p : CondBody, s.dispatchOf (.cond h p) = some d → m.herderAt d.part (p.pred.toNat / 8 * 8) pb .read →
      let x := Memory.read m.mem pb 8
      let v := BitVec.ofNat 64 (if p.dword then x else x / 2 ^ (8 * (p.pred.toNat % 8)) % 2 ^ 32)
      completes (.cond h p)
        (if condHolds p v then m.modQueue q (fun y => { y with skip := y.skip + p.n.toNat }) else m)) ∧
    (∀ dst, s.dispatchOf (.timestamp h dst) = some d → m.herderAt d.part dst.toNat pb .write →
      completes (.timestamp h dst) { m with mem := Memory.write m.mem pb 8 m.time.toNat }) ∧
    (s.dispatchOf (.drain h false) = some d → completes (.drain h false) m) ∧
    (s.dispatchOf (.drain h true) = some d → m.earlierDone d.part m.nextWork = false →
      starts (.drain h true) (fun m' => m'.mem = m.mem)) ∧
    (∀ p : WaitBody, s.dispatchOf (.waitsig h p) = some d → p.sig0 ≠ 0 → p.sig1 = 0 → p.sig2 = 0 → p.sig3 = 0 →
      m.signalAt d.part p.sig0.toNat pb .read →
      let v := BitVec.ofNat 64 (Memory.read m.mem pb 8)
      (v.toInt < 0 → m.csigAt d h pa → fails (.waitsig h p) 3) ∧
      (0 ≤ v.toInt → v.toNat ≤ p.t0.toNat → m.csigAt d h pa →
        ∃ s', exec (.waitsig h p) s = .next s' ∧ s'.m.work m.nextWork = none ∧
          s'.m.mem = (m.packetEnd d h (.dec 1) pa).mem ∧ s'.m.irqs = (m.packetEnd d h (.dec 1) pa).irqs) ∧
      (0 ≤ v.toInt → p.t0.toNat < v.toNat → starts (.waitsig h p) (fun m' => m'.mem = m.mem))) ∧
    (∀ p : CopyBody, s.dispatchOf (.copy h p) = some d →
      (p.len = 0 → completes (.copy h p) m) ∧
      (p.len ≠ 0 → copyOverlaps p = true → (s.m.takePkt d (.copy h p)).csigAt d h pa → fails (.copy h p) 3) ∧
      (p.len ≠ 0 → copyOverlaps p = false →
        let (die, e) := m.copyEngine d.part p
        starts (.copy h p) (fun m' => m'.mem = m.mem ∧
          tget [] (m'.die die).copies e.toNat =
            tget [] (m.die die).copies e.toNat ++ [⟨m.nextWork, d.part, p, 0, 0, none, []⟩]))) ∧
    (∀ gobj param, s.dispatchOf (.graph h gobj param) = some d →
      (∀ nodes nodea patched, m.readGraph d.part gobj.toNat param.toNat = .ok (nodes, nodea, patched, m) →
        starts (.graph h gobj param) (fun m' => m'.inst m.freeInst = some
          { gobj := gobj, queue := d.queue, part := d.part, work := m.nextWork, nodes := nodes, nodea := nodea,
            patched := patched, next := 0, iters := [], ended := false, fail := none, start := m.time })) ∧
      (m.readGraph d.part gobj.toNat param.toNat = .error (none, m) → fails (.graph h gobj param) 7)) ∧
    (∀ start len die scope, s.dispatchOf (.iinvPacket h start len die scope) = some d →
      (len = 0 → completes (.iinvPacket h start len die scope) m) ∧
      (len ≠ 0 → ∃ s', exec (.iinvPacket h start len die scope) s = .next s' ∧
        ∃ w, s'.m.work m.nextWork = some w ∧ w.pkt = .iinvPacket h start len die scope ∧ w.state = .running ∧
          w.acks = if scope = 3 then [die.toNat] else [0, 1, 2, 3])) ∧
    (∀ p k, s.dispatchOf (.launch h p) = some d → m.checkKernel d.part p.kobj.toNat p.init.toNat = .ok (k, m) →
      (p.count = 0 → m.csigAt d h pa →
        let ended := (m.packetEnd d h (.dec 1) pa).evalNowAll
        (p.conf = 0 → exec (.launch h p) s = .next { s with m := ended }) ∧
        (p.conf ≠ 0 → ended.signalAt d.part p.conf.toNat pb .atomic →
          exec (.launch h p) s = .next { s with m := ended.signalled pb (.dec 1) })) ∧
      (p.count ≠ 0 → p.team ≠ 0 → (m.weights d.part p).sum ≠ 0 → p.lgid = 0 →
        starts (.launch h p) (fun m' => m'.nextLid = m.nextLid + 1 ∧
          ∃ l, m'.launch m.nextLid = some l ∧ l.part = d.part ∧ l.func = d.func ∧ l.work = m.nextWork ∧ l.kernel = k ∧
            l.first = p.first.toNat ∧ l.count = p.count.toNat ∧ l.team = p.team.toNat ∧ l.args = p.args ∧ l.conf = p.conf ∧
            l.total = p.count.toNat ∧ l.retired = 0 ∧ l.complete = false)))

/-- R69, R70, R77 to R85: which packet dispatches, and what each then does. Choices of the model: a LAUNCH with COUNT 0 (log 81), how
launch identifiers are chosen (log 109), the order in which packets are evaluated (log 110), and the CONF of a launch without items (log
112). -/
def Obligations.Packets : Prop := Claims.PacketDispatch ∧ Claims.PacketResults

/-- R67, R68, R70, R86: PACKET_FETCH reads and checks the next valid packet of a queue that has none in hand, and CIDX passes
it; a packet that does not decode is Q.BADPKT, more valid packets than the ring holds Q.OVERRUN, and one that a COND skips is
passed unread. GRAPH_NODE_DISPATCH does for the next node of a running instance what it asks for. -/
def Claims.HerderFetches : Prop :=
  ∀ (s : State) (q : QueueId) (ds : List Dword) (i : Instr),
    let x := s.m.queue q
    let ev := Instr.packetFetch q
    let gap := x.latch.toNat - x.cidx.toNat
    let becomes := fun (y : Queue) => ∃ s', exec ev s = .next s' ∧ s'.m.queue q = y ∧
      (∀ k, k ≠ q → s'.m.queue k = s.m.queue k) ∧ s' = { s with m := { s.m with queues := s'.m.queues } }
    s.herding = true →
    (x.state ≠ .active ∨ x.held.isSome = true ∨ s.m.blocked (.queue q) = true ∨ x.latch.toNat ≤ x.cidx.toNat →
      exec ev s = .next s) ∧
    (x.state = .active → x.held = none → s.m.blocked (.queue q) = false → x.cidx.toNat < x.latch.toNat →
      (2 ^ x.log2n.toNat < gap → ∃ s', exec ev s = .next s' ∧ s'.m.inError q x.erridx.toNat 8) ∧
      (gap ≤ 2 ^ x.log2n.toNat → x.skip ≠ 0 → becomes { x with skip := x.skip - 1, cidx := x.cidx + 1 }) ∧
      (gap ≤ 2 ^ x.log2n.toNat → x.skip = 0 →
        s.m.hreads x.part (x.base.toNat + 64 * (x.cidx.toNat % 2 ^ x.log2n.toNat)) 8 = .ok (ds, s.m) →
        (decodePacket ds none = some i → becomes { x with cidx := x.cidx + 1, held := some i, stall := none }) ∧
        (decodePacket ds none = none → ∃ s', exec ev s = .next s' ∧ s'.m.inError q x.cidx.toNat 1))) ∧
    (∀ (inst : BitVec 8) (y : Inst),
      s.m.inst inst.toNat = some y → s.m.nodeReady inst.toNat = true → s.m.served = some y.queue →
      s.m.readNode y = .ok (some i, s.m) →
      let d := s.m.instDisp inst.toNat y y.next
      exec (.graphNodeDispatch inst) s = .next { s with m := (s.m.takePkt d i).runPkt d i })

/-- R72 to R75, R80, R124: the end of a dispatched packet of a queue. PACKET_COMPLETE gives it DEC 1 once its work has
retired, or FAIL and its queue the error state, and does nothing while the work runs; WAITSIG_EVALUATION ends a wait whose
signal is satisfied, negative, or not so in time; LAUNCH_CONFIRMED gives CONF its DEC 1 once no contributing tile is left. -/
def Claims.PacketEnds : Prop :=
  ∀ (s : State) (n : Nat) (q : QueueId) (w : Work) (pa pb : Nat),
    let m := s.m
    let d := m.dispOf w
    (m.work n = some w → w.src = .queue q → m.instOfWork n = none → w.dropped = false →
      (m.writesOut n = false → (∀ h all, w.pkt ≠ .drain h all) →
        (w.state = .running → exec (.packetComplete n) s = .next s) ∧
        (w.state = .done → m.csigAt d w.hdr pa →
          ∃ s', exec (.packetComplete n) s = .next s' ∧ s'.m.work n = none ∧
            s'.m.mem = (m.packetEnd d w.hdr (.dec 1) pa).mem ∧ s'.m.irqs = (m.packetEnd d w.hdr (.dec 1) pa).irqs) ∧
        (∀ v, w.state = .failed v → m.csigAt d w.hdr pa → (m.queue q).state = .active →
          ∃ s', exec (.packetComplete n) s = .next s' ∧ s'.m.work n = none ∧ s'.m.inError q w.idx 3)) ∧
      (m.writesOut n = true → exec (.packetComplete n) s = .next s) ∧
      (∀ p : WaitBody, w.pkt = .waitsig w.hdr p → p.sig0 ≠ 0 → p.sig1 = 0 → p.sig2 = 0 → p.sig3 = 0 →
        m.signalAt d.part p.sig0.toNat pb .read → s.fw.boot = .ready → s.fw.upd ≠ .atBoundary → m.noteBefore n = false →
        let v := BitVec.ofNat 64 (Memory.read m.mem pb 8)
        let late := p.tmo ≠ 0 ∧ p.tmo.toNat * 1600 ≤ (m.time - w.start).toNat
        (v.toInt < 0 ∨ (p.t0.toNat < v.toNat ∧ late) → m.csigAt d w.hdr pa → (m.queue q).state = .active →
          ∃ s', exec (.waitsigEvaluation n) s = .next s' ∧ s'.m.work n = none ∧ s'.m.inError q w.idx 3) ∧
        (0 ≤ v.toInt → v.toNat ≤ p.t0.toNat → m.csigAt d w.hdr pa →
          ∃ s', exec (.waitsigEvaluation n) s = .next s' ∧ s'.m.work n = none ∧
            s'.m.mem = (m.packetEnd d w.hdr (.dec 1) pa).mem) ∧
        (0 ≤ v.toInt → p.t0.toNat < v.toNat → ¬ late →
          exec (.waitsigEvaluation n) s = .next { s with m := { m with
            evalNow := ndel n m.evalNow, evalDue := ndel n m.evalDue, noteFirst := ndel n m.noteFirst } })) ∧
      (m.noteBefore n = true → exec (.waitsigEvaluation n) s = .next s)) ∧
    (∀ (lid : Word) (l : Launch), m.launch lid = some l →
      (l.complete = true → l.conf ≠ 0 → l.tiles = [] → l.owed = [] → m.signalAt l.part l.conf.toNat pa .atomic →
        ∃ s', exec (.launchConfirmed lid) s = .next s' ∧ s'.m.mem = (m.signalled pa (.dec 1)).mem ∧
          (∀ y, s'.m.launch lid = some y → y.conf = 0)) ∧
      (l.complete = false ∨ l.conf = 0 ∨ l.tiles ≠ [] ∨ l.owed ≠ [] → exec (.launchConfirmed lid) s = .next s))

/-- R67, R68, R70 to R75, R80, R86, R124: packets come in and end. Choices of the model: ERRIDX at an overrun (log 86), how a packet not
yet read counts (log 87), and the order of evaluation (log 110). -/
def Obligations.HerderFetchesAndEnds : Prop := Claims.HerderFetches ∧ Claims.PacketEnds

/-- R79, R340: a copy engine whose job is one row of at most 4 KiB, inside one line of this package on either side, writes
the source's bytes, or the pattern's, and the packet's work is done. -/
def Claims.CopyRow : Prop :=
  ∀ (s : State) (die : DieId) (e : BitVec 2) (j : CopyJob) (r : List CopyJob) (w : Work) (pa pb : Nat) (c c' : Bool),
    let m := s.m
    let b := j.body
    let n := b.len.toNat
    let ok := fun (pa : Nat) (acc : Acc) =>
      grantOk (m.grants (paTarget pa).1 (paTarget pa).2 (masterCopy die e)) acc = true ∧ m.poisoned pa n = false
    tget [] (m.die die).copies e.toNat = j :: r → j.parked = none → j.answers = [] → j.row = 0 → j.pos = 0 →
    copyRows b = 1 → m.work j.work = some w → m.quiet →
    0 < n → n ≤ 64 → b.dst.toNat % 64 + n ≤ 64 → m.translate (.die die) j.part b.dst.toNat n .write true = .ok (.here pa) c → ok pa .write →
    (b.fill = false → b.src.toNat % 64 + n ≤ 64 ∧ m.translate (.die die) j.part b.src.toNat n .read true = .ok (.here pb) c' ∧ ok pb .read) →
    ∃ s', exec (.copyRowComplete die e) s = .next s' ∧
      s'.m.mem = Memory.writeBytes m.mem pa
        (if b.fill then (List.range n).map (fun k => b.src.extractLsb' (8 * (k % 8)) 8) else Memory.bytes m.mem pb n) ∧
      tget [] (s'.m.die die).copies e.toNat = r ∧
      s'.m.work j.work = some { w with state := .done, count := 1, low := none }

/-- R84, R99: IINV_ACKNOWLEDGE of a die drops the range's lines from the instruction caches of the clusters that list the
partition and strikes the die from those awaited, the packet's work being done with the last one; LAUNCH_GROUP_EXCHANGE keeps
a member's values for a LAUNCH to come, or strikes the member from those that a dispatched LAUNCH awaits, and fails that
LAUNCH where the values differ. -/
def Claims.Acknowledgements : Prop :=
  ∀ (s : State) (n : Nat) (die : DieId) (w : Work) (h : PktHdr) (start : BitVec 56) (len : BitVec 40) (d' : DieId)
    (scope : BitVec 3) (lgid : BitVec 16) (pkg : BitVec 12) (kobj : BitVec 56) (first count : Word) (team : BitVec 4)
    (k pa : Nat) (g : LGroup),
    let m := s.m
    let awaiting := fun (l : Launch) => l.lgid = lgid && l.await.contains pkg
    let found := m.launches.findSome? (fun x => match x.2 with
      | some l => if awaiting l then some l else none
      | none => none)
    let ev := Instr.launchGroupExchange lgid pkg kobj first count team
    (m.work n = some w → w.pkt = .iinvPacket h start len d' scope → w.acks.contains die.toNat = true → len ≠ 0 →
      ∃ s', exec (.iinvAcknowledge n die) s = .next s' ∧
        s'.m.work n = some { w with acks := w.acks.filter (· ≠ die.toNat),
                                    state := if w.acks.filter (· ≠ die.toNat) = [] then .done else w.state } ∧
        (∀ c, ClusterId.die c = die → (m.clu c).rotation.contains w.part = true →
          ∀ l ∈ (s'.m.core c).ilines, l.part = w.part →
            l.line < start.toNat / 64 ∨ (start.toNat + len.toNat - 1) / 64 < l.line) ∧
        (∀ c, ClusterId.die c ≠ die → s'.m.core c = m.core c) ∧ s'.m.mem = m.mem) ∧
    (m.work n = none → exec (.iinvAcknowledge n die) s = .next s) ∧
    (m.groupOf lgid = some (k, g) →
      (found = none → exec ev s = .next { s with m :=
        { m with groups := tput LGroup.free m.groups k { g with heard := g.heard ++ [(pkg, kobj, first, count, team)] } } }) ∧
      (∀ l, found = some l → l.retired < l.total →
        (kobj = l.kobj → first.toNat = l.first → count.toNat = l.count → team.toNat = l.team →
          ∃ s' y, exec ev s = .next s' ∧ s'.m.launch l.lid = some y ∧ y.await = l.await.filter (· ≠ pkg) ∧
            y.retired = l.retired ∧ y.complete = l.complete) ∧
        (¬ (kobj = l.kobj ∧ first.toNat = l.first ∧ count.toNat = l.count ∧ team.toNat = l.team) →
          ∀ x q, m.work l.work = some x → x.src = .queue q → (m.queue q).state = .active →
            m.csigAt (m.dispOf x) x.hdr pa →
            ∃ s', exec ev s = .next s' ∧ s'.m.work l.work = none ∧ s'.m.inError q x.idx 3)))

/-- R95, R97: TKPULL_ROUND of a slot whose threads all wait and hold no item gives every position the next team of its die's
counter: an item's index where the team has one there, else the value for none; a slot that takes no further team gives each
the value for the end. -/
def Claims.TeamRound : Prop :=
  ∀ (s : State) (c : ClusterId) (n : Nat) (sl : Slot) (l : Launch) (k : Nat) (x : Ticket),
    let m := s.m
    let gets := fun (s' : State) (t : TileId) (v : Dword) =>
      ∃ q d, (m.thr t).pull = .waiting q d ∧ (s'.m.thr t).pull = .given d v
    m.slot c n = some sl → m.launch sl.lid = some l → m.roundReady c n sl = true → sl.tiles.Nodup →
    (∀ y ∈ sl.live, m.draining y.1 = false ∧ ∃ b, (m.tile y.1).bind = some b ∧ b.item = none) →
    (sl.closing = true → ∃ s', exec (.tkpullRound c n) s = .next s' ∧
      ∀ y ∈ sl.live, gets s' y.1 0xFFFFFFFFFFFFFFFF ∧ (s'.m.thr y.1).st = .ready) ∧
    (sl.closing = false → (m.die (ClusterId.die c)).ticketOf sl.lid = some (k, x) → x.next < x.stop → l.lid = sl.lid →
      ∃ s', exec (.tkpullRound c n) s = .next s' ∧
        ((s'.m.die (ClusterId.die c)).ticketOf sl.lid).map (fun y => (y.2.next, y.2.stop)) = some (x.next + 1, x.stop) ∧
        s'.m.slot c n = some { sl with team := some x.next, closing := x.next + 1 = l.teams } ∧
        ∀ y ∈ sl.live,
          let j := x.next * l.team + y.2
          (s'.m.thr y.1).st = .ready ∧
          (j < l.count → gets s' y.1 (BitVec.ofNat 64 ((l.first + j) % 2 ^ 32)) ∧
            ∃ b, (s'.m.tile y.1).bind = some b ∧ b.item = some (BitVec.ofNat 32 (l.first + j))) ∧
          (l.count ≤ j → gets s' y.1 0xFFFFFFFFFFFFFFFE))

/-- R79, R84, R95, R97, R99, R340: copies, invalidations, launch groups, teams. Choices of the model: which clusters acknowledge (log 62),
and copies in chunks of 4 KiB (log 92). -/
def Obligations.HerderWork : Prop := Claims.CopyRow ∧ Claims.Acknowledgements ∧ Claims.TeamRound

/-! ### Registers and queues -/

/-- R66, R67, R76: CREATE of a FREE queue with a valid descriptor makes it ACTIVE and empty, Q.BADDESC otherwise; DESTROY makes an
ACTIVE or ERROR queue RETIRING, and QUEUE_RETIRED frees it once nothing of it is left; RESET makes an ERROR queue ACTIVE
behind its latch. -/
def Claims.QueueCommands : Prop :=
  ∀ (s : State) (f : FuncId) (q : QueueId),
    let m := s.m
    let x := m.queue q
    let f' := (m.holder q).getD 0
    let off := descOff m f q
    let y := match (m.func f').bound with
      | some p => if f' = 0 then x else { x with part := p }
      | none => x
    let valid := 4 ≤ y.log2n.toNat ∧ y.log2n.toNat ≤ 16 ∧ y.weight ≠ 0 ∧ y.base.toNat % (64 * 2 ^ y.log2n.toNat) = 0 ∧
      m.ownerOf y.part = f' ∧ m.heldQueues f' < 64
    let becomes := fun (i : Instr) (z : Queue) => ∃ s', exec i s = .next s' ∧ s'.m.queue q = z ∧
      (∀ k, k ≠ q → s'.m.queue k = m.queue k) ∧ s'.m.mem = m.mem ∧ s'.m.threads = m.threads ∧ s'.m.tiles = m.tiles
    (s.regOk f off (m.seesQueue f q) →
      (x.state = .free → valid → becomes (.create f q)
        { y with state := .active, cidx := 0, latch := 0, erridx := 0, errcode := 0, owner := f', held := none, skip := 0,
                 used := 0, stall := none }) ∧
      (x.state = .free → ¬ valid → becomes (.create f q) { x with errcode := 6 }) ∧
      (x.state ≠ .free → exec (.create f q) s = .next s)) ∧
    (s.regOk f off (m.seesQueue f q) →
      (x.state = .active ∨ x.state = .error → ∃ s', exec (.destroy f q) s = .next s' ∧
        (s'.m.queue q).state = .retiring ∧ (s'.m.queue q).held = none) ∧
      (x.state = .error → becomes (.reset f q)
        { x with state := .active, cidx := x.latch, errcode := 0, held := none, skip := 0 }) ∧
      (x.state ≠ .error → exec (.reset f q) s = .next s)) ∧
    (x.state = .retiring → m.worksOf (.queue q) = [] → (∀ z ∈ m.insts, ∀ i, z.2 = some i → i.queue ≠ q) →
      becomes (.queueRetired q) { Queue.reset with
        owner := f', part := ((m.holder q).bind (fun k => (m.func k).bound)).getD 0 }) ∧
    (x.state ≠ .retiring → exec (.queueRetired q) s = .next s)

/-- R49, R50, R66, R192: a notify write that covers WIDX raises the queue's latch to its value where that is the larger, and the queue
is in error with Q.OVERRUN where it then passes the ring; while an earlier posted write of the function is still to be performed it
waits. One that covers a part of WIDX is logged and dropped, the rest of the page ignores writes, and a page of no queue is logged.
Arbitration with nothing to do is gated, after 100 µs its clock and a further 10 ms later its power, and runs again once there is
something. -/
def Claims.NotifyAndGating : Prop :=
  ∀ (s : State) (f : FuncId) (page q : QueueId) (off : BitVec 12) (v : Dword) (bytes : BitVec 4),
    let m := s.m
    let x := m.queue q
    let o := 4096 * page.toNat
    let latch := if x.latch.toNat < v.toNat then v else x.latch
    (s.hostUp = true → o < notifySize f →
      (m.queueAt f page.toNat = none → exec (.widxWrite f ⟨page, off⟩ bytes v) s =
        .next { s with m := m.violation 0 (o + off.toNat) 7 ((o + off.toNat) / 65536) f.toNat true false }) ∧
      (m.queueAt f page.toNat = some q →
        (8 ≤ bytes.toNat → m.postedWaits f = false →
          (latch.toNat - x.cidx.toNat ≤ 2 ^ x.log2n.toNat ∨ x.state ≠ .active →
            ∃ s', exec (.widxWrite f ⟨page, 0⟩ bytes v) s = .next s' ∧ s'.m.queue q = { x with latch := latch } ∧
              (∀ k, k ≠ q → s'.m.queue k = m.queue k) ∧ s' = { s with m := { m with queues := s'.m.queues } }) ∧
          (2 ^ x.log2n.toNat < latch.toNat - x.cidx.toNat → x.state = .active →
            ∃ s', exec (.widxWrite f ⟨page, 0⟩ bytes v) s = .next s' ∧ s'.m.inError q x.erridx.toNat 8)) ∧
        (8 ≤ bytes.toNat → m.postedWaits f = true →
          exec (.widxWrite f ⟨page, 0⟩ bytes v) s = .next { s with m := m.postLater f (.notify q v) }) ∧
        (off.toNat < 8 → off ≠ 0 ∨ bytes.toNat < 8 → exec (.widxWrite f ⟨page, off⟩ bytes v) s =
          .next { s with m := m.violation 0 (o + off.toNat) 4 page.toNat f.toNat true false }) ∧
        (8 ≤ off.toNat → exec (.widxWrite f ⟨page, off⟩ bytes v) s = .next s))) ∧
    (let idle := fun (n : Nat) => n ≤ (m.time - m.arbSince).toNat
     (m.arb = .running → m.nothingToDo = true → idle 160000 →
       exec .arbitrationClockGate s = .next { s with m := { m with arb := .clockGated, arbSince := m.time } }) ∧
     (m.arb = .clockGated → m.nothingToDo = true → idle 16000000 →
       exec .arbitrationPowerGate s = .next { s with m := { m with arb := .powerGated, arbSince := m.time } }) ∧
     (m.nothingToDo = false ∨ ¬ idle 160000 → exec .arbitrationClockGate s = .next s) ∧
     (m.nothingToDo = false ∨ ¬ idle 16000000 → exec .arbitrationPowerGate s = .next s)) ∧
    (m.arb ≠ .running → m.nothingToDo = false → exec .arbitrationWake s = .next { s with m := { m with arb := .running } }) ∧
    (m.nothingToDo = true → exec .arbitrationWake s = .next s)

/-- R49, R50, R66, R67, R76: queue commands, notify registers, gating. Choices of the model: violations at register blocks are logged on
die 0 (log 26), how the gates count their times (log 27), WIDX of a FREE queue (log 73), and ERRIDX at an overrun (log 86). -/
def Obligations.Queues : Prop := Claims.QueueCommands ∧ Claims.NotifyAndGating

/-- R20, R44, R45, R52, R56, R129, R173, R175: what writes of registers of aperture A do. A refused one changes nothing but
the violation log. -/
def Claims.RegisterWrites : Prop :=
  ∀ (s : State) (f vf : FuncId) (off : BitVec 25) (p : PartId) (q : QueueId) (v : Dword) (w : BitVec 16),
    let m := s.m
    let fq := m.fq p
    let o := off.toNat / 8 * 8
    let fqBecomes := fun (i : Instr) (y : FQ) => ∃ s', exec i s = .next s' ∧ s'.m.fq p = y ∧
      (∀ k, k ≠ p → s'.m.fq k = m.fq k) ∧ s' = { s with m := { m with fqs := s'.m.fqs } }
    (s.hostUp = true → f = 0 → m.regVisible f o = false →
      exec (.registerWrite f off v) s = .next { s with m := m.violation 0 o 7 (o / 65536) 0 true false }) ∧
    (o = 0x100000 + 64 * q.toNat → s.regOk 0 o true → (m.queue q).state = .free →
      ∃ s', exec (.registerWrite 0 off v) s = .next s' ∧ s'.m.queue q = { m.queue q with base := v } ∧
        (∀ k, k ≠ q → s'.m.queue k = m.queue k) ∧ s' = { s with m := { m with queues := s'.m.queues } }) ∧
    (o = 0x400000 + 0x8000 * p.toNat + 0x4020 → s.regOk 0 o true → fqBecomes (.registerWrite 0 off v) { fq with invva := v }) ∧
    (s.regOk f (0x10000 + 8 * vf.toNat) (f = 0) →
      let size := if vf = 0 then 2 ^ (30 + m.barLog.toNat) else 65536
      (v.toNat % size = 0 → ∃ s', exec (.mBaseWrite f vf v) s = .next s' ∧ (s'.m.func vf) = { m.func vf with mbase := v } ∧
        (∀ k, k ≠ vf → s'.m.func k = m.func k) ∧ s' = { s with m := { m with funcs := s'.m.funcs } }) ∧
      (v.toNat % size ≠ 0 → exec (.mBaseWrite f vf v) s = .next s)) ∧
    (s.regOk 0 0xA00000 true → ∃ c, exec (.powerCapWrite 0 w) s = .next { s with pwr := { s.pwr with capSet := c } } ∧
      c.toNat = (if w.toNat < 1200 then 1200 else if 2800 < w.toNat then 2800 else w.toNat / 25 * 25)) ∧
    (s.hostUp = true → f ≠ 0 → exec (.powerCapWrite f w) s =
      .next { s with m := m.violation 0 0xA00000 3 0xA0 f.toNat true false }) ∧
    (s.regOk f (fqOff p 0x4008) (m.seesPart f p) →
      (fq.tail ≤ v.toNat → v.toNat ≤ fq.head → fqBecomes (.fqtailWrite f p v) { fq with tail := v.toNat }) ∧
      (v.toNat < fq.tail ∨ fq.head < v.toNat → fqBecomes (.fqtailWrite f p v) fq)) ∧
    (s.regOk f (fqOff p 0x4030) (m.seesPart f p) → fqBecomes (.invctlGo f p)
      (if fq.done then { fq with done := false, goVa := fq.invva, goLen := fq.invlen, dropped := false } else fq)) ∧
    (fq.done = false → ∃ s', exec (.invalidationDone p) s = .next s' ∧
      s'.m.fq p = { fq with dropped := true, done := !m.accessesLeft p } ∧ (∀ k, k ≠ p → s'.m.fq k = m.fq k) ∧
      s' = { s with m := { m with fqs := s'.m.fqs, tlbs := s'.m.tlbs } } ∧
      ∀ k e, e ∈ tget [] s'.m.tlbs k ↔ e ∈ tget [] m.tlbs k ∧
        (fq.dropped = false → e.part = p → fq.covers (e.page * pageSize e.level) (pageSize e.level) = false)) ∧
    (fq.done = true → exec (.invalidationDone p) s = .next s) ∧
    (s.regOk f 0xC20000 (f = 0) →
      exec (.drselWrite f v) s = .next { s with m := { m with drsel := BitVec.ofNat 64 (v.toNat % 1024) } }) ∧
    (s.fw.boot = .ready → ∃ x, exec .dropRecordReady s = .next { s with m := { m with drsel := x } } ∧
      x.getLsbD 63 = true ∧ ∀ k, k < 63 → x.getLsbD k = m.drsel.getLsbD k)

/-- R141, R175, R176, R419: a held record is posted at the head of its partition's queue while that holds fewer than 256; FQRES RETRY lets the chain
or thread that waits on a posted record go on, and ABORT fails its item. -/
def Claims.FaultQueue : Prop :=
  ∀ (s : State) (f : FuncId) (p : PartId) (seq : Word) (n : Nat) (t : TileId) (e : Eng) (r : List Dword) (rs : List (List Dword)),
    let m := s.m
    let fq := m.fq p
    let x := (m.ctx t).chain e
    let th := m.thr t
    let mine := fun (u : TileId) => (∃ b, (m.tile u).bind = some b ∧ b.part = p) ∧ (m.ctx u).parkedOn e n = true
    let held := fun (u : TileId) => (m.thr u).hold = some n ∧ m.partOf u = p ∧ (m.thr u).sup.isSome = true
    (fq.held = [] ∨ fq.head - fq.tail = 256 → exec (.faultRecordPost p) s = .next s) ∧
    (fq.held = r :: rs → fq.head - fq.tail ≠ 256 → ∃ s', exec (.faultRecordPost p) s = .next s' ∧
      (s'.m.fq p).head = fq.head + 1 ∧ (s'.m.fq p).held = rs ∧ tget [] (s'.m.fq p).recs (fq.head % 256) = r ∧
      (s'.m.fq p).tail = fq.tail ∧ s'.m.mem = m.mem ∧ s'.m.tiles = m.tiles ∧ s'.m.threads = m.threads) ∧
    (s.regOk f (fqOff p 0x4010) (m.seesPart f p) → 
      (fq.waiting seq = none → exec (.fqresRetry f p seq) s = .next s ∧ exec (.fqresAbort f p seq) s = .next s) ∧
      (fq.waiting seq = some (n, .chain t e) → mine t → (∀ u, u ≠ t → ¬ mine u) → x.cause ≠ Cause.glAbsent.code →
        (∃ s', exec (.fqresRetry f p seq) s = .next s' ∧ ((s'.m.ctx t).chain e).st = .running ∧
          ((s'.m.ctx t).chain e).cur = x.cur ∧ ((s'.m.ctx t).chain e).latched = x.latched ∧
          ((s'.m.ctx t).chain e).phase = x.phase ∧ (s'.m.ctx t).sems = (m.ctx t).sems ∧ s'.m.mem = m.mem) ∧
        (∃ s', exec (.fqresAbort f p seq) s = .next s' ∧ ((s'.m.ctx t).chain e).st = .faulted ∧
          ∀ u, th.sup = some u → ∃ u', (s'.m.thr t).sup = some u' ∧ u'.faulted = true ∧ u'.ended = true)) ∧
      (fq.waiting seq = some (n, .thread t) → held t → (∀ u, u ≠ t → ¬ held u) →
        (∃ s', exec (.fqresRetry f p seq) s = .next s' ∧ (s'.m.thr t).pc = th.kepc ∧ (s'.m.thr t).st = .ready ∧
          (s'.m.thr t).hold = none ∧ (s'.m.thr t).g = th.g ∧ (s'.m.thr t).kstat.extractLsb' 0 2 = th.kstat.extractLsb' 4 2 ∧
          (s'.m.thr t).kstat.getLsbD 8 = false) ∧
        (∃ s' u', exec (.fqresAbort f p seq) s = .next s' ∧ (s'.m.thr t).sup = some u' ∧ u'.faulted = true ∧ u'.ended = true)))

/-- R20, R44, R45, R52, R56, R129, R141, R173, R175, R176, R419: aperture A and the fault queue. Choices of the model: violations are
logged on die 0 (log 26), a write at an offset that is no multiple of 8 (log 126), the order of its checks (log 131), and when an
invalidation is done (log 146). -/
def Obligations.HostRegisters : Prop := Claims.RegisterWrites ∧ Claims.FaultQueue

/-! ### Mailboxes -/

/-- R36, R47, R51, R54, R92, R99, R109, R113, R157, R167: requests of the Herder mailbox that write the tables of partitions,
clusters, launch groups, rotation, leases, routes, classes and counters, with what refuses them. Choices of the model in it: which
queues BIND assigns (log 17), the refusals' codes (log 72), and what a routing entry's unused fields may hold (log 128). -/
def Obligations.TableRequests : Prop :=
  ∀ (s : State) (a b c : Dword) (bs : List Byte) (m' : Mach),
    let m := s.m
    let keeps := fun (s' : State) => s' = s
    let vf : FuncId := a.extractLsb' 0 6
    let p : PartId := a.extractLsb' 8 4
    let p0 : PartId := a.extractLsb' 0 4
    (s.asked 0x01 [a] →
      (onlyBits a 0xF3F = false ∨ vf = 0 → Acts (.bind a) s 2 [] keeps) ∧
      (onlyBits a 0xF3F = true → vf ≠ 0 →
        ((m.func vf).bound.isSome = true ∨ (∃ x ∈ m.funcs, x.2.bound = some p) → Acts (.bind a) s 3 [] keeps) ∧
        ((m.func vf).bound = none → (∀ x ∈ m.funcs, x.2.bound ≠ some p) → Acts (.bind a) s 0 [] (fun s' =>
          s'.m.func vf = { m.func vf with bound := some p, queues := m.spareQueues } ∧ (∀ k, k ≠ vf → s'.m.func k = m.func k) ∧
            (∀ q, s'.m.queue q = if q ∈ m.spareQueues then { m.queue q with part := p, owner := vf } else m.queue q) ∧
            s' = { s with m := { m with funcs := s'.m.funcs, queues := s'.m.queues } })))) ∧
    (s.asked 0x02 [a] → onlyBits a 0x3F = true → vf ≠ 0 →
      (m.heldQueues vf ≠ 0 → Acts (.unbind a) s 3 [] keeps) ∧
      (m.heldQueues vf = 0 → Acts (.unbind a) s 0 [] (fun s' =>
        s'.m.func vf = { m.func vf with bound := none, queues := [] } ∧ (∀ k, k ≠ vf → s'.m.func k = m.func k) ∧
          (∀ q ∈ (m.func vf).queues, (s'.m.queue q).state = .free) ∧
          (∀ q, q ∉ (m.func vf).queues → s'.m.queue q = m.queue q) ∧
          s' = { s with m := { m with funcs := s'.m.funcs, queues := s'.m.queues } }))) ∧
    (s.asked 0x03 [a, b] → onlyBits a 0xF = true →
      (b.toNat % 8192 ≠ 0 → Acts (.ptroot a b) s 2 [] keeps) ∧
      (b.toNat % 8192 = 0 → paRegion b.toNat = 0 → m.mapped b.toNat 8192 = true → Acts (.ptroot a b) s 0 [] (fun s' =>
        s'.m.part p0 = { m.part p0 with ptroot := b } ∧ (∀ k, k ≠ p0 → s'.m.part k = m.part k) ∧
          s' = { s with m := { m with parts := s'.m.parts } }))) ∧
    (s.asked 0x04 [a, b, c] → onlyBits a 0x1F = true → onlyBits b 0xFFFFF = true →
      (c = 0 ∨ 10000 < c.toNat → Acts (.cluster a b c) s 2 [] keeps) ∧
      (c ≠ 0 → c.toNat ≤ 10000 → (∀ q, m.hasItems q (a.extractLsb' 0 5) = false) → Acts (.cluster a b c) s 0 [] (fun s' =>
        (s'.m.clu (a.extractLsb' 0 5)).parts = b.extractLsb' 0 16 ∧ (s'.m.clu (a.extractLsb' 0 5)).valid = b.extractLsb' 16 4 ∧
          (s'.m.clu (a.extractLsb' 0 5)).slice = c.toNat ∧ s'.m.mem = m.mem))) ∧
    (s.asked 0x05 [a, b, c] → onlyBits a 0xFFFF003F = true → a.extractLsb' 16 16 = 0 → Acts (.lgroup a b c) s 0 [] (fun s' =>
      s' = { s with m := { m with groups := tput LGroup.free m.groups (bits a.toNat 5 0) LGroup.free } })) ∧
    (s.asked 0x05 [a, b, c] → onlyBits a 0xFFFF003F = true → a.extractLsb' 16 16 ≠ 0 → onlyBits b 0x1FFF1FFF = true →
      let size := bits b.toNat 12 0
      let rank := bits b.toNat 28 16
      let ids := (List.range size).map (fun k => (bs.getD (2 * k) 0).toNat + 256 * (bs.getD (2 * k + 1) 0).toNat)
      (size = 0 ∨ 4096 < size ∨ size ≤ rank → Acts (.lgroup a b c) s 2 [] keeps) ∧
      (1 ≤ size → size ≤ 4096 → rank < size →
        (m.argBytes c.toNat (2 * size) = none → Acts (.lgroup a b c) s 5 [] keeps) ∧
        (m.argBytes c.toNat (2 * size) = some (bs, m') → bs.length = 2 * size →
          ((∃ i ∈ ids, 4096 ≤ i) → Acts (.lgroup a b c) s 2 [] keeps) ∧
          ((∀ i ∈ ids, i < 4096) → Acts (.lgroup a b c) s 0 [] (fun s' => s' = { s with m := { m' with
            groups := tput LGroup.free m'.groups (bits a.toNat 5 0)
              ⟨a.extractLsb' 16 16, size, rank, ids.map (BitVec.ofNat 12), []⟩ } }))))) ∧
    (s.asked 0x06 [a, b, c] → onlyBits a 0xF = true → b.toNat % 64 = 0 → b.toNat + 1389056 * c.toNat ≤ 2 ^ 56 →
      ((m.part p0).spilled ≠ [] → Acts (.imgarea a b c) s 4 [] keeps) ∧
      ((m.part p0).spilled = [] → Acts (.imgarea a b c) s 0 [] (fun s' =>
        s'.m.part p0 = { m.part p0 with imgBase := b, imgCount := c.toNat } ∧ (∀ k, k ≠ p0 → s'.m.part k = m.part k) ∧
          s' = { s with m := { m with parts := s'.m.parts } }))) ∧
    (s.asked 0x09 [a, b] → onlyBits a 3 = true →
      let lim : Nat × Nat := if a = 0 then (50, 60000) else if a = 3 then (10000, 3600000) else (1000, 600000)
      let v := if b.toNat < lim.1 then lim.1 else if lim.2 < b.toNat then lim.2 else b.toNat
      Acts (.rotation a b) s 0 [BitVec.ofNat 64 v] (fun s' =>
        s' = { s with m := { m with periods := tput 0 m.periods a.toNat v } })) ∧
    (s.turn.via = .own → s.asked 0x0A [a] → onlyBits a 0x3FF70 = true → a.getLsbD 6 = false →
      let u := unitNamed (kindOf (bits a.toNat 5 4)) (a.extractLsb' 8 8) (a.extractLsb' 16 2)
      unitExists u = true → 
        ((m.unit u).retired = true → Acts (.lease a) s 3 [] keeps) ∧
        ((m.unit u).retired = false → (m.unit u).lease.isSome = true → Acts (.lease a) s 4 [] keeps) ∧
        (∀ n, (m.unit u).retired = false → (m.unit u).lease = none → freeLease (m.die (unitDie u)).leases 256 = some n →
          Acts (.lease a) s 0 [BitVec.ofNat 64 n] (fun s' => (s'.m.unit u).lease = some n ∧
            (let l := (tget LeaseRec.free (s'.m.die (unitDie u)).leases n).d0.toNat
             bits l 3 0 = 1 ∧ bits l 17 16 = 3 ∧ bits l 7 4 = kindCode u.kind ∧ bits l 15 8 = u.unit.toNat ∧
              bits l 39 32 = (m.unit u).score.toNat)))) ∧
    (s.asked 0x0B [a, b] → onlyBits a 0xFFF = true → onlyBits b 0xFFFFFFFF = true →
      (routeOk (b.extractLsb' 0 32).toNat = false → Acts (.route a b) s 3 [] keeps) ∧
      (routeOk (b.extractLsb' 0 32).toNat = true → Acts (.route a b) s 0 [] (fun s' =>
        (∀ d, tget 0 (s'.m.die d).routing (a.extractLsb' 0 12).toNat = b.extractLsb' 0 32) ∧
          (∀ d, s'.m.die d = { m.die d with routing := (s'.m.die d).routing }) ∧
          s' = { s with m := { m with dies := s'.m.dies } }))) ∧
    (s.turn.via = .own → s.asked 0x0C [a, b] → onlyBits a 0xFFF = true → onlyBits b 0x7F = true → Acts (.classMap a b) s 0 [] (fun s' =>
      s' = { s with m := { m with classes := tput 0 m.classes a.toNat (b.extractLsb' 0 7) } })) ∧
    (s.asked 0x0D [a, b] → onlyBits a 0x31F03 = true →
      let die : DieId := a.extractLsb' 0 2
      let n := bits a.toNat 12 8
      let y := m.die die
      let old := if a.getLsbD 17 then (tget 0 y.des n).setWidth 64 else tget 0 y.dec n
      (a.getLsbD 16 = false → Acts (.diecount a b) s 0 [old] keeps) ∧
      (a.getLsbD 16 = true → a.getLsbD 17 = false → Acts (.diecount a b) s 0 [old] (fun s' =>
        s'.m.die die = { y with dec := tput 0 y.dec n b } ∧ (∀ k, k ≠ die → s'.m.die k = m.die k) ∧
          s' = { s with m := { m with dies := s'.m.dies } })) ∧
      (a.getLsbD 16 = true → a.getLsbD 17 = true → Acts (.diecount a b) s 0 [old] (fun s' =>
        let v := bits b.toNat 7 0
        let counted := v ∈ [0x01, 0x0E, 0x0F] ∨ (0x20 ≤ v ∧ v ≤ 0x27)
        s'.m.die die = { y with des := tput 0 y.des n (if counted then BitVec.ofNat 8 v else 0) } ∧
          (∀ k, k ≠ die → s'.m.die k = m.die k) ∧ s' = { s with m := { m with dies := s'.m.dies } })))

/-- R60, R63, R64: STAGE verifies an image in the inactive bank; UPDATE begins, waits for its boundary and ends with the
standby copy taking over (the bank's invalid mark and SVN then: log 148); EXTEND chains a measurement slot from 3 on. -/
def Claims.FirmwareRequests : Prop :=
  ∀ (s : State) (a b : Dword) (i : FwImage) (bs : List Byte),
    let w := s.fw
    let bank : Bank := ⟨some (Config.parseImage bs), w.inactive.invalid⟩
    let verified := Config.falconVerify (Config.shake256 (Config.parseImage bs).bytes) (Config.parseImage bs).sig = true ∧
      w.svn.toNat ≤ (Config.parseImage bs).svn.toNat
    (s.asked 0x0E [a, b] → paRegion a.toNat ≠ 0 ∨ bankSize < b.toNat → Acts (.stage a b) s 2 [] (fun s' => s' = s)) ∧
    (s.asked 0x0E [a, b] → paRegion a.toNat = 0 → b.toNat ≤ bankSize → w.upd = .none →
      s.m.argBytes a.toNat b.toNat = some (bs, s.m) → imageFits (Config.parseImage bs) = false →
      Acts (.stage a b) s 3 [] (fun s' => s' = s)) ∧
    (s.asked 0x0E [a, b] → paRegion a.toNat = 0 → b.toNat ≤ bankSize → w.upd = .none →
      s.m.argBytes a.toNat b.toNat = some (bs, s.m) → imageFits (Config.parseImage bs) = true →
      ∃ w', (if w.preferred then w'.bank0 else w'.bank1) = bank ∧ w'.preferred = w.preferred ∧ w'.running = w.running ∧
        (verified → w'.staged = true ∧ Acts (.stage a b) s 0 [] (fun s' => s' = { s with fw := w' })) ∧
        (¬ verified → w'.staged = false ∧ Acts (.stage a b) s 3 [] (fun s' => s' = { s with fw := w' }))) ∧
    (s.asked 0x0F [] → w.upd = .none →
      (w.staged = true → w.inactive.img = some i → i.stLo ≤ Config.stateVersion w.fwver →
        Config.stateVersion w.fwver ≤ i.stHi → exec .update s = .next { s with fw := { w with upd := .asked } }) ∧
      (w.staged = false → Acts .update s 3 [] (fun s' => s' = s))) ∧
    (w.boot = .ready → w.upd = .asked → s.m.inExchange ((List.range 256).map (BitVec.ofNat 8)) = false →
      ∃ s', exec .quiescentBoundary s = .next s' ∧ s'.fw = { w with upd := .atBoundary }) ∧
    (w.boot ≠ .ready → exec .standbyTakeover s = .next s) ∧
    (w.boot = .ready → w.upd = .atBoundary → w.inactive.img = some i → exec .standbyTakeover s = .next
      { s with fw := { w.setBank (!w.preferred) ⟨some i, false⟩ with
                upd := .none, running := some i, fwver := i.fwver, preferred := !w.preferred, staged := false,
                slots := tput 0 w.slots 1 (Config.shake256 i.bytes) },
               m := { s.m with herderB := !s.m.herderB, herderBox := { s.m.herderBox with acted := some (0, [i.fwver.setWidth 64]) } } }) ∧
    (s.asked 0x10 [a, b] → onlyBits a 0xF = true →
      (a.toNat < 3 → Acts (.extend a b) s 3 [] (fun s' => s' = s)) ∧
      (3 ≤ a.toNat → s.m.argBytes b.toNat 64 = some (bs, s.m) → Acts (.extend a b) s 0 [] (fun s' =>
        let slot := Config.shake256 (toBytes 64 (tget 0 w.slots a.toNat).toNat ++ bs)
        s' = { s with fw := { w with slots := tput 0 w.slots a.toNat slot } })))

/-- R51, R53, R55: GRANT sets an entry's two bits, never taking master 128's; READ answers with a table; a code that names no
request fails with ERR 1; and completion writes RS, DSEQ, ERR and STATE, 2 for success and 3 for an error, and raises the
vector under IE, of either mailbox. -/
def Claims.AccessAndCompletion : Prop :=
  ∀ (s : State) (a b : Dword) (k i : Nat) (code err : Byte) (rs : List Dword) (mb : Mbox),
    let m := s.m
    let box := fun (m : Mach) => match mb with
      | .herder => m.herderBox
      | .access => m.accessBox
    let boxed := fun (y : Mailbox) => match mb with
      | .herder => { m with herderBox := y }
      | .access => { m with accessBox := y }
    let master := bits b.toNat 7 0
    let g : BitVec 2 := b.extractLsb' 8 2
    let acts := fun (i : Instr) (err : Byte) (rs : List Dword) (p : Mach → Prop) => ∃ m', p m' ∧
      exec i s = .next { s with m := { m' with accessBox := { m'.accessBox with acted := some (err, rs) } } }
    (s.turn.via = .own → s.firmwareUp = true → m.accessBox.asks 0x01 [a, b] = true → grantTarget a = some (k, i) → onlyBits b 0x3FF = true →
      (master = 128 ∧ g ≠ 3 → acts (.grant a b) 3 [] (fun m' => m' = m)) ∧
      (¬ (master = 128 ∧ g ≠ 3) → acts (.grant a b) 0 [] (fun m' => m'.grants k i master = g ∧
        m' = { m with access := m'.access } ∧
        ∀ k' i' j, k' < 8 → i' < 2 ^ 20 → j < 256 → k < 8 → i < 2 ^ 20 → ¬ (k' = k ∧ i' = i ∧ j = master) →
          m'.grants k' i' j = m.grants k' i' j))) ∧
    (s.firmwareUp = true → m.accessBox.asks 0x02 [a] = true → grantTarget a = some (k, i) →
      ∃ l, acts (.accessTableRead a) 0 l (fun m' => m' = m) ∧ l.length = 8 ∧
        ∀ j, j < 256 → (l.getD (j / 32) 0).extractLsb' (2 * (j % 32)) 2 = m.grants k i j) ∧
    (s.asked code.toNat [] → code = 0 ∨ 0x11 ≤ code.toNat →
      Acts (.unknownRequestCode .herder code) s 1 [] (fun s' => s' = s)) ∧
    (s.firmwareUp = true → m.accessBox.asks code.toNat [] = true → code = 0 ∨ 3 ≤ code.toNat →
      acts (.unknownRequestCode .access code) 1 [] (fun m' => m' = m)) ∧
    (s.firmwareUp = true → (box m).acted = some (err, rs) → rs.length ≤ 8 → ∃ y : Mailbox,
      (∀ n, n < 8 → tget 0 y.rs n = rs.getD n 0) ∧
      y = { box m with rs := y.rs, dseq := (box m).seq, err := err, state := if err = 0 then 2 else 3, acted := none } ∧
      exec (.mailboxCompletion mb) s = .next { s with m := if y.ie then (boxed y).irq 0 y.vec else boxed y }) ∧
    (s.firmwareUp = false ∨ (box m).acted = none → exec (.mailboxCompletion mb) s = .next s)

/-- R51, R53, R55, R60, R63, R64: firmware and access-table requests, and how a request completes. -/
def Obligations.FirmwareAndGrants : Prop := Claims.FirmwareRequests ∧ Claims.AccessAndCompletion

/-- R110, R112: EXPORT stops a partition's launches, and once nothing of it is left on tiles, in slots or in copy engines
writes its record and answers with the record's address and length, its queues being FREE; IMPORT of a record that reads and
finds its places free answers with the number of images, and refuses any other. Without a place for the record EXPORT fails with ERR 4
and the partition goes on. Choices of the model: the record's layout (log 25), the refusals' codes (log 72), and the numbers an imported
partition gets (log 140). -/
def Obligations.ExportImport : Prop :=
  ∀ (s : State) (a b : Dword) (n : Nat) (r : ExportRec),
    let m := s.m
    let p : PartId := a.extractLsb' 0 4
    let m1 := m.stopPart p true
    let images := r.images.map (fun x => (x.1, m.getImage p x.1 x.2))
    (s.asked 0x07 [a] → onlyBits a 0xF = true →
      (m1.exportBusy p = true → exec (.exportPart a) s = .next { s with m := m1 }) ∧
      (m1.exportBusy p = false → m1.freePlace p = none → Acts (.exportPart a) s 4 []
        (fun s' => s' = { s with m := if nhas m.exports p.toNat then m1 else (m1.stopPart p false).sched })) ∧
      (m1.exportBusy p = false → m1.freePlace p = some n →
        Acts (.exportPart a) s 0 [BitVec.ofNat 64 ((m.part p).imgBase.toNat + 1389056 * n),
            BitVec.ofNat 64 (Config.writeRecord (m1.exportRec p)).length]
          (fun s' => (∀ x ∈ (m1.exportRec p).queues, (s'.m.queue (BitVec.ofNat 10 x.1)).state = .free) ∧
            (s'.m.part p).spilled = [] ∧ nhas s'.m.exports p.toNat = true))) ∧
    (s.asked 0x08 [a, b] → onlyBits a 0xF = true → b.toNat < 2 ^ 56 → m.quiet →
      (Config.readRecord (m.readVa p b.toNat 1389056) = none → Acts (.importPart a b) s 3 [] (fun s' => s' = s)) ∧
      (Config.readRecord (m.readVa p b.toNat 1389056) = some r →
        (m.importRoom p r = false ∨ (∃ x ∈ images, x.2.level ≠ 1) → Acts (.importPart a b) s 3 [] (fun s' => s' = s)) ∧
        (m.importRoom p r = true → (∀ x ∈ images, x.2.level = 1) →
          Acts (.importPart a b) s 0 [BitVec.ofNat 64 r.images.length] (fun s' => (s'.m.part p).exported = false))))

/-! ### The host, power, boot and the management port -/

/-- R44, R52, R138, R174, R192: an access of aperture M on one page reads or writes the device memory or host memory it maps where
the function's table grants it; poison, a missing grant, a translation that fails and an unmapped address are answered as
their rules say, and a refused write changes nothing but the log or the fault queue. A write waits while an earlier posted one of its
function is still to be performed. (A page of another package: log 5.) Choices of the model: the die that logs (log 26), how a posted
write that leaves the die is waited for (log 130), and the order of grant and mapping (log 131). -/
def Obligations.HostMemory : Prop :=
  ∀ (s : State) (f : FuncId) (off : Dword) (bytes : BitVec 13) (data : List Byte) (pa : Nat) (c : Bool) (w : WalkFail),
    let m := s.m
    let va := (m.func f).mbase.toNat + off.toNat
    let m1 := m.walkM f va
    let k := paTarget pa
    let rd := Instr.hostMemoryRead f ⟨.m, off⟩ bytes
    let wr := Instr.hostMemoryWrite f off data
    let to_ := fun (i : Instr) (m' : Mach) => exec i s = .next { s with m := m' }
    (s.hostUp = false → to_ rd m ∧ to_ wr m) ∧
    (s.hostUp = true → bytes ≠ 0 → bytes.toNat ≤ 4096 → off.toNat + bytes.toNat ≤ m.apertureSize f →
      Completes (exec rd s) ∧
      (bytes.toNat ≤ pageLeft va →
        (m.apertureM f va bytes.toNat .read = some (.ok (.here pa) c) →
          (grantOk (m.grants k.1 k.2 f.toNat) .read = true → m.quiet →
            to_ rd (m.answer (if m.poisoned pa bytes.toNat then .poisoned else .data (Memory.bytes m.mem pa bytes.toNat)))) ∧
          (grantOk (m.grants k.1 k.2 f.toNat) .read = false →
            to_ rd ((m1.violation (paDie pa) pa k.1 k.2 f.toNat false false).hostAnswer f .unsupported))) ∧
        (m.apertureM f va bytes.toNat .read = some (.ok (.host pa) c) →
          to_ rd (m1.answer (.data (Memory.bytes m.hostMem pa bytes.toNat)))) ∧
        (m.apertureM f va bytes.toNat .read = some (.bad w) → to_ rd ((m1.hostFault f va w).hostAnswer f .unsupported)) ∧
        (m.apertureM f va bytes.toNat .read = none →
          to_ rd ((m.violation 0 off.toNat 7 (off.toNat / 65536) f.toNat false false).answer
            (.data (List.replicate bytes.toNat 0)))))) ∧
    (s.hostUp = true → data ≠ [] → data.length ≤ 4096 → off.toNat + data.length ≤ m.apertureSize f →
      Completes (exec wr s) ∧
      (data.length ≤ pageLeft va → m.postedWaits f = true → to_ wr (m.postLater f (.mem off.toNat data))) ∧
      (data.length ≤ pageLeft va → m.postedWaits f = false →
        (m.apertureM f va data.length .write = some (.ok (.here pa) c) →
          (grantOk (m.grants k.1 k.2 f.toNat) .write = true → m.quiet → ∃ m', to_ wr m' ∧
            m'.mem = Memory.writeBytes m.mem pa data ∧ m' = { m with mem := m'.mem, poisS := m'.poisS, poisW := m'.poisW }) ∧
          (grantOk (m.grants k.1 k.2 f.toNat) .write = false →
            to_ wr (m1.violation (paDie pa) pa k.1 k.2 f.toNat true false))) ∧
        (m.apertureM f va data.length .write = some (.ok (.host pa) c) →
          to_ wr { m1 with hostMem := Memory.writeBytes m.hostMem pa data }) ∧
        (m.apertureM f va data.length .write = some (.bad w) → to_ wr (m1.hostFault f va w)) ∧
        (m.apertureM f va data.length .write = none →
          to_ wr (m.violation 0 off.toNat 7 (off.toNat / 65536) f.toNat true false))))

/-- R19, R20, R21: the throttle step after a window, an over-current or a temperature alert; a new cap applies from the next
window; at 115 °C everything but flash and the standby domain is lost. Choices of the model: what a trip keeps (log 37), and which of two
rules goes first at a window's end (log 122). -/
def Obligations.PowerAndTemperature : Prop :=
  ∀ (s : State) (die : DieId) (temp : Byte) (pavg proj : BitVec 16),
    let p := s.pwr
    p.tripped = false →
      (temp.toNat < 115 → exec (.thermalTrip die temp) s = .next s) ∧
      (115 ≤ temp.toNat → ∃ s', exec (.thermalTrip die temp) s = .next s' ∧ s'.pwr.tripped = true ∧
        s'.pwr.cause = some (die, temp) ∧ s'.m.mem = [] ∧ s'.m.threads = [] ∧ s'.m.tiles = [] ∧ s'.m.queues = [] ∧
        s'.m.parts = [] ∧ s'.m.hostMem = s.m.hostMem ∧ s'.fw.boot = .rom ∧ s'.fw.slots = [] ∧ s'.fw.bank0 = s.fw.bank0 ∧
        s'.fw.bank1 = s.fw.bank1 ∧ s'.fw.preferred = s.fw.preferred ∧ s'.fw.svn = s.fw.svn ∧
        s'.fw.dropsFlash = s.fw.dropsFlash ∧ s'.fw.retiredFlash = s.fw.retiredFlash) ∧
      exec .regulatorOvercurrent s = .next { s with pwr := { p with tstep := 3, held := 0 } } ∧
      (temp.toNat < 95 → exec (.junctionTempAlert temp) s = .next s) ∧
      (95 ≤ temp.toNat → ∃ h, exec (.junctionTempAlert temp) s =
        .next { s with pwr := { p with tmax := temp, tstep := if p.tstep.toNat < 2 then 2 else p.tstep, held := h } }) ∧
      (let step := p.tstep.toNat
       let n := if p.pcap.toNat < pavg.toNat then
            (if step = 0 then 1 else if step < 3 ∧ 2 ≤ p.held + 1 then step + 1 else step)
          else if step ≠ 0 ∧ proj.toNat < p.pcap.toNat ∧ temp.toNat < 90 then step - 1 else step
       let n := if 95 ≤ temp.toNat ∧ n < 2 then 2 else n
       exec (.throttleWindowEnd pavg proj temp) s = .next { s with pwr := { p with
        pavg := pavg, tmax := temp, pcap := p.capSet, tstep := BitVec.ofNat 2 n, held := if n = step then p.held + 1 else 0 } })

/-- R42, R43, R44, R60, R61, R62: the port trains; configuration requests get Retry Status until READY, and then read or write their
register, the size of aperture M among them; the ROM starts the preferred bank's
image, else the other's, if it verifies, measures it, and enters RECOVERY where neither does; boot completes with the links
trained, trap firmware loaded and the security version raised; a stopped Herder raises an alert; RECOVERY takes one image that fits a bank, with main power off too, where neither bank verifies. -/
def Claims.BootAndRecovery : Prop :=
  ∀ (s : State) (gen : BitVec 3) (lanes : BitVec 5) (f : FuncId) (r : CfgReg) (wr : Option Dword) (i : FwImage) (bank : Option Bool),
    let w := s.fw
    let first := if w.preferred then w.bank1 else w.bank0
    let second := if w.preferred then w.bank0 else w.bank1
    let ok := fun (i : FwImage) => Config.falconVerify (Config.shake256 i.bytes) i.sig = true ∧ w.svn.toNat ≤ i.svn.toNat
    let good := fun (b : Bank) (i : FwImage) => b.img = some i ∧ ok i
    let bad := fun (b : Bank) => ∀ i, ¬ good b i
    let chain := fun (n : Nat) (d : List Byte) => Config.shake256 (toBytes 64 (tget 0 w.slots n).toNat ++ d)
    (s.pwr.tripped = false → 5 ≤ gen.toNat → lanes ∈ [4, 8, 16] →
      exec (.perstDeassert gen lanes) s = .next { s with fw := { w with pcieTrained := some (gen, lanes) } }) ∧
    (w.pcieTrained = none → exec (.pcieConfigRequest ⟨f, r, wr⟩) s = .next s) ∧
    (w.pcieTrained ≠ none →
      let cfg := fun (m' : Mach) => exec (.pcieConfigRequest ⟨f, r, wr⟩) s = .next { s with m := m' }
      (w.boot ≠ .ready → w.boot ≠ .stopped → cfg (s.m.answer .retryStatus)) ∧
      (w.boot = .ready ∨ w.boot = .stopped →
        (wr = none → cfg (s.m.answer (.data (toBytes 8 (s.m.cfgRead f r).toNat)))) ∧
        (∀ v, wr = some v → cfg ((s.m.cfgWrite f r v).answer .configDone)))) ∧
    (∀ v : Dword, 10 ≤ bits v.toNat 13 8 → bits v.toNat 13 8 ≤ 20 →
      (s.m.cfgWrite 0 .rebarControl v).apertureSize 0 = 2 ^ (20 + bits v.toNat 13 8)) ∧
    (w.boot = .rom → s.pwr.tripped = false →
      ((if first.invalid then good second i ∨ (bad second ∧ good first i) else good first i ∨ (bad first ∧ good second i)) →
        ∃ s', exec .powerOnBoot s = .next s' ∧
          s'.fw = { w with boot := .booted, running := some i, fwver := i.fwver, slots := s'.fw.slots } ∧ s'.m.herderB = false ∧
          tget 0 s'.fw.slots 0 = chain 0 (toBytes 64 Config.romDigest.toNat) ∧
          tget 0 s'.fw.slots 1 = chain 1 (toBytes 64 (Config.shake256 i.bytes).toNat) ∧
          (∀ n, 2 ≤ n → tget 0 s'.fw.slots n = tget 0 w.slots n) ∧
          (∀ k ∈ w.retiredFlash, (s'.m.unit (keyUnit k)).retired = true) ∧ s'.m.mem = s.m.mem) ∧
      (bad first → bad second → exec .powerOnBoot s = .next { s with fw := { w with boot := .recovery } })) ∧
    (w.boot = .booted → w.running = some i → ∃ s', exec .bootComplete s = .next s' ∧ s'.fw.boot = .ready ∧
      s'.fw.svn = (if w.svn.toNat < i.svn.toNat then i.svn else w.svn) ∧
      tget 0 s'.fw.slots 2 = chain 2 (toBytes 64 Config.trapDigest.toNat) ∧
      (∀ n, n ≠ 2 → tget 0 s'.fw.slots n = tget 0 w.slots n) ∧ s'.m.pfGranted = true ∧ s'.m.pkg = Config.pkgId ∧
      (∀ t, (s'.m.thr t).ktvec = Config.ktvec t ∧ (s'.m.thr t).kscratch = Config.kscratch t) ∧
      (∀ k, k < 12 → s.m.onLease (moduleUnit k) = false → (tget Link.reset s.m.modules k).st = .down →
        (tget Link.reset s'.m.modules k).st = .active) ∧ s'.m.mem = s.m.mem) ∧
    (w.boot = .ready → exec .herderStop s = .next { s with fw := { w with boot := .stopped, alerts := w.alerts ++ [0x61] } }) ∧
    (s.heard = false → exec (.recoveryImage bank i) s = .next s) ∧
    (s.heard = true → s.recovering = false → exec (.recoveryImage bank i) s = .next { s with m := s.m.answer .notReady }) ∧
    (w.boot = .recovery → s.recovering = true) ∧ (s.pwr.tripped = true → bad first → bad second → s.recovering = true) ∧
    (s.heard = true → s.recovering = true → imageFits i = false → exec (.recoveryImage bank i) s = .next { s with m := s.m.answer .error }) ∧
    (s.heard = true → s.recovering = true → imageFits i = true →
      let one := bank = some true
      (ok i → ∃ s', exec (.recoveryImage bank i) s = .next s' ∧ s'.fw.preferred = decide one ∧
        (if one then s'.fw.bank1 else s'.fw.bank0) = ⟨some i, false⟩ ∧
        (if one then s'.fw.bank0 = w.bank0 else s'.fw.bank1 = w.bank1) ∧
        (s.pwr.tripped = false → s'.fw.boot = .rom ∧ s'.m.mem = []) ∧
        (s.pwr.tripped = true → s'.fw.boot = w.boot ∧ s'.pwr = s.pwr ∧ s'.m = s.m.answer .done)) ∧
      (¬ ok i → ∃ s', exec (.recoveryImage bank i) s = .next s' ∧ s'.fw.boot = w.boot ∧
        s'.fw.preferred = w.preferred ∧ (if one then s'.fw.bank1 else s'.fw.bank0) = ⟨some i, true⟩ ∧
        (if one then s'.fw.bank0 = w.bank0 else s'.fw.bank1 = w.bank1) ∧ s'.m = s.m.answer .error))

/-- R48, R51, R59: a warm reset loses the partitions and keeps memory; a cold one is a power cycle that keeps flash; a function-level
reset destroys the function's queues; once no launch of its partition runs, or 90 ms later with what still runs discarded, and once
its packets have signalled, it returns the function's registers to reset and keeps its binding. -/
def Claims.Resets : Prop :=
  ∀ (s : State) (f : FuncId) (t : Dword) (p : PartId),
    let w := s.fw
    let m := s.m
    (s.heard = true → w.boot ≠ .recovery → s.pwr.tripped = false → w.running ≠ none → ∃ s', exec .warmReset s = .next s' ∧
      s'.fw = { w with boot := .booted, upd := .none, staged := false } ∧ s'.m.herderB = false ∧ s'.pwr = s.pwr ∧
      s'.m.queues = [] ∧ s'.m.parts = [] ∧ s'.m.launches = [] ∧ s'.m.works = [] ∧ s'.m.slots = [] ∧ s'.m.clusters = [] ∧
      (∀ u, (s'.m.tile u).bind = none ∧ (s'.m.thr u).sup = none ∧ (s'.m.tile u).service = (m.tile u).service) ∧
      s'.m.mem = m.mem ∧ s'.m.hostMem = m.hostMem ∧ s'.m.modules = m.modules ∧ s'.m.ports = m.ports ∧
      s'.m.units = m.units ∧ s'.m.answers = .done :: m.answers) ∧
    (s.heard = true → w.boot ≠ .recovery → s.pwr.tripped = false → w.running = none →
      exec .warmReset s = .next { s with m := m.answer .notReady }) ∧
    (s.heard = true → w.boot ≠ .recovery → ∃ s', exec .coldReset s = .next s' ∧ s'.pwr = Power.reset ∧ s'.fw.boot = .rom ∧
      s'.fw.bank0 = w.bank0 ∧ s'.fw.bank1 = w.bank1 ∧ s'.fw.preferred = w.preferred ∧ s'.fw.svn = w.svn ∧ s'.fw.slots = [] ∧
      s'.fw.retiredFlash = w.retiredFlash ∧ s'.fw.dropsFlash = w.dropsFlash ∧ s'.fw.dropsHeld = [] ∧ s'.m.mem = [] ∧
      s'.m.threads = [] ∧ s'.m.tiles = [] ∧ s'.m.parts = [] ∧ s'.m.withheld = w.withheldFlash ∧
      s'.m.answers = .done :: m.answers) ∧
    (s.hostUp = false ∨ f = 0 ∨ (m.func f).flr ≠ none → exec (.functionLevelReset f) s = .next s) ∧
    (s.hostUp = true → f ≠ 0 → (m.func f).flr = none → ∃ s', exec (.functionLevelReset f) s = .next s' ∧
      (s'.m.func f).flr = some m.time ∧ (s'.m.func f).bound = (m.func f).bound ∧ s'.m.access = m.access ∧
      (∀ q, (m.queue q).owner = f → (m.queue q).state = .active ∨ (m.queue q).state = .error →
        (s'.m.queue q).state = .retiring)) ∧
    (let ended := fun (s' : State) =>
       s'.m.func f = { s'.m.func f with flr := none, mbase := 0, msixTable := [], msixPending := 0, cfg := PciCfg.reset, posted := [] } ∧
         (s'.m.func f).bound = (m.func f).bound ∧ s'.m.access = m.access
     ((m.func f).flr = none → exec (.flrTimeout f) s = .next s) ∧
     ((m.func f).flr = some t →
       ((m.func f).bound = none ∨ ((m.func f).bound = some p ∧ ∀ l ∈ m.launchesOf p, l.complete = true) →
         (m.packetsOut f = true → exec (.flrTimeout f) s = .next s) ∧
         (m.packetsOut f = false →
           ∃ s', exec (.flrTimeout f) s = .next s' ∧ ended s' ∧ s' = { s with m := { m with funcs := s'.m.funcs } })) ∧
       ((m.func f).bound = some p → (∃ l ∈ m.launchesOf p, l.complete = false) →
         ((m.time - t).toNat < 144000000 → exec (.flrTimeout f) s = .next s) ∧
         (144000000 ≤ (m.time - t).toNat → ∃ s', exec (.flrTimeout f) s = .next s' ∧ (s'.m.part p).spilled = [] ∧
           ((m.discardItems p).packetsOut f = true → (s'.m.func f).flr = some t) ∧
           ((m.discardItems p).packetsOut f = false → ended s')))))

/-- R42, R43, R48, R51, R59 to R62: boot, RECOVERY, and the three resets. Choices of the model: a warm reset's boot (log 35), the reset of
the physical function (log 36), the alert codes (log 99), what a reset loses that no rule names (log 108), the layout of configuration
space (log 124), and recovery while main power is off (log 129). -/
def Obligations.BootAndResets : Prop := Claims.BootAndRecovery ∧ Claims.Resets

/-- R16, R17, R20, R36, R51, R53, R59, R63, R65, R113, R123: what the management port answers and does; a function that the power state
does not offer is answered not ready without effect, and so is one that Herder firmware would carry out while none runs. One that
firmware carries out waits at an update's boundary and for a mailbox request that conflicts with it (which ones: log 127). Further choices
of the model: what live data is (log 29), other lengths of the attestation requests (log 30), a cold reset in RECOVERY (log 38), the
entries a repair clears (log 121), a routing entry's unused fields (log 128), when requests of firmware's are answered (log 133), and who
is heard over PCIe (log 134). -/
def Obligations.ManagementPort : Prop :=
  ∀ (s : State) (v : BitVec 16) (img : FwImage) (die : DieId) (rank : RankId) (idx : BitVec 4) (pkg : BitVec 12) (e : Word)
      (b : Bool) (u : UnitId) (seg : BitVec 16) (nonce : BitVec 256) (rec : BitVec 10) (code : Byte) (len : BitVec 16) (x y : Dword),
    let m := s.m
    let answers := fun (i : Instr) (a : Answer) => exec i s = .next { s with m := m.answer a }
    let mainPower := [Instr.mgmtPowerCapSet v, .warmReset, .leaseTableReadout die, .getMeasurements nonce v]
    let bothPower := [Instr.sensorRead, .getIdentity seg, .getDropRecord rec]
    let byFirmware := [Instr.knownBadTableWrite rank idx v, .maintenanceWindow rank b, .unitReturnRequest u,
      .routingTableRequest pkg e] ++ (if s.turn.via = .own then [] else [.lease x, .classMap x y, .grant x y])
    (s.heard = false → ∀ i ∈ mainPower ++ bothPower ++ byFirmware ++ [.coldReset, .firmwareStaging img], exec i s = .next s) ∧
    ((code.toNat, len.toNat) ∈ [(1, 2), (2, 34), (3, 2)] → exec (.unknownAttestationCode code len) s = .next s) ∧
    (s.fw.upd ≠ .none ∨ m.mailBusy [0x0E, 0x0F] = true → exec (.firmwareStaging img) s = .next s) ∧
    (s.fw.boot = .ready → s.fw.upd = .atBoundary → ∀ i ∈ byFirmware, exec i s = .next s) ∧
    (s.fw.boot = .ready → m.mailBusy [0x0B] = true → exec (.routingTableRequest pkg e) s = .next s) ∧
    (s.heard = true →
      (s.fw.boot = .recovery → ∀ i ∈ mainPower ++ bothPower ++ [.coldReset], answers i .notReady) ∧
      (s.fw.boot = .recovery → s.fw.upd = .none → m.mailBusy [0x0E, 0x0F] = false → answers (.firmwareStaging img) .notReady) ∧
      (s.fw.boot ≠ .recovery → s.pwr.tripped = true → ∀ i ∈ mainPower, answers i .notReady) ∧
      (s.fw.boot ≠ .ready → ∀ i ∈ byFirmware, answers i .notReady) ∧
      (s.fw.boot ≠ .recovery →
        answers .sensorRead (.sensors (if s.pwr.tripped then 0 else s.pwr.pavg) s.pwr.capSet s.pwr.tmax s.pwr.tstep s.pwr.cause) ∧
        answers (.getIdentity seg) (.data (((toBytes 1793 Config.identityKey.toNat ++
          Config.certificate Config.identityKey Config.fusedSerial).drop (1024 * seg.toNat)).take 1024)) ∧
        answers (.getDropRecord rec) (let r := tget ⟨0, []⟩ s.fw.dropsFlash rec.toNat
          if r.bytes = [] then .error else .data r.bytes) ∧
        ((code.toNat, len.toNat) ∉ [(1, 2), (2, 34), (3, 2)] → answers (.unknownAttestationCode code len) .error) ∧
        (s.fw.upd = .none → m.mailBusy [0x0E, 0x0F] = false →
          (imageFits img = false → answers (.firmwareStaging img) .error) ∧
          (imageFits img = true → ∃ s', exec (.firmwareStaging img) s = .next s' ∧
            (if s.fw.preferred then s'.fw.bank0 else s'.fw.bank1) = ⟨some img, s.fw.inactive.invalid⟩ ∧
            (let ok := Config.falconVerify (Config.shake256 img.bytes) img.sig = true ∧ s.fw.svn.toNat ≤ img.svn.toNat
             s'.fw.staged = decide ok ∧ s'.m = m.answer (if ok then .done else .error)) ∧
            s'.fw.running = s.fw.running ∧ s'.fw.preferred = s.fw.preferred))) ∧
      (s.fw.boot ≠ .recovery → s.pwr.tripped = false →
        (∃ c, exec (.mgmtPowerCapSet v) s = .next { s with m := m.answer .done, pwr := { s.pwr with capSet := c } } ∧
          c.toNat = (if v.toNat < 1200 then 1200 else if 2800 < v.toNat then 2800 else v.toNat / 25 * 25)) ∧
        (grantOk (m.grants 3 0xC0 129) .read = true → ∃ l, answers (.leaseTableReadout die) (.data l) ∧ l.length = 8192 ∧
          ∀ n, n < 256 → let r := tget LeaseRec.free (m.die die).leases n
            (l.drop (32 * n)).take 32 = [r.d0, r.tstart, r.tend, r.synd].flatMap (fun d => toBytes 8 d.toNat)) ∧
        (grantOk (m.grants 3 0xC0 129) .read = false → exec (.leaseTableReadout die) s =
          .next { s with m := (m.violation 0 0xC00000 3 0xC0 129 false false).answer .denied }) ∧
        answers (.getMeasurements nonce v) (.data
          (let body := ((List.range 16).filter (fun k => v.getLsbD k)).flatMap (fun k => toBytes 64 (tget 0 s.fw.slots k).toNat) ++
              toBytes 4 s.fw.fwver.toNat ++ toBytes 4 s.fw.svn.toNat ++ toBytes 32 nonce.toNat
           body ++ (Config.falconSign (Config.shake256 body) ++ List.replicate 1280 0).take 1280))) ∧
      (s.fw.boot = .ready → s.fw.upd ≠ .atBoundary → s.pwr.tripped = false →
        (rank.ch.toNat < 96 → bits v.toNat 14 8 = 0 → bits v.toNat 6 0 < 72 →
          exec (.knownBadTableWrite rank idx v) s =
            .next { s with m := { m with knownBad := tput 0 m.knownBad (rankKey rank + idx.toNat) v }.answer .done }) ∧
        (96 ≤ rank.ch.toNat ∨ bits v.toNat 14 8 ≠ 0 ∨ 72 ≤ bits v.toNat 6 0 → answers (.knownBadTableWrite rank idx v) .error) ∧
        (m.mailBusy [0x0B] = false →
          (routeOk e.toNat = false → answers (.routingTableRequest pkg e) .error) ∧
          (routeOk e.toNat = true → ∃ s', exec (.routingTableRequest pkg e) s = .next s' ∧
            (∀ d, tget 0 (s'.m.die d).routing pkg.toNat = e) ∧
            (∀ d, s'.m.die d = { m.die d with routing := (s'.m.die d).routing }) ∧ s'.m.answers = .done :: m.answers)) ∧
        (s.turn.via ≠ .own →
          let asks := fun (i : Instr) (busy : Bool) (r : Except Byte (List Dword × Mach)) =>
            if busy then exec i s = .next s
            else match r with
              | .ok (_, m') => exec i s = .next { s with m := m'.answer .done }
              | .error _ => answers i .error
          asks (.lease x) (m.mailBusy [0x0A]) (m.leaseReq x) ∧ asks (.classMap x y) (m.mailBusy [0x0C]) (m.classReq x y) ∧
            asks (.grant x y) (m.accessBusy [0x01]) (m.grantReq x y)) ∧
        (m.liveOn rank.die = true ∨ 96 ≤ rank.ch.toNat → answers (.maintenanceWindow rank b) .error) ∧
        (m.liveOn rank.die = false → rank.ch.toNat < 96 →
          (∃ s', exec (.maintenanceWindow rank true) s = .next s' ∧
            s' = { s with m := { m.answer .done with knownBad := s'.m.knownBad } } ∧
            (∀ k, k < 16 → tget 0 s'.m.knownBad (rankKey rank + k) = 0) ∧
            (∀ k, k < rankKey rank ∨ rankKey rank + 16 ≤ k → tget 0 s'.m.knownBad k = tget 0 m.knownBad k)) ∧
          (∃ s', exec (.maintenanceWindow rank false) s = .next s' ∧ s'.m = m.answer .error ∧
            nhas s'.fw.withheldFlash (rank.die.toNat * 96 + rank.ch.toNat) =
              ((m.unit ⟨.channel, rank.die, BitVec.ofNat 8 rank.ch.toNat⟩).retired ||
                nhas s.fw.withheldFlash (rank.die.toNat * 96 + rank.ch.toNat)))) ∧
        (unitExists u = false ∨ (m.unit u).retired = false → answers (.unitReturnRequest u) .error) ∧
        (unitExists u = true → (m.unit u).retired = true → ∃ s', exec (.unitReturnRequest u) s = .next s' ∧
          (s'.m.unit u).retired = false ∧ (u.kind = .tile → (s'.m.tile u.unit).service = .inService) ∧
          s'.fw.dropsHeld.length = s.fw.dropsHeld.length + 1 ∧
          s'.fw.dropSeq = s.fw.dropSeq + 1 ∧ s'.m.answers = .done :: m.answers)))

/-! ### Links -/

/-- R25, R26, R28, R29, R30, R31: what a receiver does with a flit. A good DATA flit with the expected number is delivered
and acknowledged, a duplicate only acknowledged, any other and a bad one answered with one NAK; a good IDLE flit gives its
credits and its AK, which frees held flits and, as a NAK or as the first after training, replays the rest. A report that is due
overtakes no NAK. Any flit on a link that is not live is lost. -/
def Claims.FlitsReceived : Prop :=
  ∀ (s : State) (l : LinkEnd) (f h : Flit),
    let m := s.m
    let x := m.side l
    let i := if f.data then Instr.dataFlitReceive l f else .idleFlitReceive l f
    let arrives := l.valid = true ∧ (m.linkAt l).live = true ∧
      (l.fabric = true ∨ ∃ g r, (m.side l.opposite).wire = g :: r ∧ (f.good = false ∨ f = g))
    let bad := f.good = false ∨ f.ak = 3 ∨ l.flitSlots < flitUsed f ∨ (f.data = false ∧ f.msgs ≠ [])
    let gets := fun (p : LEnd → Prop) => ∃ s', exec i s = .next s' ∧ p (s'.m.side l) ∧
      (l.fabric = false → (s'.m.side l.opposite).wire = (m.side l.opposite).wire.drop 1 ∨ (m.linkAt l).st ≠ (s'.m.linkAt l).st) ∧
      s'.m.mem = m.mem ∧ s'.m.threads = m.threads ∧ s'.m.tiles = m.tiles
    let due := fun (ak : BitVec 2) (n : BitVec 10) => x.reports.filter (fun r => r.1 = 2) ++ [(ak, n)]
    let nak := if x.nakPending then gets (fun y => y = x)
      else gets (fun y => y.reports = due 2 (x.e - 1) ∧ y.nakPending = true ∧ y.e = x.e ∧ y.buf = x.buf ∧ y.held = x.held)
    let back := fun (c : Nat) => if c = 0 then f.crq else if c = 1 then f.crs else if c = 2 then f.crg else f.crm
    (l.valid = false ∨ (m.linkAt l).live = false → exec i s = .next s) ∧
    (arrives → bad → nak) ∧
    (arrives → ¬ bad → f.data = true →
      (f.seq = x.e → (∀ k ∈ f.msgs, msgBad k = false) → gets (fun y => y.buf = x.buf ++ f.msgs ∧ y.e = x.e + 1 ∧
        y.reports = due 1 x.e ∧ y.nakPending = false ∧
        ∀ c, c < 4 → tget 0 y.credits c = tget 0 x.credits c - (back c).toNat)) ∧
      (f.seq ≠ x.e → (x.e - f.seq).toNat ≤ l.window → gets (fun y => y.buf = x.buf ∧ y.e = x.e ∧ y.reports = due 1 (x.e - 1))) ∧
      (f.seq ≠ x.e → l.window < (x.e - f.seq).toNat → nak)) ∧
    (arrives → ¬ bad → f.data = false →
      gets (fun y => y.buf = x.buf ∧ y.e = x.e ∧ ∀ c, c < 4 → tget 0 y.credits c = tget 0 x.credits c - (back c).toNat) ∧
      (f.ak = 0 → gets (fun y => y.held = x.held ∧ y.resend = x.resend)) ∧
      (f.ak ≠ 0 → x.held.head? = some h →
        let n := (f.aseq - h.seq + 1).toNat
        (x.held.length < n → gets (fun y => y.held = x.held ∧ y.resend = x.resend)) ∧
        (n ≤ x.held.length → gets (fun y => y.held = x.held.drop n)) ∧
        (n ≤ x.held.length → x.resuming = true → gets (fun y => y.resend = x.held.drop n ∧ y.resuming = false)) ∧
        (n < x.held.length → f.ak = 2 → n ≠ 0 ∨ x.replays < l.replayLimit → gets (fun y => y.resend = x.held.drop n))))

/-- R28, R30, R31, R33, R410, R411: what a transmitter sends: the next flit of a replay unchanged;
else, where one may leave, a flit with a message that waits and its credits allow, which it keeps; else an IDLE flit with what there is
to report (the order of reports: log 41). A retire leaves in a flit of its own once it has been ready for 32 cycles, and not before. A report that has waited 16 cycles leaves in an IDLE flit, and a replay timer that has run out replays what is held, or at
the limit takes the link into retraining. -/
def Claims.FlitsSent : Prop :=
  ∀ (s : State) (l : LinkEnd) (f : Flit) (r : List Flit) (q : Msg),
    let m := s.m
    let x := m.side l
    let k := m.linkAt l
    let c := msgChannel q
    let sends := fun (i : Instr) (g : Flit → Prop) (p : LEnd → Prop) => ∃ s' g', exec i s = .next s' ∧
      (g'.ak, g'.aseq) = x.reports.headD (0, 0) ∧ g g' ∧
      (s'.m.side l).wire = (if l.fabric then x.wire else x.wire ++ [g']) ∧ (s'.m.side l).reports = x.reports.tail ∧ p (s'.m.side l) ∧
      s'.m.mem = m.mem ∧ s'.m.threads = m.threads ∧ s'.m.tiles = m.tiles
    let idle := fun (i : Instr) => sends i
      (fun g => g.data = false ∧ g.msgs = [] ∧ g.seq = 0 ∧ g.crq = BitVec.ofNat 8 (Nat.min 255 (tget 0 x.give 0)) ∧
        g.crs = BitVec.ofNat 8 (Nat.min 255 (tget 0 x.give 1)) ∧ g.crg = BitVec.ofNat 8 (Nat.min 255 (tget 0 x.give 2)) ∧
        g.crm = BitVec.ofNat 8 (Nat.min 255 (tget 0 x.give 3)))
      (fun y => y.held = x.held ∧ ∀ n, n < 4 → tget 0 y.give n = tget 0 x.give n - Nat.min 255 (tget 0 x.give n))
    let new := fun (i : Instr) => sends i
      (fun g => g.data = true ∧ g.msgs = [q] ∧ g.seq = x.txSeq)
      (fun y => y.txSeq = x.txSeq + 1 ∧ (∃ g, y.held = x.held ++ [g] ∧ g.msgs = [q] ∧ g.seq = x.txSeq) ∧
        tget 0 y.credits c = tget 0 x.credits c + msgSlots q ∧ ∀ n, n ≠ c → tget 0 y.credits n = tget 0 x.credits n)
    let live := l.valid = true ∧ k.live = true
    let due := ∃ z ∈ (m.die l.die).outq, m.retireDue l.die z = true ∧ m.linkFor l.die z = some l
    (∀ t : Dword, isRetire q = true → (∀ y ∈ (m.die l.die).retireAt, y.1 = q → y.2 = t) → (∃ y ∈ (m.die l.die).retireAt, y.1 = q) →
      (m.retireDue l.die q = true ↔ 32 ≤ (m.time - t).toNat)) ∧
    (¬ due → exec (.retireSendTimer l) s = .next s) ∧
    (∀ i, i = Instr.flitTransmit l ∨ (i = .retireSendTimer l ∧ due) →
      (¬ live → exec i s = .next s) ∧ Completes (exec i s) ∧
      (live → x.resend = f :: r → ∃ s', exec i s = .next s' ∧
        (s'.m.side l).wire = (if l.fabric then x.wire else x.wire ++ [f]) ∧ (s'.m.side l).resend = r ∧
        (s'.m.side l).held = x.held ∧ (s'.m.side l).reports = x.reports ∧ s'.m.mem = m.mem) ∧
      (live → x.resend = [] → l.window ≤ x.held.length ∨ k.st = .draining ∨ x.resuming = true ∨ (m.die l.die).outq = [] →
        (x.reports = [] → x.give = [] → exec i s = .next s) ∧ (x.reports ≠ [] ∨ x.give ≠ [] → idle i))) ∧
    (live → x.resend = [] → x.held.length < l.window → k.st = .active → x.resuming = false → (m.die l.die).outq = [q] →
      m.linkFor l.die q = some l → msgSlots q ≤ l.flitSlots → tget 0 x.credits c + msgSlots q ≤ l.bufSlots →
      m.heldElsewhere l.die l q = false → m.heldByPort l.die q = false →
      (isRetire q = false → new (.flitTransmit l)) ∧
      (isRetire q = true → m.retireDue l.die q = true → new (.retireSendTimer l)) ∧
      (isRetire q = true → (x.reports = [] → x.give = [] → exec (.flitTransmit l) s = .next s) ∧
        (x.reports ≠ [] ∨ x.give ≠ [] → idle (.flitTransmit l)))) ∧
    (live → x.reports ≠ [] → 16 ≤ (m.time - x.akSince).toNat → idle (.ackIdleTimer l)) ∧
    (¬ live ∨ x.reports = [] ∨ (m.time - x.akSince).toNat < 16 → exec (.ackIdleTimer l) s = .next s) ∧
    (¬ live ∨ x.held = [] ∨ (m.time - x.since).toNat < l.timer → exec (.replayTimerExpiry l) s = .next s) ∧
    (live → x.held ≠ [] → l.timer ≤ (m.time - x.since).toNat →
      (x.replays < l.replayLimit → ∃ s', exec (.replayTimerExpiry l) s = .next s' ∧
        s'.m.side l = { x with resend := x.held, replays := x.replays + 1, since := m.time, resuming := false }) ∧
      (l.replayLimit ≤ x.replays → ∃ s', exec (.replayTimerExpiry l) s = .next s' ∧
        s'.m.linkAt l = { k with st := .retrain, retrainAt := m.time, lo := { k.lo with wire := [] }, hi := { k.hi with wire := [] } } ∧
        (s'.m.side l).held = x.held))

/-- R25, R26, R28 to R31, R33, R410, R411: what a link end receives and sends. -/
def Obligations.Flits : Prop := Claims.FlitsReceived ∧ Claims.FlitsSent

/-- R33, R34, R35, R39: loss of lock takes a module into retraining and a port DOWN; retraining ends in ACTIVE, each end sending an IDLE
flit with ACK and ASEQ = E − 1 and replaying what it holds once the peer's has come, or after 3,200 cycles in DOWN; a port that
returns resumes so, or starts afresh once reports have been exchanged. Choices of the model: a module that once trained to x32
stays there (log 42), and one under a draining lease goes on draining after it has trained (log 157). -/
def Obligations.LinkStates : Prop :=
  ∀ (s : State) (l : LinkEnd) (p : BitVec 6) (x64 : Bool),
    let m := s.m
    let k := m.linkAt l
    let down := fun (i : Instr) (l : LinkEnd) => ∃ s', exec i s = .next s' ∧ (s'.m.linkAt l).st = .down ∧
      (s'.m.side l).held = (m.side l).held ∧ (s'.m.side l).e = (m.side l).e ∧ (s'.m.side l).wire = [] ∧
      (s'.m.side l).sentReport = true ∧ (s'.m.side l).reported = false ∧ s'.m.mem = m.mem ∧ s'.m.threads = m.threads
    let late := 3200 < (m.time - k.retrainAt).toNat
    let greeted := fun (x y : LEnd) (fabric : Bool) => y.held = x.held ∧ y.resend = [] ∧ y.resuming = !x.held.isEmpty ∧
      y.reports = [] ∧ y.e = x.e ∧ y.buf = x.buf ∧
      (fabric = false → ∃ g : Flit, y.wire = x.wire ++ [g] ∧ g.data = false ∧ g.ak = 1 ∧ g.aseq = x.e - 1)
    let q := portEnd p
    let kq := m.linkAt q
    (l.valid = false ∨ k.live = false → exec (.laneLossOfLock l) s = .next s) ∧
    (l.valid = true → k.live = true →
      (l.fabric = true → down (.laneLossOfLock l) l) ∧
      (l.fabric = false → ∃ s', exec (.laneLossOfLock l) s = .next s' ∧ s'.m.linkAt l =
        { k with st := .retrain, retrainAt := m.time, lo := { k.lo with wire := [] }, hi := { k.hi with wire := [] } } ∧
        s' = { s with m := { m with modules := s'.m.modules } })) ∧
    (l.valid = false ∨ k.st ≠ .retrain ∨ late → exec (.retrainComplete l x64) s = .next s) ∧
    (l.valid = true → k.st = .retrain → ¬ late →
      (l.fabric = true → x64 = false → down (.retrainComplete l x64) l) ∧
      (l.fabric = false ∨ x64 = true → ∃ s', exec (.retrainComplete l x64) s = .next s' ∧
        (let k' := s'.m.linkAt l
         k'.x32 = (!x64 || k.x32) ∧ k'.st = (if (m.leaseOf l.unit).map leaseState = some 2 then .draining else .active) ∧
          greeted k.lo k'.lo l.fabric ∧ (l.fabric = false → greeted k.hi k'.hi false)) ∧ s'.m.mem = m.mem)) ∧
    (l.valid = true → k.st = .retrain → 3200 ≤ (m.time - k.retrainAt).toNat → down (.retrainTimeout l) l) ∧
    (l.valid = false ∨ k.st ≠ .retrain ∨ (m.time - k.retrainAt).toNat < 3200 → exec (.retrainTimeout l) s = .next s) ∧
    (q.valid = true → kq.st = .active ∨ kq.st = .draining ∨ kq.st = .retrain → down (.fabricPortDown p) q) ∧
    (q.valid = false ∨ kq.st = .down ∨ kq.st = .leased ∨ kq.st = .retired → exec (.fabricPortDown p) s = .next s) ∧
    (q.valid = false ∨ kq.st ≠ .down ∨ m.onLease q.unit = true → exec (.fabricPortReturn p) s = .next s) ∧
    (q.valid = true → kq.st = .down → m.onLease q.unit = false → ∃ s', exec (.fabricPortReturn p) s = .next s' ∧
      (let k' := s'.m.linkAt q
       let afresh := (kq.lo.reported = true ∧ m.reportLeft p = true) ∨ kq.lo.sentReport = false
       k'.st = .active ∧ k'.lo.buf = kq.lo.buf ∧
        (afresh → k'.lo.txSeq = 0 ∧ k'.lo.e = 0 ∧ k'.lo.held = [] ∧ k'.lo.credits = [] ∧
          s' = { s with m := { m with ports := s'.m.ports } }) ∧
        (¬ afresh → greeted kq.lo k'.lo true ∧ s' = { s with m := { m with ports := s'.m.ports, dies := s'.m.dies } } ∧
          ∀ d, s'.m.die d = { m.die d with outq := (m.die d).outq.filter (fun x => !m.isReport p x) })))

/-- R23, R34, R37, R39: a message that stands on a die it is not for goes on, to another die as it is, and from a port to another
package with a hop less; with no route a request is answered STATUS 4, with no hops left STATUS 5, and other messages are
logged. A peer's report of its E frees what it accepted and puts the other held messages ahead of newer ones. Choices of the model: the
port a report names (log 31), STATUS 4 for an unrouted gangline message (log 46), and whom an undeliverable request's answer names (log
117). -/
def Obligations.ForwardsAndReports : Prop :=
  ∀ (s : State) (die : DieId) (x : Msg) (from_ : Option LinkEnd) (m1 : Mach) (l : LinkEnd),
    let m := s.m
    let i := Instr.messageForward die x
    let port := ∃ k, from_ = some k ∧ k.fabric = true
    let report := Instr.linkStateReport x
    let d := (x.data.headD 0).toNat
    let names := fun (l : LinkEnd) => if tst d 6 then l.fabric = true ∧ (m1.linkAt l).peerPkg = x.spkg ∧
        (m1.linkAt l).peerDie = x.sdie ∧ (m1.linkAt l).peerPort = BitVec.ofNat 6 (bits d 5 0)
      else l.fabric = false ∧ l.idx.toNat = bits d 3 0
    let y := m1.side l
    let goesOn := fun (z : Msg) => exec i s = .next { s with m := m1.modDie die (fun y => { y with
      outq := y.outq ++ [z], retireAt := if z.op = 0x39 ∨ z.op = 0x3A then y.retireAt ++ [(z, m1.time)] else y.retireAt }) }
    (x.dpkg = m.pkg → x.ddie = die → exec i s = .next s) ∧
    (x.dpkg = m.pkg ∨ m.routed die x.dpkg = true ∨ x ∉ (m.die die).outq → m.take die x = none → exec i s = .next s) ∧
    (x.dpkg ≠ m.pkg → m.routed die x.dpkg = false → x ∈ (m.die die).outq → m.take die x = none →
      exec i s = .next { s with m := (m.modDie die (fun y => { y with outq := y.outq.erase x })).undeliverable die x 4 }) ∧
    (¬ (x.dpkg = m.pkg ∧ x.ddie = die) → m.take die x = some (from_, m1) →
      (x.dpkg = m.pkg → goesOn x) ∧
      (x.dpkg ≠ m.pkg → port → x.hops = 0 → exec i s = .next { s with m := m1.undeliverable die x 5 }) ∧
      (x.dpkg ≠ m.pkg → (port → x.hops ≠ 0) → m.routed die x.dpkg = false →
        exec i s = .next { s with m := m1.undeliverable die x 4 }) ∧
      (x.dpkg ≠ m.pkg → m.routed die x.dpkg = true →
        (port → x.hops ≠ 0 → goesOn { x with hops := x.hops - 1 }) ∧ (¬ port → goesOn x))) ∧
    (asksAnswer x = true → ∃ a, m1.undeliverable die x 4 = m1.emit die a ∧ a.op = 0x38 ∧ a.tag = x.tag ∧ a.addr = 4 ∧
      a.dpkg = x.spkg ∧ a.ddie = x.sdie ∧ a.spkg = x.dpkg ∧ a.sdie = x.ddie) ∧
    (asksAnswer x = false → m1.undeliverable die x 4 =
      m1.violation die x.tag.toNat 7 0 (m1.masterOf x) false (decide (x.spkg ≠ m1.pkg))) ∧
    (x.op ≠ 0x3B ∨ x.dpkg ≠ m.pkg ∨ m.take x.ddie x = none → exec report s = .next s) ∧
    (x.op = 0x3B → x.dpkg = m.pkg → m.take x.ddie x = some (from_, m1) → l ∈ endsOf x.ddie → names l →
      (∀ k ∈ endsOf x.ddie, names k → k = l) →
      ((m1.linkAt l).parted y = false ∨ y.reported = true → exec report s = .next { s with m := m1 }) ∧
      ((m1.linkAt l).parted y = true → y.reported = false → ∃ s', exec report s = .next s' ∧
        (s'.m.side l).held = [] ∧ (s'.m.side l).reported = true ∧
        (s'.m.die x.ddie).outq = ((y.free (BitVec.ofNat 10 (bits d 25 16) - 1) m.time).getD y).held.flatMap (·.msgs) ++
          (m1.die x.ddie).outq ∧
        (∀ k, k ≠ x.ddie → (s'.m.die k).outq = (m1.die k).outq ∧ (l.fabric = false → s'.m.die k = m1.die k)) ∧ s'.m.mem = m.mem))

/-! ### Messages at their destination -/

/-- R27, R32, R41, R52, R190, R337, R409: a request that stands first in its buffer, with no entry of its own in a completion table
that has room, is performed once and its answer recorded and sent; one already recorded gets its recorded answer, and with
a full table it waits. A target the die does not own is answered STATUS 4, one not granted STATUS 2, poison STATUS 3. -/
def Claims.RequestsPerformed : Prop :=
  ∀ (s : State) (x : Msg) (from_ : Option LinkEnd) (m1 : Mach) (z : Instr × Bool × (Nat → Nat → Nat → Option Nat)),
    let d := x.ddie
    let pa := msgPa x
    let k := paTarget pa
    let i := match x.op.toNat with
      | 0x01 => Instr.readRequest x
      | 0x02 => .writeRequest x
      | 0x19 => .aqaddRequest x
      | 0x1A => .reduceElementRequest x
      | _ => .amoRequest x
    let atomic := 0x10 ≤ x.op.toNat ∧ x.op.toNat ≤ 0x18
    let q := (x.data.headD 0).toNat
    let size := if x.op = 0x01 then 16 * (x.rlen.toNat + 1) else if x.op = 0x19 then 16
      else if x.op = 0x1A then (reduceCtl (x.data.headD 0)).1 * reduceSize (bits q 6 4) else if x.sz then 8 else 4
    let acc := if x.op = 0x01 then Acc.read else .atomic
    let answered := fun (m2 : Mach) (st : Nat) (data : List Quad) => exec i s = .next { s with m := m2.respond d x st data }
    let updates := fun (data : List Quad) (new : Memory → Prop) => ∃ m2, answered m2 0 data ∧ new m2.mem ∧
      m2 = { m1 with mem := m2.mem, poisS := m2.poisS, poisW := m2.poisW }
    let slots := fun (v : Nat) => ((x.data.drop 1).foldr (fun q a => q.toNat + a * 2 ^ 128) 0) / v
    (∀ (m2 : Mach) (st : Nat) (data : List Quad), ∃ y : Msg, y.op = 0x38 ∧ y.tag = x.tag ∧ y.addr = BitVec.ofNat 56 st ∧
      y.data = (if st = 0 then data else []) ∧ y.dpkg = x.spkg ∧ y.ddie = x.sdie ∧ y.sagent = x.sagent ∧
      ((m2.respond d x st data).die d).comp.find? (fromSame x) = some ⟨x.spkg, x.sdie, x.tag, some y, none⟩ ∧
      (y ∈ ((m2.respond d x st data).die d).inq ∨ y ∈ ((m2.respond d x st data).die d).outq)) ∧
    (x.dpkg = s.m.pkg → x.op ∈ [0x01, 0x02, 0x19, 0x1A] ∨ atomic →
      (s.m.take d x = none → exec i s = .next s) ∧
      (s.m.take d x = some (from_, m1) →
        (∀ r, (m1.die d).comp.find? (fromSame x) = some r →
          exec i s = .next { s with m := match r.resp with | some y => m1.emit d y | none => m1 }) ∧
        ((m1.die d).comp.find? (fromSame x) = none → 16384 ≤ (m1.die d).comp.length → exec i s = .next s) ∧
        ((m1.die d).comp.find? (fromSame x) = none → (m1.die d).comp.length < 16384 →
          (x.op ≠ 0x02 →
            (m1.owns d pa size = false → answered m1 4 []) ∧
            (m1.owns d pa size = true → grantOk (m1.grants k.1 k.2 (m1.masterOf x)) acc = false →
              answered (m1.violation (paDie pa) pa k.1 k.2 (m1.masterOf x) (decide (x.op ≠ 0x01)) (decide (x.spkg ≠ m1.pkg))) 2 []) ∧
            (m1.owns d pa size = true → grantOk (m1.grants k.1 k.2 (m1.masterOf x)) acc = true → m1.quiet →
              (m1.poisoned pa size = true → answered m1 3 []) ∧
              (m1.poisoned pa size = false →
                (x.op = 0x01 → ∃ data : List Quad, answered m1 0 data ∧ data.length = x.rlen.toNat + 1 ∧
                  ∀ n, n ≤ x.rlen.toNat → data[n]? = some (BitVec.ofNat 128 (Memory.read m1.mem (pa + 16 * n) 16))) ∧
                (x.op = 0x19 → updates [] (fun t =>
                  t = Memory.write m1.mem pa 16 (Memory.read m1.mem pa 16 + q))) ∧
                (x.op = 0x1A → updates [] (fun t => let w := reduceSize (bits q 6 4)
                  (∀ n, n < bits q 3 0 + 1 → Memory.read t (pa + w * n) w =
                    reduceNew (bits q 6 4) (BitVec.ofNat 2 (bits q 9 8)) (Memory.read m1.mem (pa + w * n) w)
                      (slots (2 ^ (8 * w * n)) % 2 ^ (8 * w)) % 256 ^ w) ∧
                  ∀ a, a < pa ∨ pa + size ≤ a → Memory.byte t a = Memory.byte m1.mem a)) ∧
                (atomic → (amoForms 0 0 0 0)[2 * (x.op.toNat - 0x10) + b2n x.sz]? = some z →
                  let old := Memory.read m1.mem pa size
                  updates [BitVec.ofNat 128 old] (fun t =>
                    t = match z.2.2 old (q % 2 ^ 64 % 2 ^ (8 * size)) (q / 2 ^ 64 % 2 ^ (8 * size)) with
                      | some v => Memory.write m1.mem pa size v
                      | none => m1.mem))))) ∧
          (x.op = 0x02 →
            let runs := slotRuns pa x.data
            (runs = [] → answered m1 0 []) ∧
            ((∃ r ∈ runs, m1.owns d r.1 r.2.length = false) → answered m1 4 []) ∧
            (∀ a bs t, runs = (a, bs) :: t → (∀ r ∈ runs, m1.owns d r.1 r.2.length = true) → m1.owns d a 1 = true →
              let ka := paTarget a
              (grantOk (m1.grants ka.1 ka.2 (m1.masterOf x)) .write = false →
                answered (m1.violation (paDie a) a ka.1 ka.2 (m1.masterOf x) true (decide (x.spkg ≠ m1.pkg))) 2 []) ∧
              (grantOk (m1.grants ka.1 ka.2 (m1.masterOf x)) .write = true → m1.quiet → updates [] (fun t => ∀ n,
                Memory.byte t n = if pa ≤ n ∧ n < pa + 16 * (x.data.length - 1) ∧ tst (x.data.getLastD 0).toNat (n - pa) = true
                  then BitVec.ofNat 8 ((x.data.getD ((n - pa) / 16) 0).toNat / 2 ^ (8 * ((n - pa) % 16)))
                  else Memory.byte m1.mem n)))))))

/-- R32: a response is taken for its outstanding tag, whose retire goes out; a retire frees its entry and is acknowledged; the
acknowledgement frees the tag, for a request that waits for one. A response to no outstanding tag is discarded and logged. -/
def Claims.ResponsesAndRetires : Prop :=
  ∀ (s : State) (x : Msg) (from_ : Option LinkEnd) (m1 : Mach) (g : TagRec) (t : TileId) (e : Eng),
    let m := s.m
    let d := x.ddie
    let ev := fun (op : BitVec 6) => if op = 0x38 then Instr.response x else if op = 0x39 then .tagRetire x else .retireAcknowledged x
    let back := fun (op : BitVec 6) =>
      { blankMsg with op := op, tag := x.tag, sagent := x.sagent, spkg := m1.pkg, sdie := d, dpkg := x.spkg, ddie := x.sdie }
    (∀ op ∈ [0x38, 0x39, 0x3A], x.op ≠ op ∨ x.dpkg ≠ m.pkg ∨ m.take d x = none → exec (ev op) s = .next s) ∧
    (x.dpkg = m.pkg → m.take d x = some (from_, m1) →
      (x.op = 0x38 →
        (m1.tagOf d x false = none → exec (.response x) s = .next { s with m := m1.violation d x.tag.toNat 7 0 (m1.masterOf x) false (decide (x.spkg ≠ m1.pkg)) }) ∧
        (m1.tagOf d x false = some g →
          let z := ((m1.modDie d (fun y => { y with tags := y.tags.map (fun h =>
            if h = g then { h with retiring := true } else h) })).emit d (back 0x39))
          let st := x.addr.toNat % 256
          let v := x.data.foldr (fun q a => q.toNat + a * 2 ^ 128) 0
          (g.agent = .thread t → exec (.response x) s = .next { s with m := z.modThr t (fun th => { th with out := respondOut th.out st v }) }) ∧
          (g.agent = .store t → exec (.response x) s = .next { s with m := z.modThr t (fun th => { th with wbuf := respondStore th.wbuf g.place st }) }) ∧
          (g.agent = .eng t e → exec (.response x) s = .next { s with m := z.modChain t e (fun c => { c with answers := respondAns c.answers g.place st v }) }) ∧
          Completes (exec (.response x) s))) ∧
      (x.op = 0x39 → exec (.tagRetire x) s = .next { s with m := (m1.modDie d (fun y => { y with comp := y.comp.filter (fun c => !fromSame x c) })).emit d (back 0x3A) }) ∧
      (x.op = 0x3A →
        (m1.tagOf d x true = some g → exec (.retireAcknowledged x) s = .next { s with m := (m1.modDie d (fun y => { y with tags := y.tags.filter (fun h => h ≠ g) })).sendWaiting d }) ∧
        (m1.tagOf d x true = none → exec (.retireAcknowledged x) s = .next { s with m := m1 })))

/-- R27, R32, R41, R52, R190, R337, R409: exactly-once requests. -/
def Obligations.RequestsAndResponses : Prop := Claims.RequestsPerformed ∧ Claims.ResponsesAndRetires

/-- R41, R52: the sequencer gives an update of a set the next stamp and applies it (at its own replica as it stamps it: log 119), and
none while one 64 back is unanswered; a member applies updates in stamp order, holds an early one, of which 64 at most, and
answers an old one again; with the last member's answer, at once in a set without members, the writer gets its response, with the
old value where it asked for an atomic (the tag of the update to a member: log 120; how a die finds
the set: log 115). -/
def Obligations.ReplicatedUpdates : Prop :=
  ∀ (s : State) (x : Msg) (from_ : Option LinkEnd) (m1 : Mach) (k : Nat) (r : RSet) (set : BitVec 16) (stamp : Word) (g : TagRec)
      (w : Msg) (old : Nat) (others : List (BitVec 12 × DieId)),
    let m := s.m
    let d := x.ddie
    let ctl := x.data.headD 0
    let key := ctl.toNat % 2 ^ 16 * 4 + d.toNat
    let st : Word := ctl.extractLsb' 32 32
    let q := tget RMem.reset m1.rmems key
    let here := hbmPa d (bits x.addr.toNat 37 0)
    let runs := slotRuns here (x.data.drop 1)
    let applied := { respMsg m1 d x 0 [] with op := 0x32, addr := 0, cls := 0, sz := false }
    let fresh := m.take d x = some (from_, m1) ∧ (m1.die d).comp.find? (fromSame x) = none ∧ (m1.die d).comp.length < 16384
    (x.op = 0x30 → x.dpkg = m.pkg →
      (m.rset d (ctl.extractLsb' 0 16) = none → fresh →
        exec (.replicatedPageUpdate x) s = .next { s with m := m1.respond d x 4 [] }) ∧
      (m.rset d (ctl.extractLsb' 0 16) = some (k, r) →
        (r.pkg ≠ m.pkg ∨ r.die ≠ d → fresh → exec (.replicatedPageUpdate x) s = .next { s with m := m1.respond d x 4 [] }) ∧
        (r.pkg = m.pkg → r.die = d →
          ((∃ o ∈ r.open_, 64 ≤ (r.stamp - o.1).toNat) ∨ m.tagRoom d r.replicas = false → exec (.replicatedPageUpdate x) s = .next s) ∧
          ((∀ o ∈ r.open_, (r.stamp - o.1).toNat < 64 ∧ o.2.1 ≠ []) → m.tagRoom d r.replicas = true → fresh → m1.quiet →
            (∀ y ∈ (m1.die d).rsets, y.2.valid = true → y.2.set = r.set → y.1 = k) →
            let stamped := fun (old : Nat) (data : List Quad) (mem : Memory) => ∃ s', exec (.replicatedPageUpdate x) s = .next s' ∧
              (tget RMem.reset s'.m.rmems (rmemKey r.set d)).next = r.stamp + 1 ∧ s'.m.mem = mem ∧
              (r.replicas ≠ [] →
                tget RSet.reset (s'.m.die d).rsets k = { r with stamp := r.stamp + 1, open_ := r.open_ ++ [(r.stamp, r.replicas, x, old)] } ∧
                (s'.m.die d).comp = (m1.die d).comp ++ [⟨x.spkg, x.sdie, x.tag, none, none⟩]) ∧
              (r.replicas = [] → tget RSet.reset (s'.m.die d).rsets k = { r with stamp := r.stamp + 1 } ∧
                ∃ c ∈ (s'.m.die d).comp, fromSame x c = true ∧ c.resp = some (respMsg m1 d x 0 data))
            (bits ctl.toNat 17 16 = 0 → (∀ y ∈ runs, m1.owns d y.1 y.2.length = true) → m1.owns d here 1 = true →
              grantOk (m1.grants (paTarget here).1 (paTarget here).2 (m1.masterOf x)) .write = true →
              stamped 0 [] (runs.foldl (fun t y => Memory.writeBytes t y.1 y.2) m.mem)) ∧
            (bits ctl.toNat 17 16 = 1 → m1.owns d here (updateSize ctl.toNat) = true → m1.poisoned here (updateSize ctl.toNat) = false →
              grantOk (m1.grants (paTarget here).1 (paTarget here).2 (m1.masterOf x)) .atomic = true →
              let old := Memory.read m.mem here (updateSize ctl.toNat)
              stamped old [BitVec.ofNat 128 old]
                (Memory.writeBytes m.mem here (updateBytes old ctl.toNat (x.data.getD 1 0)))))))) ∧
    (x.op ≠ 0x31 ∨ x.dpkg ≠ m.pkg ∨ m.take d x = none → exec (.sequencedUpdate x) s = .next s) ∧
    (x.op = 0x31 → x.dpkg = m.pkg → m.take d x = some (from_, m1) →
      (st = q.next → q.early = [] → m1.quiet →
        grantOk (m1.grants (paTarget here).1 (paTarget here).2 (m1.masterOf x)) .write = true →
        (∀ y ∈ runs, m1.owns d y.1 y.2.length = true) → ∃ s', exec (.sequencedUpdate x) s = .next s' ∧
          tget RMem.reset s'.m.rmems key = ⟨st + 1, []⟩ ∧
          s'.m.mem = runs.foldl (fun t y => Memory.writeBytes t y.1 y.2) m.mem ∧
          (applied ∈ (s'.m.die d).inq ∨ applied ∈ (s'.m.die d).outq)) ∧
      (st ≠ q.next → (st - q.next).toNat < 2 ^ 31 → 64 ≤ q.early.length → exec (.sequencedUpdate x) s = .next s) ∧
      (st ≠ q.next → (st - q.next).toNat < 2 ^ 31 → q.early.length < 64 → exec (.sequencedUpdate x) s =
        .next { s with m := { m1 with rmems := tput RMem.reset m1.rmems key { q with early := q.early ++ [x] } } }) ∧
      (2 ^ 31 ≤ (st - q.next).toNat → exec (.sequencedUpdate x) s = .next { s with m := m1.emit d applied })) ∧
    (x.op ≠ 0x32 ∨ x.dpkg ≠ m.pkg ∨ m.take d x = none → exec (.replicaApplied x) s = .next s) ∧
    (x.op = 0x32 → x.dpkg = m.pkg → m.take d x = some (from_, m1) → m1.tagOf d x false = some g → g.agent = .update set stamp →
      m1.rset d set = some (k, r) → r.open_ = [(stamp, (x.spkg, x.sdie) :: others, w, old)] →
      ∃ s', exec (.replicaApplied x) s = .next s' ∧
        (others ≠ [] → tget RSet.reset (s'.m.die d).rsets k = { r with open_ := [(stamp, others, w, old)] } ∧
          (s'.m.die d).comp = (m1.die d).comp) ∧
        (others = [] → tget RSet.reset (s'.m.die d).rsets k = { r with open_ := [] } ∧
          ∃ c ∈ (s'.m.die d).comp, fromSame w c = true ∧ c.resp = some (respMsg m1 d w 0
            (if bits (w.data.headD 0).toNat 17 16 = 1 then [BitVec.ofNat 128 old] else []))))

/-- R98, R99, R124, R226, R228: a gangline message adds its elements to the landing tile of the image it names and counts them
off, or is refused and changes nothing; the last addition completes the reservation; another package of the group takes half of the largest
range left, and what it reports of its teams counts for the launch. -/
def Obligations.ArrivalsAndReports : Prop :=
  ∀ (s : State) (x : Msg) (from_ : Option LinkEnd) (m1 : Mach) (t : TileId) (hdl : BitVec 3) (bd : Bind) (lgid : BitVec 16)
      (pkg : BitVec 12) (l : Launch) (b : DieId) (j n : Nat) (tk : Ticket) (lid team : Word) (fl : Option Word),
    let m := s.m
    let d := x.ddie
    let c := m.ctx (glTile x)
    let h := c.handle (glLh x)
    let cfg := c.accCfg (bits h.toNat 61 56)
    let len := x.data.length
    let fresh := x.op = 0x20 ∧ x.dpkg = m.pkg ∧ m.take d x = some (from_, m1) ∧
      (m1.die d).comp.find? (fromSame x) = none ∧ (m1.die d).comp.length < 16384
    let sends := fun (v : Nat) (p : Mach → Prop) => ∃ m2, exec (.ganglineContribution x) s =
      .next { s with m := m2.respond d x 0 [BitVec.ofNat 128 v] } ∧ m2.mem = m.mem ∧ p m2
    let ends := (m.ctx t).handle hdl
    (fresh → nhas m.exports (glPart x).toNat = true → sends 2 (fun m2 => m2 = m1)) ∧
    (fresh → nhas m.exports (glPart x).toNat = false → m1.glTarget x = none → sends 1 (fun m2 => m2.tiles = m.tiles)) ∧
    (fresh → nhas m.exports (glPart x).toNat = false → (m1.die d).fwds = [] → (m.tile (glTile x)).bind = some bd →
      bd.part = glPart x → landing h = true → h.extractLsb' 48 8 = glEpoch x → glIdx x + len ≤ tileSize cfg →
      len ≤ bits h.toNat 29 0 → sends 0 (fun m2 =>
        (∀ u, u ≠ glTile x → m2.tile u = m.tile u) ∧
        (let c' := m2.ctx (glTile x)
         c'.store = c.store ∧ c'.sems = c.sems ∧ (c'.accCfg (bits h.toNat 61 56)).getLsbD 62 = true ∧ c'.handle (glLh x) = setBits h 29 0 (bits h.toNat 29 0 - len) ∧
          (∀ k, k ≠ glLh x → c'.handle k = c.handle k) ∧
          (∀ k, k < len → let old := tget AqEntry.zero c.acc (flatEntry cfg (glIdx x + k))
            let f := bits x.addr.toNat (36 + 4 * k) (33 + 4 * k)
            tget AqEntry.zero c'.acc (flatEntry cfg (glIdx x + k)) =
              aqMerge old (x.data.getD k 0) (BitVec.ofNat 2 f) (tst f 2) (tst f 3)) ∧
          (∀ e, (∀ k, k < len → e ≠ flatEntry cfg (glIdx x + k)) → tget AqEntry.zero c'.acc e = tget AqEntry.zero c.acc e)))) ∧
    ((m.tile t).bind = some bd → landing ends = true → bits ends.toNat 29 0 = 0 →
      ∃ s', exec (.reservationCompletion t hdl) s = .next s' ∧ (s'.m.ctx t).handle hdl = setBits ends 63 63 0 ∧
        (s'.m.thr t).kevt.getLsbD 2 = true ∧
        (let sem : BitVec 5 := BitVec.ofNat 5 (bits ends.toNat 47 43)
         let amt := bits ends.toNat 42 39
         ((m.ctx t).sem sem).toNat + amt ≤ 65535 → ((s'.m.ctx t).sem sem).toNat = ((m.ctx t).sem sem).toNat + amt)) ∧
    ((m.tile t).bind = none ∨ landing ends = false ∨ bits ends.toNat 29 0 ≠ 0 →
      exec (.reservationCompletion t hdl) s = .next s) ∧
    (m.groupLaunch lgid = none ∨ m.groupMember lgid pkg = false → exec (.stealRequest lgid pkg) s = .next s) ∧
    (m.groupLaunch lgid = some l → m.groupMember lgid pkg = true →
      ((∀ k, m.teamsLeft l.lid k < 2) → exec (.stealRequest lgid pkg) s = .next s) ∧
      (2 ≤ m.teamsLeft l.lid b → (∀ k, m.teamsLeft l.lid k ≤ m.teamsLeft l.lid b) →
        (∀ k, k.toNat < b.toNat → m.teamsLeft l.lid k < m.teamsLeft l.lid b) → (m.die b).ticketOf l.lid = some (j, tk) →
        n = m.teamsLeft l.lid b / 2 → ∃ s' l', exec (.stealRequest lgid pkg) s = .next s' ∧
          (s'.m.die b).ticketOf l.lid = some (j, { tk with stop := tk.stop - n }) ∧ (∀ k, k ≠ b → s'.m.die k = m.die k) ∧
          s'.m.launch l.lid = some l' ∧ l' = { l with away := l'.away, owed := l'.owed } ∧ s'.m.mem = m.mem ∧
          s'.m.tiles = m.tiles)) ∧
    (m.launch lid = none → ∀ c, exec (.remoteTeamRetired lid team c fl) s = .next s) ∧
    (m.launch lid = some l →
      (l.away.contains team.toNat = true → exec (.remoteTeamRetired lid team true fl) s = .next s) ∧
      (l.away.contains team.toNat = false → exec (.remoteTeamRetired lid team false fl) s = .next s ∧
        exec (.remoteTeamRetired lid team true fl) s =
          .next { s with m := m.setLaunch lid (some { l with owed := l.owed.erase team.toNat }) }) ∧
      (l.away.contains team.toNat = true →
        let l' := { l with away := l.away.erase team.toNat, retired := l.retired + l.itemsIn team.toNat (team.toNat + 1),
                           low := (match fl, l.low with
                             | some i, some k => some (Nat.min k i.toNat)
                             | some i, none => some i.toNat
                             | none, k => k) }
        exec (.remoteTeamRetired lid team false fl) s = .next { s with m := (m.setLaunch lid (some l')).settleLaunch lid } ∧
          (l'.retired < l.total → exec (.remoteTeamRetired lid team false fl) s = .next { s with m := m.setLaunch lid (some l') })))

/-! ### Pre-emption, exchange and images -/

/-- R93, R101, R102, R103, R114, R117: at the end of a slice the next partition of equal priority in rotation is ordered in, or with none
the slice begins again; an order whose partition has no runnable work left is not waited for, and one of a higher priority takes its
place (log 143); PREEMPT halts a cluster's tiles once the incoming images are ready, or the one tile of a draining lease whose grace is
over; and a unit of a halting tile reports HALTED: an engine once no step of its is under way and no signal of its still to come, the
thread once its write buffer has been handed over. Choices of the model: a slice with no other partition to come is
renewed (log 69), and the thread waits for its buffered stores (log 67). -/
def Obligations.Preemption : Prop :=
  ∀ (s : State) (c : ClusterId) (r p : PartId) (pre post : List PartId) (t : TileId) (e : Eng) (b : Bind) (die : DieId) (n : Byte),
    let m := s.m
    let y := m.clu c
    let expired := s.orders = true ∧ y.resident = some r ∧ y.order = none ∧ y.slice * 160000 ≤ (m.time - y.since).toNat
    let equal := fun (q : PartId) => (m.prioOn c q).isSome && decide (m.prioOn c q = m.prioOn c r)
    let m1 := m.reside c
    let halts := fun (i : Instr) (ts : List TileId) (m' : Mach) => ∃ s', exec i s = .next s' ∧
      (∀ u ∈ ts, s'.m.tile u = { m.tile u with halting := true, thrHalted := false }) ∧
      (∀ u, u ∉ ts → s'.m.tile u = m.tile u) ∧ s'.m.threads = m.threads ∧ s'.m.mem = m.mem ∧ s'.m.clusters = m'.clusters
    let ready := ((∃ p, m1.incoming c = some p ∧ m1.imagesReady c p = true) ∨ (m1.incoming c = none ∧ m1.leaving c = true)) ∧
      m.inExchange (tilesOf c) = false ∧ m1.slotsReady (m1.busyTiles c) (m1.incoming c) = true
    let alone := (m.tile t).bind = some b ∧ m.draining t = true ∧ (m.clu (TileId.cluster t)).order = none ∧
      m.inExchange (tilesOf (TileId.cluster t)) = false ∧ (m.tile t).kennel = none
    let rec_ := m.entry die n.toNat
    let x := (m.ctx t).chain e
    (s.orders = false ∨ y.resident = none ∨ y.order ≠ none ∨ (m.time - y.since).toNat < y.slice * 160000 →
      exec (.sliceExpiry c) s = .next s) ∧
    (expired → y.rotation = pre ++ r :: post → r ∉ pre →
      ((∀ q ∈ post ++ pre, equal q = false) →
        exec (.sliceExpiry c) s = .next { s with m := m.modClu c (fun y => { y with since := m.time }) }) ∧
      ((post ++ pre).find? equal = some p → m.cluEmpty c = false →
        exec (.sliceExpiry c) s = .next { s with m := (m.modClu c (fun y => { y with order := some p })).sched })) ∧
    (m.inExchange (tilesOf c) = false → y.order = some p → m.prioOn c p = none → m.topPart c = none → (m1.clu c).order = none) ∧
    (∀ (i j : Nat), m.inExchange (tilesOf c) = false → y.order = some r → m.prioOn c r = some i → m.topPart c = some (p, j) →
      m.cluEmpty c = false → (m1.clu c).order = some (if i < j then p else r)) ∧
    (s.orders = true → ready → halts (.preempt (.cluster c)) (tilesOf c) m1) ∧
    (s.orders = true → ¬ ready → exec (.preempt (.cluster c)) s = .next { s with m := m1 }) ∧
    (s.orders = false → exec (.preempt (.cluster c)) s = .next s) ∧
    (s.orders = true → m.graceOver t = true ∨ m.fixedRound t = true → alone → halts (.preempt (.tile t)) [t] m) ∧
    (s.orders = false ∨ (m.graceOver t = false ∧ m.fixedRound t = false) ∨ (∀ b, (m.tile t).bind ≠ some b) ∨
      m.draining t = false ∨ (m.tile t).kennel ≠ none → exec (.preempt (.tile t)) s = .next s) ∧
    (s.orders = true → leaseState rec_ = 2 → (rec_.unit die).kind = .tile → (rec_.unit die).unit = t → m.graceOver t = true → alone →
      halts (.tileDrainGraceExpiry die n) [t] m) ∧
    (s.orders = false ∨ leaseState rec_ ≠ 2 ∨ (rec_.unit die).kind ≠ .tile ∨ m.graceOver (rec_.unit die).unit = false →
      exec (.tileDrainGraceExpiry die n) s = .next s) ∧
    ((m.tile t).halting = false → exec (.unitHalted t (some e)) s = .next s ∧ exec (.unitHalted t none) s = .next s) ∧
    ((m.tile t).halting = true →
      (x.st = .running → x.phase = .signals ∨ x.flight ≠ [] → exec (.unitHalted t (some e)) s = .next s) ∧
      (x.st ≠ .running ∨ (x.phase ≠ .signals ∧ x.flight = []) → exec (.unitHalted t (some e)) s =
        .next { s with m := m.modChain t e (fun x => { x with halted := true, answers := [] }) }) ∧
      (buffered ((m.drainAll t).thr t).wbuf ≠ 0 → exec (.unitHalted t none) s = .next { s with m := m.drainAll t }) ∧
      (buffered ((m.drainAll t).thr t).wbuf = 0 → exec (.unitHalted t none) s =
        .next { s with m := (m.drainAll t).modTile t (fun x => { x with thrHalted := true }) }) ∧
      ((m.thr t).wbuf = [] → exec (.unitHalted t none) s =
        .next { s with m := m.modTile t (fun x => { x with thrHalted := true }) }))

/-- R103, R105, R108, R150, R229: once all of a cluster's tiles have halted each gives its image to its slot and takes the incoming
one's state up; a tile alone gives its image. In the image the thread stands at the first instruction not completed, where a load not
yet answered is done again and an atomic already sent is not (of a thread in a trap: log 139). A save copies the units of the
accumulator that hold a byte of a tile to be saved, and the slot keeps the others. At the end the tiles are released and
the incoming partition is resident, if it still has work there. Choices of the model: KEPC of a thread
in no trap is overwritten (log 66), a move restores in one step (log 70), and which item claims first (log 138). -/
def Claims.ContextExchanges : Prop :=
  ∀ (s : State) (c : ClusterId) (t : TileId) (b : Bind) (im : Image),
    let m := s.m
    let ts := tilesOf c
    let inc := m.incoming c
    let x := m.tile t
    let th := m.thr t
    let saved := fun (o : Option Image) => ∃ im, o = some im ∧ im.level = 1 ∧ im.part = b.part ∧ im.lid = b.lid ∧ im.bind = b ∧
      im.tile = t ∧ im.complete = x.kwrites.isEmpty ∧ im.thr.pull = .none ∧ im.ctx.store = x.ctx.store ∧
      (let ts := x.ctx.savedTiles x.slotFrom
       let kept := fun (e : Nat) => tget AqEntry.zero im.ctx.acc e = tget AqEntry.zero x.slotPart.1 e
       (∀ v ∈ ts, ∀ e, inRect v e = true → tget AqEntry.zero im.ctx.acc e = tget AqEntry.zero x.ctx.acc e) ∧
       (∀ e, fileCopied ts e = false → flagsCopied ts e = false → countsCopied ts e = false → kept e)) ∧
      im.ctx.sems = x.ctx.sems ∧ im.ctx.wins = x.ctx.wins ∧ im.ctx.rings = x.ctx.rings ∧ im.ctx.acfg = x.ctx.acfg ∧
      (∀ e, (im.ctx.chain e).cur = (x.ctx.chain e).cur ∧ (im.ctx.chain e).st = (x.ctx.chain e).st ∧
        blockIx (im.ctx.chain e) = blockIx (x.ctx.chain e) ∧ (im.ctx.chain e).latched = (x.ctx.chain e).latched) ∧
      (∀ e, (im.ctx.chain e).answers = [] ∧ ∀ h ∈ (im.ctx.chain e).hist, h.early = false) ∧
      im.thr.kstat = th.kstat ∧ im.thr.kcause = th.kcause ∧ im.thr.ktval = th.ktval ∧
      (let at_ := fun (g : Tbl Dword) (pc : Dword) => im.thr.g = g ∧
        im.thr.kepc = (if th.tip then th.kepc else pc &&& 0xFFFFFFFFFFFFFFFC)
       (∀ d v, th.pull = .given d v → at_ (th.wr d v).g (th.pc + 4)) ∧
       ((∀ d v, th.pull ≠ .given d v) →
         (th.out = none → at_ th.g th.pc ∧ im.thr.stepTrap = th.stepTrap) ∧
         (∀ o, th.out = some o → o.fin.redone = true → at_ th.g th.pc ∧ im.thr.out = none) ∧
         (∀ o, th.out = some o → o.fin.redone = false → o.resp = none →
           at_ th.g (th.pc + 4) ∧ im.thr.out = some { o with late := true })))
    let empty := fun (s' : State) => (s'.m.tile t).bind = none ∧ (s'.m.thr t).sup = none ∧ (s'.m.thr t).st = .idle ∧
      (s'.m.tile t).exchanging = true
    let taken := some im.part = inc ∧ im.complete = true ∧ x.service = .inService ∧ m.underLease t = false
    let alone := m.allHalted t = true ∧ x.exchanging = false ∧ ∃ u ∈ tilesOf (TileId.cluster t), (m.tile u).halting = false
    ((∃ u ∈ ts, m.allHalted u = false ∨ (m.tile u).exchanging = true) → exec (.contextExchange (.cluster c)) s = .next s) ∧
    ((∀ u ∈ ts, m.allHalted u = true ∧ (m.tile u).exchanging = false) → m.quiet →
      (∀ u ∈ ts, ∀ im, (m.tile u).kennel = some im → im.level = 1 ∧ im.ctx.owed = []) → t ∈ ts →
      ∃ s', exec (.contextExchange (.cluster c)) s = .next s' ∧ s'.m.mem = m.mem ∧ s'.m.clusters = m.clusters ∧
        (∀ u, u ∉ ts → s'.m.tile u = m.tile u ∧ s'.m.thr u = m.thr u) ∧
        (x.kennel = none → x.bind = none → s'.m.tile t = { x with exchanging := true }) ∧
        (x.kennel = none → x.bind = some b → saved (s'.m.tile t).kennel ∧ empty s') ∧
        (x.kennel = some im → taken →
          (x.bind = none → (s'.m.tile t).kennel = none) ∧ (x.bind = some b → saved (s'.m.tile t).kennel) ∧
          (s'.m.tile t).bind = some { im.bind with part := im.part } ∧
          (let y := s'.m.ctx t
           y.store = im.ctx.store ∧ y.acc = im.ctx.acc ∧ y.sems = im.ctx.sems ∧ y.wins = im.ctx.wins ∧ y.hnd = im.ctx.hnd ∧
            y.rings = im.ctx.rings ∧ (∀ e, y.chain e = im.ctx.chain e) ∧
            ∀ a, y.accCfg a = setBits (im.ctx.accCfg a) 62 62 0) ∧
          (let y := s'.m.thr t
           y.g = im.thr.g ∧ y.kstat = im.thr.kstat ∧ y.kepc = im.thr.kepc ∧ y.pc = im.thr.kepc ∧ y.sup = im.thr.sup ∧
            y.stepTrap = im.thr.stepTrap))) ∧
    (¬ alone → exec (.contextExchange (.tile t)) s = .next s) ∧
    (alone → m.quiet → x.kennel = none → x.bind = some b → ∃ s', exec (.contextExchange (.tile t)) s = .next s' ∧
      saved (s'.m.tile t).kennel ∧ empty s' ∧ (∀ u, u ≠ t → s'.m.tile u = m.tile u) ∧ s'.m.mem = m.mem) ∧
    ((∃ u ∈ ts, (m.tile u).exchanging = false) → exec (.exchangeEnd (.cluster c)) s = .next s) ∧
    ((∀ u ∈ ts, (m.tile u).exchanging = true) → ∃ (m' : Mach), exec (.exchangeEnd (.cluster c)) s = .next { s with m := m'.sched } ∧
      (∀ u ∈ ts, m'.tile u = { m.tile u with halting := false, exchanging := false, thrHalted := false }) ∧
      (m'.clu c).resident = (if m.leaving c then none else m.arriving c) ∧
      (∀ p, m.arriving c = some p ↔ inc = some p ∧ (m.prioOn c p ≠ none ∨ ∃ u ∈ ts, ∃ b, (m.tile u).bind = some b ∧ b.part = p)) ∧
      (m'.clu c).since = m.time ∧
      (m.leaving c = false → (m'.clu c).order = none) ∧ m'.threads = m.threads ∧ m'.mem = m.mem) ∧
    (x.exchanging = false ∨ (∀ u ∈ tilesOf (TileId.cluster t), (m.tile u).exchanging = true) →
      exec (.exchangeEnd (.tile t)) s = .next s) ∧
    (x.exchanging = true → (∃ u ∈ tilesOf (TileId.cluster t), (m.tile u).exchanging = false) →
      exec (.exchangeEnd (.tile t)) s = .next { s with m := (m.modTile t (fun x =>
        { x with halting := false, exchanging := false, thrHalted := false })).sched })

/-- R106, R109, R111: a write that waited is applied to the outgoing image, complete after the last; a complete image in a
slot that is needed goes to a free place of the image area, comes back from there to the free slot of a tile that will run it, and the
one parked longest resumes on the lowest idle tile whose slot is empty or its own, else on the first to become idle since it was parked
(of several at one time the lowest: log 158). -/
def Claims.ImageMoves : Prop :=
  ∀ (s : State) (t src dst : TileId) (p : PartId) (n : Nat) (im : Image) (w : KWrite) (rest : List KWrite),
    let m := s.m
    let x := m.tile t
    let ready := s.fw.boot = .ready
    let k := TileId.cluster t
    let wanted := (m.incoming k = some p ∨ (m.clu k).resident = some p) ∧ (m.part p).exported = false ∧
      (m.incoming k ≠ none ∨ (.spill p n, t) ∈ m.claims k p) ∧ TileId.cluster im.tile = k ∧ x.kennel = none ∧ x.service = .inService ∧
      m.underLease t = false ∧ x.halting = false ∧ x.exchanging = false
    let c := TileId.cluster src
    let moves := (m.clu c).resident = some im.part ∧ (m.clu c).order = none ∧ m.inExchange (tilesOf c) = false ∧
      im.complete = true ∧ m.draining src = false ∧ (.kennel src, dst) ∈ m.claims c im.part
    let idle := (tilesOf c).filter m.tileIdle
    (x.kwrites = [] ∨ x.kennel = none ∨ (x.halting = true ∧ x.exchanging = false) → exec (.kennelWriteApply t) s = .next s) ∧
    (x.kwrites = w :: rest → x.kennel = some im → x.halting = false ∨ x.exchanging = true → m.quiet →
      ∃ (s' : State) (im' : Image), exec (.kennelWriteApply t) s = .next s' ∧ s'.m.tile t = { x with kwrites := rest, kennel := some im' } ∧
        im'.complete = rest.isEmpty ∧ im'.ctx.acc = im.ctx.acc ∧ im'.thr = im.thr ∧
        (∀ a, Memory.byte im'.ctx.store a = if a = w.addr then
            BitVec.ofNat 8 (((Memory.byte im.ctx.store a).toNat &&& (255 - w.mask)) ||| (w.val &&& w.mask))
          else Memory.byte im.ctx.store a) ∧ (∀ u, u ≠ t → s'.m.tile u = m.tile u)) ∧
    (¬ ready ∨ x.kennel = none → exec (.spill t) s = .next s) ∧
    (ready → x.kennel = some im →
      (m.freePlace im.part = none ∨ im.complete = false ∨ x.exchanging = true ∨ m.mustSpill t im = false →
        exec (.spill t) s = .next s) ∧
      (m.freePlace im.part = some n → im.complete = true → x.exchanging = false → m.mustSpill t im = true → m.quiet →
        ∃ s', exec (.spill t) s = .next s' ∧ (s'.m.tile t).kennel = none ∧ tget none (s'.m.part im.part).spilled n = some im ∧
          (∀ k, k ≠ n → tget none (s'.m.part im.part).spilled k = tget none (m.part im.part).spilled k) ∧
          s'.m.mem = (m.writeVa im.part ((m.part im.part).imgBase.toNat + 1389056 * n) (imageBytes im (m.imageCharea im))).mem ∧
          (∀ u, u ≠ t → s'.m.tile u = m.tile u))) ∧
    (¬ ready ∨ tget none (m.part p).spilled n = none → exec (.spillReturn p n t) s = .next s) ∧
    (ready → tget none (m.part p).spilled n = some im →
      (¬ wanted → exec (.spillReturn p n t) s = .next s) ∧
      (wanted → m.quiet → ∃ s', exec (.spillReturn p n t) s = .next s' ∧
        s'.m.tile t = { x with kennel := some (m.getImage p n im), slotFrom := false } ∧
        tget none (s'.m.part p).spilled n = none ∧ (∀ k, k ≠ n → tget none (s'.m.part p).spilled k = tget none (m.part p).spilled k) ∧
        (∀ u, u ≠ t → s'.m.tile u = m.tile u) ∧ s'.m.threads = m.threads ∧ s'.m.mem = m.mem)) ∧
    (∀ (k : Nat) (pl : ImagePlace) (more : List (Nat × ImagePlace)), m.parkedOn c p = (k, pl) :: more →
      let near := idle.find? (fun u => (m.tile u).kennel.isNone || decide (pl = .kennel u))
      let since := fun (u : TileId) => (m.tile u).idleAt.toNat
      (near = some dst → (pl, dst) ∈ m.claims c p) ∧
      (near = none → dst ∈ idle → k ≤ since dst → (∀ u ∈ idle, k ≤ since u → since dst < since u ∨ (since dst = since u ∧ dst.toNat ≤ u.toNat)) →
        (pl, dst) ∈ m.claims c p) ∧
      (near = none → more = [] → (∀ u ∈ idle, since u < k) → m.claims c p = [])) ∧
    (¬ ready ∨ (m.tile src).kennel = none → exec (.slotToSlotCopy src dst) s = .next s) ∧
    (ready → (m.tile src).kennel = some im →
      (¬ moves → exec (.slotToSlotCopy src dst) s = .next s) ∧
      (moves → m.quiet → im.level = 1 → im.ctx.owed = [] → ∃ s', exec (.slotToSlotCopy src dst) s = .next s' ∧
        (s'.m.tile src).kennel = none ∧ (s'.m.tile dst).bind = some { im.bind with part := im.part } ∧
        (s'.m.ctx dst).store = im.ctx.store ∧ (s'.m.ctx dst).acc = im.ctx.acc ∧ (s'.m.ctx dst).sems = im.ctx.sems ∧
        (s'.m.thr dst).g = im.thr.g ∧ (s'.m.thr dst).kstat = im.thr.kstat ∧ (s'.m.thr dst).sup = im.thr.sup ∧
        (∀ u, u ≠ src → u ≠ dst → s'.m.tile u = m.tile u) ∧ s'.m.mem = m.mem))

/-- R103, R105, R106, R108, R109, R111, R229: contexts move between tiles, slots and the image area. -/
def Obligations.ImagesAndExchanges : Prop := Claims.ContextExchanges ∧ Claims.ImageMoves

/-! ### Leases and the scrubber -/

/-- R33, R113, R114, R115, R117, R118, R119, R120: a lease of the unit whose turn it is takes a free entry; a scheduled one drains once its
unit is eligible, tests once the unit carries no traffic, and counts a tile out of its cluster; a channel's requests are held
slice by slice. -/
def Claims.LeasesBegin : Prop :=
  ∀ (s : State) (u : UnitId) (die : DieId) (n : Byte) (k : Nat),
    let m := s.m
    let r := m.entry die n.toNat
    let v := r.unit die
    let x := m.unit v
    let link := fun (m : Mach) => tget Link.reset (if v.kind = .module then m.modules else m.ports) v.unit.toNat
    let turn := s.fw.boot = .ready ∧ m.rotationTurn (unitDie u) u.kind = some u ∧ m.leasePending u = false
    let starts := s.orders = true ∧ leaseState r = 1 ∧ m.eligible v = true ∧ ¬ (bits r.d0.toNat 17 16 = 0 ∧ m.urgent die = true)
    let slice := v.kind = .channel ∧ x.slicing = false ∧ (leaseState r = 2 ∨ leaseState r = 3) ∧ x.slices < 500 ∧
      (x.slices = 0 ∨ 160000 ≤ (m.time - x.drainAt).toNat)
    (¬ turn → exec (.rotationDue u) s = .next s) ∧
    (turn → freeLease (m.die (unitDie u)).leases 256 = some k → ∃ s', exec (.rotationDue u) s = .next s' ∧
      (s'.m.unit u).lease = some k ∧ (s'.m.unit u).rotations = (m.unit u).rotations + 1 ∧
      (let e := (s'.m.entry (unitDie u) k).d0.toNat
       bits e 3 0 = 1 ∧ bits e 17 16 = 0 ∧ bits e 7 4 = kindCode u.kind ∧ bits e 15 8 = u.unit.toNat ∧
        bits e 39 32 = (m.unit u).score.toNat) ∧
      tget 0 (s'.m.die (unitDie u)).rotNext (kindCode u.kind) = u.unit.toNat + 1 ∧
      (u.unit.toNat < tget 0 (m.die (unitDie u)).rotNext (kindCode u.kind) →
        m.periodCycles u.kind ≤ (m.time - tget 0 (m.die (unitDie u)).rotAt (kindCode u.kind)).toNat ∧
        tget 0 (s'.m.die (unitDie u)).rotAt (kindCode u.kind) = m.time) ∧ s'.m.mem = m.mem ∧ s'.m.tiles = m.tiles) ∧
    (¬ starts → exec (.leaseDrainStart die n) s = .next s) ∧
    (starts → ∃ s', exec (.leaseDrainStart die n) s = .next s' ∧
      bits (s'.m.entry die n.toNat).d0.toNat 3 0 = 2 ∧ bits (s'.m.entry die n.toNat).d0.toNat 63 4 = bits r.d0.toNat 63 4 ∧
      (s'.m.unit v).drainAt = m.time ∧ (s'.m.unit v).slices = 0 ∧ (s'.m.unit v).score = x.score ∧ s'.m.tiles = m.tiles ∧
      s'.m.mem = m.mem ∧
      (v.kind = .module ∨ v.kind = .port → link s'.m =
        { link m with st := if (link m).st = .down then .leased else .draining }) ∧
      (v.kind = .tile ∨ v.kind = .channel → s'.m.modules = m.modules ∧ s'.m.ports = m.ports)) ∧
    (leaseState r ≠ 2 ∨ m.drained v = false → exec (.leaseTestingStart die n) s = .next s) ∧
    (leaseState r = 2 → m.drained v = true → ∃ s', exec (.leaseTestingStart die n) s = .next s' ∧
      bits (s'.m.entry die n.toNat).d0.toNat 3 0 = 3 ∧ (s'.m.entry die n.toNat).tstart = m.time ∧ s'.m.mem = m.mem ∧
      (v.kind = .tile → (s'.m.tile v.unit).service = .leased ∧
        (∀ t, t ≠ v.unit → (s'.m.tile t).service = (m.tile t).service) ∧
        ∀ t ∈ tilesOf (TileId.cluster v.unit), (s'.m.thr t).kcap = BitVec.ofNat 4 (s'.m.avail (TileId.cluster v.unit)) ∧
          ((m.thr t).sup.isSome = true → (s'.m.thr t).kevt = (m.thr t).kevt ||| 1)) ∧
      (v.kind = .module ∨ v.kind = .port → (link s'.m).st = .leased ∧ (link s'.m).lo.wire = [] ∧ (link s'.m).hi.wire = [] ∧
        (link s'.m).lo.buf = (link m).lo.buf ∧ (link s'.m).lo.e = (link m).lo.e)) ∧
    (slice → exec (.hbmTestSliceStart die n) s =
      .next { s with m := m.modUnit v (fun x => { x with slicing := true, slices := x.slices + 1 }) }) ∧
    (¬ slice → exec (.hbmTestSliceStart die n) s = .next s) ∧
    (leaseState r = 3 → v.kind = .channel → x.slicing = true → exec (.hbmTestSliceEnd die n) s =
      .next { s with m := m.modUnit v (fun x => { x with slicing := false, drainAt := m.time }) }) ∧
    (leaseState r ≠ 3 ∨ v.kind ≠ .channel ∨ x.slicing = false → exec (.hbmTestSliceEnd die n) s = .next s)

/-- R115, R121, R123, R124, R128, R129: how a lease ends: PASSED or MARGINAL returns the unit to service, a confirmation lease that
passes with the score at 128; FAILED, and MARGINAL under a confirmation lease, retires it with a drop record, which is shown in the lease
entry and kept once committed to its flash slot. -/
def Claims.LeasesEnd : Prop :=
  ∀ (s : State) (die : DieId) (n : Byte) (out : RunOutcome) (last : Bool) (synd : Dword) (d : DropRec) (rest : List DropRec),
    let m := s.m
    let r := m.entry die n.toNat
    let u := r.unit die
    let cause := bits r.d0.toNat 17 16
    let runs := leaseState r = 3 ∧ (u.kind = .channel → (m.unit u).slicing = true)
    let entry := fun (s' : State) (st : Nat) (synd : Dword) => let e := s'.m.entry die n.toNat
      bits e.d0.toNat 3 0 = st ∧ e.tend = m.time ∧ e.synd = synd ∧ e.tstart = r.tstart
    let served := fun (s' : State) => s'.fw = s.fw ∧ s'.m.mem = m.mem ∧ (s'.m.unit u).retired = (m.unit u).retired ∧
      (u.kind = .tile → (s'.m.tile u.unit).service = .inService)
    let retired := fun (s' : State) => (s'.m.unit u).retired = true ∧ s'.fw.dropSeq = s.fw.dropSeq + 1 ∧
      (∃ x, s'.fw.dropsHeld = s.fw.dropsHeld ++ [x] ∧ x.seq = s.fw.dropSeq) ∧
      (u.kind = .tile → (s'.m.tile u.unit).service = .retired)
    let d0 := ofBytes (d.bytes.take 8)
    let d4 := ofBytes ((d.bytes.drop 32).take 8)
    let du := unitNamed (kindOf (bits d0 42 40)) (BitVec.ofNat 8 (bits d4 7 0)) (BitVec.ofNat 2 (bits d4 9 8))
    let slot := tput ⟨0, []⟩ s.fw.dropsFlash (d.seq % 1024) d
    (¬ runs → exec (.patternRunComplete die n out last) s = .next s) ∧
    (runs →
      exec (.patternRunComplete die n .pass false) s = .next s ∧
      ((m.unit u).owed = false →
        (∃ s', exec (.patternRunComplete die n .pass true) s = .next s' ∧ entry s' 7 0 ∧ served s' ∧
          (s'.m.unit u).score = (if cause = 2 then 128 else (m.unit u).score) ∧ (s'.m.unit u).lease = none) ∧
        (cause ≠ 2 → (m.unit u).retired = false → (m.unit u).score.toNat + 48 < 64 →
          ∃ s', exec (.patternRunComplete die n (.marginal synd) last) s = .next s' ∧ entry s' 7 synd ∧ served s' ∧
            (s'.m.unit u).score.toNat = (m.unit u).score.toNat + 48 ∧ (s'.m.unit u).lease = none)) ∧
      (cause = 2 → ∃ s', exec (.patternRunComplete die n (.marginal synd) last) s = .next s' ∧ entry s' 5 synd ∧ retired s') ∧
      (∃ s', exec (.patternRunComplete die n (.fail synd) last) s = .next s' ∧ entry s' 6 synd ∧ retired s') ∧
      Completes (exec (.patternRunComplete die n out last) s)) ∧
    (s.fw.dropsHeld = [] → exec .dropRecordCommit s = .next s) ∧
    (s.fw.dropsHeld = d :: rest →
      (bits d0 51 48 ≠ 7 → bits d0 51 48 ≠ 8 → exec .dropRecordCommit s =
        .next { s with fw := { s.fw with dropsHeld := rest, dropsFlash := slot } }) ∧
      (bits d0 51 48 = 7 → ∃ w, exec .dropRecordCommit s = .next { s with fw := { s.fw with
          dropsHeld := rest, dropsFlash := slot, retiredFlash := ndel (unitKey du) s.fw.retiredFlash, withheldFlash := w } } ∧
        w = if du.kind = .channel then ndel (du.die.toNat * 96 + du.unit.toNat) s.fw.withheldFlash else s.fw.withheldFlash) ∧
      (bits d0 51 48 = 8 → ∃ s', exec .dropRecordCommit s = .next s' ∧
        s'.fw = { s.fw with dropsHeld := rest, dropsFlash := slot, retiredFlash := nins (unitKey du) s.fw.retiredFlash } ∧
        (let e := m.entry (unitDie du) (bits d4 31 24)
         leaseState e = 5 ∨ leaseState e = 6 → e.unit (BitVec.ofNat 2 (bits d4 9 8)) = du →
          leaseState (s'.m.entry (unitDie du) (bits d4 31 24)) = 8)))

/-- R33, R113 to R115, R117 to R121, R123, R124, R128, R129: how leases begin and end. Choices of the model: when RETIRED is shown (log
97), and when the first rotation period begins (log 142). -/
def Obligations.Leases : Prop := Claims.LeasesBegin ∧ Claims.LeasesEnd

/-- R122, R128, R136, R137: at the end of a rotation period, and not before, every score of the kind is noted and halved, and no other changes. The
scrubber queues the correction of an error it finds, in SRAM or in a channel's next sector, and the oldest correction is
written back. Choices of the model: the history takes the score before it is halved (log 95), a correction is void once its place has been
rewritten (log 105), and when the first period begins (log 142). -/
def Obligations.ScoresAndScrubber : Prop :=
  ∀ (s : State) (kind : UnitKind) (w : SramWord) (die : DieId) (ch : BitVec 7) (sec : Nat) (rest : List Scrub),
    let m := s.m
    let key := die.toNat * 96 + ch.toNat
    let pos := tget 0 m.scrubPos key
    let next := scrubSector die ch pos
    let moved := tput 0 m.scrubPos key ((pos + 1) % 23437500)
    let plain := ∀ d : DieId, m.counts d 0x20 = false ∧ m.counts d 0x21 = false
    let due := m.periodCycles kind ≤ (m.time - tget 0 m.periodAt (kindCode kind)).toNat
    let ended := tput 0 m.periodAt (kindCode kind) (tget 0 m.periodAt (kindCode kind) + BitVec.ofNat 64 (m.periodCycles kind))
    (¬ due → exec (.rotationPeriodEnd kind) s = .next s) ∧
    (due → ∃ s', exec (.rotationPeriodEnd kind) s = .next s' ∧ s' = { s with m := { m with units := s'.m.units, periodAt := ended } } ∧
      ∀ u, unitExists u = true → (u.kind = .module → u.die = 0) →
        let x := m.unit u
        let y := s'.m.unit u
        (u.kind = kind → y.score.toNat = x.score.toNat / 2 ∧
          y = { x with score := y.score, hist := (x.hist ++ [x.score]).drop (x.hist.length + 1 - 256) }) ∧
        (u.kind ≠ kind → y = x)) ∧
    (m.scrubbed w = false ∨ Scrub.word w ∈ m.scrubs → exec (.sramScrubRead w) s = .next s) ∧
    (m.scrubbed w = true → Scrub.word w ∉ m.scrubs → w ∈ m.sram1 → w ∉ m.sram2 →
      ∃ s', exec (.sramScrubRead w) s = .next s' ∧ s'.m.scrubs = m.scrubs ++ [.word w] ∧ w ∈ s'.m.sram1 ∧
        s'.m.mem = m.mem ∧ s'.m.threads = m.threads) ∧
    (96 ≤ ch.toNat → exec (.hbmScrubRead die ch) s = .next s) ∧
    (ch.toNat < 96 →
      (tget [] m.symErr next = [] ∨ Scrub.sector next ∈ m.scrubs → plain →
        exec (.hbmScrubRead die ch) s = .next { s with m := { m with scrubPos := moved } }) ∧
      (tget [] m.symErr next ≠ [] → Scrub.sector next ∉ m.scrubs →
        ∃ s', exec (.hbmScrubRead die ch) s = .next s' ∧ s'.m.scrubPos = moved ∧
          (∀ a, a / 64 ≠ next → Memory.byte s'.m.mem a = Memory.byte m.mem a) ∧
          (nhas s'.m.poisS next = false → s'.m.mem = m.mem → s'.m.scrubs = m.scrubs ++ [.sector next] ∧
            tget [] s'.m.symErr next = tget [] m.symErr next))) ∧
    (m.scrubs = [] → exec .scrubWriteback s = .next s) ∧
    (m.scrubs = .word w :: rest → exec .scrubWriteback s =
      .next { s with m := { m with scrubs := rest, sram1 := m.sram1.filter (fun x => x ≠ w) } }) ∧
    (m.scrubs = .sector sec :: rest → plain → exec .scrubWriteback s =
      .next { s with m := { m with scrubs := rest, symErr := tput [] m.symErr sec [] } })

/-! ### Steps, reset, whole-machine rules -/

/-- The word in memory at an address. -/
def Claims.wordAt (s : State) (pa : Nat) : Word := BitVec.ofNat 32 (Memory.read s.m.mem pa 4)

/-- It is the thread's turn, and nothing stands between it and its next fetch: no outstanding answer, halt, end, asynchronous
trap, single-step trap, launch exit or breakpoint. -/
def Claims.issues (s : State) : Prop :=
  s.turn.act = .issue ∧ s.m.resting s.turn.thread = false ∧ s.self.ended = false ∧ s.self.asyncs = [] ∧
    s.self.stepTrap = false ∧ s.self.atExit = false ∧ (s.self.st = .ready → s.self.breaks s.self.pc = false)

/-- The thread's fetch at `va` reads the clean word at `pa` of this package, which its instruction cache does not hold, once the
address has been looked up. -/
def Claims.reads (s : State) (va : Dword) (pa : Nat) : Prop :=
  let t := s.turn.thread
  let p := s.m.partOf t
  (∃ c, s.xlate va 4 .fetch = .ok (.here pa) c) ∧
    ifind (s.m.core (TileId.cluster t)) p (va.toNat / 64) = none ∧ va.toNat % 4 = 0 ∧ pa % 64 = va.toNat % 64 ∧
    grantOk (s.m.grants (paTarget pa).1 (paTarget pa).2 (masterMusher (TileId.cluster t))) .read = true ∧
    s.m.quiet ∧ s.m.poisoned (pa / 64 * 64) 64 = false

/-- R233, R151, R174: a step of a thread runs the instruction that the word at its pc, or that word and the next, decode to,
on a machine that differs by what the instruction cache and the TLB have taken in; a fetch that the walk, the access tables or poison
refuses traps instead, with KEPC and KTVAL at the pc. Then time passes (the model's own turn is log 3). -/
def Obligations.StepRunsDecoded : Prop :=
  ∀ (s : State) (pa pa2 : Nat), Claims.issues s →
    let pc := s.self.pc
    let t := s.turn.thread
    let w := Claims.wordAt s pa
    let l := s.looked pc
    let runs := fun (i : Instr) => ∃ cs ts, step s = ticked (exec i { s with m := { s.m with cores := cs, tlbs := ts } })
    let k := paTarget pa
    let master := masterMusher (TileId.cluster t)
    (Claims.reads l pc pa → isTwoWord w = false → runs (decodeWord w 0)) ∧
    (Claims.reads l pc pa → isTwoWord w = true → Claims.reads (l.looked (pc + 4)) (pc + 4) pa2 →
      ((pc + 4).toNat / 64 = pc.toNat / 64 → pa2 = pa + 4) → runs (decodeWord w (Claims.wordAt s pa2))) ∧
    (∀ data, (∃ c, l.xlate pc 4 .fetch = .ok (.here pa) c) →
      ifind (s.m.core (TileId.cluster t)) (s.m.partOf t) (pc.toNat / 64) = some data →
      let w := BitVec.ofNat 32 (ofBytes ((data.drop (pc.toNat % 64)).take 4))
      isTwoWord w = false → step s = ticked (exec (decodeWord w 0) l)) ∧
    (∀ f, l.xlate pc 4 .fetch = .bad f →
      step s = .next ({ l with m := l.m.takeTrap t Cause.fetch.code false false pc pc f }).tick) ∧
    ((∃ c, l.xlate pc 4 .fetch = .ok (.here pa) c) →
      ifind (s.m.core (TileId.cluster t)) (s.m.partOf t) (pc.toNat / 64) = none →
      (grantOk (l.m.grants k.1 k.2 master) .read = false →
        step s = .next ({ l with m := (l.m.violation (paDie pa) pa k.1 k.2 master false false).trapAt t .access pc 3 }).tick) ∧
      (grantOk (l.m.grants k.1 k.2 master) .read = true → s.m.quiet → s.m.poisoned pa 4 = true →
        step s = .next ({ l with m := l.m.trapAt t .poison pc 3 }).tick))

/-- R141, R71, R155, R312: what else a step runs: the latched block of a chain whose steps are due, else its latching, its
waits or its signals; the packet a queue holds; a node; an event; and before an instruction the asynchronous trap, or the MU.BRK
of a single step or of a breakpoint. Choices of the model: when an asynchronous trap waits (log 102), and that the breakpoint's match
comes before the fetch and the single-step trap before the launch exit (log 103). -/
def Obligations.StepRunsOthers : Prop :=
  ∀ (s : State) (i : Instr),
    let x := (s.m.ctx s.turn.tile).chain s.turn.eng
    let t := s.turn.thread
    let brk := step s = .next ({ s with m := s.m.trapAt t .brk s.self.pc }).tick
    (s.turn.act = .chain → x.st = .running →
      (x.latched = none → step s = ticked (exec (.blockLatch s.turn.tile s.turn.eng) s)) ∧
      (x.latched = some i → x.phase = .steps → step s = ticked (exec i s)) ∧
      (x.latched = some i → x.phase = .waits → step s = ticked (exec (.semaphoreWaitGrant s.turn.tile s.turn.eng) s)) ∧
      (x.latched = some i → x.phase = .signals → step s = ticked (exec (.iterationSignal s.turn.tile s.turn.eng) s))) ∧
    (s.turn.act = .packet → (s.m.queue s.turn.queue).held = some i → step s = ticked (exec i s)) ∧
    (s.turn.act = .node → step s = ticked (exec (.graphNodeDispatch s.turn.inst) s)) ∧
    (s.turn.act = .event i → i.isEvent = true → step s = ticked (exec i s)) ∧
    (s.turn.act = .issue → s.m.resting t = false → s.self.ended = false →
      (s.self.asyncs ≠ [] → s.self.midMultiple = false → step s = ticked (exec (.asyncTrapDelivery t) s)) ∧
      (s.self.asyncs = [] → s.self.stepTrap = true → brk) ∧
      (s.self.asyncs = [] → s.self.stepTrap = false → s.self.atExit = false → s.self.st = .ready →
        s.self.breaks s.self.pc = true → brk))

/-- The values the spec gives for reset: R308, R309, R310, R311, R312 (thread registers), R45, R46, R57, R53, R66, R114, R121,
R175 (aperture A as the physical function reads it), R16, R19, R36. -/
def Claims.ResetValues : Prop :=
  let s := State.reset
  (∀ t, let th := s.m.thr t
    th.kstat = 0 ∧ th.kcause = 0 ∧ th.kevt = 0 ∧ th.kcap = 8 ∧ th.ktdbg = 0 ∧ ∀ k, tget 0 th.kbpa k = 0) ∧
  s.readReg 0 0x18 = 0 ∧ s.readReg 0 0xA00000 = 2800 ∧ s.readReg 0 0xA00008 = 0 ∧ s.readReg 0 0xA00010 = 0 ∧
  s.readReg 0 0xA00018 = 0 ∧ (s.readReg 0 0).toNat % 2 ^ 32 = 0x10040 ∧
  (∀ k : Nat, k < 19 → s.readReg 0 (0x1000000 + 8 * k) = 0 ∧ s.readReg 0 (0x800000 + 8 * k) = 0) ∧
  (∀ q : Nat, q < 1024 → ∀ k : Nat, k < 8 →
    s.readReg 0 (0x100000 + 64 * q + 8 * k) = if k = 1 then BitVec.ofNat 64 (2 ^ 24 + 4) else 0) ∧
  (∀ p : Nat, p < 16 → ∀ r ∈ [0x4000, 0x4008, 0x4010, 0x4018, 0x4020, 0x4028, 0x4030],
    s.readReg 0 (0x400000 + 0x8000 * p + r) = if r = 0x4030 then 2 else 0) ∧
  (∀ d e : Nat, d < 4 → e < 256 → ∀ k : Nat, k < 4 → s.readReg 0 (0xC00000 + 0x2000 * d + 32 * e + 8 * k) = 0) ∧
  (∀ d k : Nat, d < 4 → k < 24 → s.readReg 0 (0xC11000 + 0x100 * d + 8 * k) = 0) ∧
  (∀ k, tget 0 s.m.knownBad k = 0) ∧ s.pwr.pcap = 2800 ∧ s.pwr.tstep = 0 ∧
  (∀ d k, tget 0 (s.m.die d).routing k = 0)

/-- R316 and R262 and the tables of R235: source forms and the words they assemble to. -/
def Obligations.DecodedWords : Prop :=
  (∀ x ∈ ([(0x05842800, .add 12 4 5), (0x58821010, .ldd 4 2 1 16), (0x8080FFFD, .beq 4 0 0xFFFD), (0x9C2C0000, .jalr 1 12 0 0),
      (0x78E9410C, .amoaddD 7 9 8 2), (0xA4006009, .fenceX 3 9), (0x78E94040, .amocasW 7 9 8 0), (0x7809504C, .aqadd 9 10 0),
      (0xA4004003, .fenceX 2 3), (0xA8042802, .iinv 4 5 2), (0xA8000100, .isync), (0xAC004801, .arrive 1 2 1),
      (0xB0004800, .waitb 1 2), (0xB4000002, .fork 2), (0xB400004C, .join 12), (0xB4060084, .semw 6 4),
      (0xB4E000C4, .semr 7 4), (0xB40C0103, .rcww 12 3), (0xB4080185, .layw 8 5), (0xB4060202, .acfg 6 2),
      (0xB4E60240, .evwait 7 6), (0xB8090082, .glret 9 2), (0xB88500C0, .tkpull 4 5), (0xB8040140, .signote 4),
      (0xC0E00009, .sysr 7 9), (0xC4060010, .sysw 6 0x10), (0xC8000021, .trap 0x21), (0xCC000000, .eret),
      (0xCC000001, .wfe), (0xCC000002, .brk), (0x34A60204, .bfx 5 6 4 4), (0x38A6043C, .bfxu 5 6 8 60),
      (0x3CA60638, .bfi 5 6 12 56), (0x72820EF6, .savem 20 2 0 29 0x76), (0xA0000000, .land false 0 0),
      (0xA0050051, .land true 1 0x51), (0x25A40003, .shlk 13 4 3), (0x9C0C4000, .jalr 0 12 1 0)] : List (Word × Instr)),
    decodeWord x.1 0 = x.2 ∧ isTwoWord x.1 = false) ∧
  (∀ x ∈ ([(0xF8C00000, 0x12345678, .li 6 0x12345678), (0xF8C10000, 0x89ABCDEF, .liu 6 0x89ABCDEF),
      (0xF8C20000, 0x01234567, .lihi 6 0x01234567), (0xF8040000, 0x00020004, .fenceC 2 4)] : List (Word × Word × Instr)),
    decodeWord x.1 x.2.1 = x.2.2 ∧ isTwoWord x.1 = true)

/-- R232, R235: every well-formed Musher instruction decodes from its words, which say how many they are; and every word of the
map is a well-formed instruction whose words are these: no bit is dropped and none is ignored. -/
def Obligations.MusherRoundTrip : Prop :=
  (∀ (i : Instr) (w : Word) (w2 : Option Word), i.WellFormed → encodeMusher i = some (w, w2) →
    decodeWord w (w2.getD 0) = i ∧ isTwoWord w = w2.isSome) ∧
  (∀ (w w2 : Word) (i : Instr), decMap w w2 = some i →
    i.WellFormed ∧ encodeMusher i = some (w, if isTwoWord w then some w2 else none))

/-- R71, R77 to R85, R237 to R246, R26: the same of packets, of loop blocks and of message headers. -/
def Obligations.RecordRoundTrips : Prop :=
  (∀ (i : Instr) (ds : List Dword) (node : Option Nat), encodePacket i = some ds → packetFieldsOk i node = true →
    decodePacket ds node = some i) ∧
  (∀ (i : Instr) (ds : List Dword) (node : Option Nat), ds.length = 8 → decodePacket ds node = some i →
    encodePacket i = some ds) ∧
  (∀ (i : Instr) (e : Eng) (c : Nat) (b : Block) (ds : List Dword), i.WellFormed → i.block? = some (c, b) → e.code = b.eng →
    encodeBlock i = some ds → decodeBlock e ds = .ok i) ∧
  (∀ (i : Instr) (e : Eng) (ds : List Dword), ds.length = 16 → decodeBlock e ds = .ok i → encodeBlock i = some ds) ∧
  (∀ (ms : List Msg) (n : Nat), (∀ x ∈ ms, x.data.length < 16) → ms.length ≤ n →
    decodeSlots n (ms.flatMap (fun x => encodeMsgHeader x :: x.data)) = some ms)

/-- R20: the power cap in force and the one to come stay between 1,200 W and 2,800 W in steps of 25 W, whatever a step does. -/
def Obligations.CapsInvariant : Prop := ∀ s s', s.pwr.capsOk → step s = .next s' → s'.pwr.capsOk

/-- R20: they do at reset. -/
def Claims.CapsAtReset : Prop := State.reset.pwr.capsOk

/-- Memory is in its canonical form at reset (log 1). -/
def Claims.MemoryAtReset : Prop := Memory.wf State.reset.m.mem ∧ Memory.wf State.reset.m.hostMem

/-- R16, R19, R20, R36, R45, R46, R53, R57, R66, R114, R121, R175, R308 to R312: what reset leaves, with the invariants below. -/
def Obligations.ResetState : Prop := Claims.ResetValues ∧ Claims.CapsAtReset ∧ Claims.MemoryAtReset

/-- The canonical form of memory, which the model keeps (R162; log 1): no step breaks it. -/
def Obligations.MemoryInvariant : Prop :=
  ∀ s s', Memory.wf s.m.mem ∧ Memory.wf s.m.hostMem → step s = .next s' → Memory.wf s'.m.mem ∧ Memory.wf s'.m.hostMem

/-- R60: the security version counter never falls: no instruction, packet, request, reset or power cycle lowers it. -/
def Obligations.SecurityVersionNeverFalls : Prop := ∀ s s', step s = .next s' → s.fw.svn.toNat ≤ s'.fw.svn.toNat

/-- R46, R60, R61: the device becomes READY only from BOOTED, with the image that runs; it becomes BOOTED, with Herder A active, only with an
image of a bank that verifies and whose security version is not below the counter, or with the image that ran already (a warm reset);
and while it is BOOTED Herder A and that image stay. -/
def Obligations.ReadyOnlyByBoot : Prop :=
  ∀ s s', step s = .next s' →
    let verified := fun (i : FwImage) => (s.fw.bank0.img = some i ∨ s.fw.bank1.img = some i) ∧
      Config.falconVerify (Config.shake256 i.bytes) i.sig = true ∧ s.fw.svn.toNat ≤ i.svn.toNat
    (s.fw.boot ≠ .ready → s'.fw.boot = .ready →
      s.fw.boot = .booted ∧ s'.m.herderB = s.m.herderB ∧ ∃ i, s.fw.running = some i ∧ s'.fw.running = some i) ∧
    (s.fw.boot ≠ .booted → s'.fw.boot = .booted →
      s'.m.herderB = false ∧ ∃ i, s'.fw.running = some i ∧ (verified i ∨ s.fw.running = some i)) ∧
    (s.fw.boot = .booted → s'.fw.boot = .booted → s.m.herderB = false →
      s'.m.herderB = false ∧ s'.fw.running = s.fw.running)
end

