-- ==== Sys2Proof/Laws/Table.lean ====
section
/-! SUPPORT. The laws of sparse tables and of byte memory: a read after a write, other keys untouched, the canonical
form kept. -/
namespace Sys2Proof.Machine

variable {α : Type}

@[simp] theorem tget_nil (d : α) (k : Nat) : tget d [] k = d := rfl

theorem tget_tdel_self (d : α) (t : Tbl α) (k : Nat) : tget d (tdel k t) k = d := by
  induction t with
  | nil => rfl
  | cons p r ih => obtain ⟨k', v⟩ := p; by_cases h : k' = k <;> simp [tdel, tget, h, ih]

theorem tget_tdel_ne (d : α) (t : Tbl α) {k j : Nat} (h : j ≠ k) : tget d (tdel k t) j = tget d t j := by
  induction t with
  | nil => rfl
  | cons p r ih =>
    obtain ⟨k', v⟩ := p
    by_cases hk : k' = k
    · have : k' ≠ j := fun e => h (e ▸ hk)
      simp [tdel, tget, hk, ih, Ne.symm h]
    · simp [tdel, tget, hk, ih]

theorem tget_tins_ne (d : α) (t : Tbl α) {k j : Nat} (v : α) (h : j ≠ k) : tget d (tins k v t) j = tget d t j := by
  induction t with
  | nil => simp [tins, tget, Ne.symm h]
  | cons p r ih =>
    obtain ⟨k', v'⟩ := p
    by_cases hk : k < k' <;> simp [tins, tget, hk, ih, Ne.symm h]

theorem tget_tins_self (d : α) (t : Tbl α) (k : Nat) (v : α) (h : ∀ p ∈ t, p.1 ≠ k) :
    tget d (tins k v t) k = v := by
  induction t with
  | nil => simp [tins, tget]
  | cons p r ih =>
    obtain ⟨k', v'⟩ := p
    have hk' : k' ≠ k := h (k', v') (by simp)
    by_cases hk : k < k'
    · simp [tins, tget, hk]
    · simp [tins, tget, hk, hk', ih fun q hq => h q (by simp [hq])]

theorem mem_tdel {t : Tbl α} {k : Nat} {p : Nat × α} : p ∈ tdel k t ↔ p ∈ t ∧ p.1 ≠ k := by
  induction t with
  | nil => simp [tdel]
  | cons q r ih =>
    obtain ⟨k', v'⟩ := q
    by_cases hk : k' = k
    · subst hk
      simp only [tdel, if_true, ih, List.mem_cons]
      constructor
      · rintro ⟨a, b⟩; exact ⟨.inr a, b⟩
      · rintro ⟨rfl | a, b⟩
        · exact absurd rfl b
        · exact ⟨a, b⟩
    · simp only [tdel, if_neg hk, List.mem_cons, ih]
      constructor
      · rintro (rfl | ⟨a, b⟩)
        · exact ⟨.inl rfl, hk⟩
        · exact ⟨.inr a, b⟩
      · rintro ⟨rfl | a, b⟩
        · exact .inl rfl
        · exact .inr ⟨a, b⟩

theorem mem_tins {t : Tbl α} {k : Nat} {v : α} {p : Nat × α} : p ∈ tins k v t ↔ p = (k, v) ∨ p ∈ t := by
  induction t with
  | nil => simp [tins]
  | cons q r ih =>
    obtain ⟨k', v'⟩ := q
    by_cases hk : k < k'
    · simp [tins, hk]
    · simp only [tins, if_neg hk, List.mem_cons, ih]; tauto

variable [DecidableEq α]

/-- A key reads what was last put there. -/
@[simp] theorem tget_tput_self (d : α) (t : Tbl α) (k : Nat) (v : α) : tget d (tput d t k v) k = v := by
  unfold tput
  split
  · rename_i h; rw [tget_tdel_self, h]
  · exact tget_tins_self _ _ _ _ fun p hp => (mem_tdel.mp hp).2

/-- Putting one key leaves every other key. -/
theorem tget_tput_ne (d : α) (t : Tbl α) {k j : Nat} (v : α) (h : j ≠ k) : tget d (tput d t k v) j = tget d t j := by
  unfold tput
  split
  · exact tget_tdel_ne _ _ h
  · rw [tget_tins_ne _ _ _ h, tget_tdel_ne _ _ h]

theorem tget_tput (d : α) (t : Tbl α) (k j : Nat) (v : α) :
    tget d (tput d t k v) j = if j = k then v else tget d t j := by
  by_cases h : j = k
  · subst h; simp
  · simp [h, tget_tput_ne d t v h]

omit [DecidableEq α] in
theorem pairwise_tdel {t : Tbl α} {k : Nat} (h : t.Pairwise (fun a b => a.1 < b.1)) :
    (tdel k t).Pairwise (fun a b => a.1 < b.1) := by
  induction t with
  | nil => simp [tdel]
  | cons q r ih =>
    obtain ⟨k', v'⟩ := q
    rw [List.pairwise_cons] at h
    by_cases hk : k' = k
    · simpa [tdel, hk] using ih h.2
    · simp only [tdel, if_neg hk, List.pairwise_cons]
      exact ⟨fun p hp => h.1 p (mem_tdel.mp hp).1, ih h.2⟩

omit [DecidableEq α] in
theorem pairwise_tins {t : Tbl α} {k : Nat} {v : α} (h : t.Pairwise (fun a b => a.1 < b.1))
    (hn : ∀ p ∈ t, p.1 ≠ k) : (tins k v t).Pairwise (fun a b => a.1 < b.1) := by
  induction t with
  | nil => simp [tins]
  | cons q r ih =>
    obtain ⟨k', v'⟩ := q
    have h' := List.pairwise_cons.mp h
    have hk' : k' ≠ k := hn (k', v') (by simp)
    by_cases hk : k < k'
    · simp only [tins, if_pos hk, List.pairwise_cons]
      refine ⟨?_, h'⟩
      intro p hp
      rcases List.mem_cons.mp hp with rfl | hp
      · exact hk
      · exact Nat.lt_trans hk (h'.1 p hp)
    · simp only [tins, if_neg hk, List.pairwise_cons]
      refine ⟨?_, ih h'.2 fun p hp => hn p (by simp [hp])⟩
      intro p hp
      rcases mem_tins.mp hp with rfl | hp
      · have : k ≠ k' := fun e => hk' e.symm
        show k' < k
        omega
      · exact h'.1 p hp

/-- Every write keeps the canonical form. -/
theorem twf_tput (d : α) {t : Tbl α} (h : twf d t) (k : Nat) (v : α) : twf d (tput d t k v) := by
  unfold tput
  split
  · exact ⟨pairwise_tdel h.1, fun p hp => h.2 p (mem_tdel.mp hp).1⟩
  · rename_i hv
    refine ⟨pairwise_tins (pairwise_tdel h.1) fun p hp => (mem_tdel.mp hp).2, fun p hp => ?_⟩
    rcases mem_tins.mp hp with rfl | hp
    · exact hv
    · exact h.2 p (mem_tdel.mp hp).1

omit [DecidableEq α] in
theorem twf_nil (d : α) : twf d ([] : Tbl α) := ⟨List.Pairwise.nil, by simp⟩

omit [DecidableEq α] in
theorem Memory.byte_setByte (m : Memory) (a b : Nat) (v : Byte) :
    Memory.byte (Memory.setByte m a v) b = if b = a then v else Memory.byte m b := tget_tput _ _ _ _ _

theorem Memory.wf_setByte {m : Memory} (h : Memory.wf m) (a : Nat) (v : Byte) : Memory.wf (Memory.setByte m a v) :=
  twf_tput _ h a v

theorem Memory.wf_writeBytes {m : Memory} (h : Memory.wf m) (a : Nat) (l : List Byte) :
    Memory.wf (Memory.writeBytes m a l) := by
  induction l generalizing m a with
  | nil => exact h
  | cons b r ih => exact ih (Memory.wf_setByte h a b) (a + 1)

theorem Memory.wf_write {m : Memory} (h : Memory.wf m) (a n v : Nat) : Memory.wf (Memory.write m a n v) :=
  Memory.wf_writeBytes h a _

/-- Bytes outside the written range keep their value. -/
theorem Memory.byte_writeBytes_out (m : Memory) (a : Nat) (l : List Byte) (b : Nat) (h : b < a ∨ a + l.length ≤ b) :
    Memory.byte (Memory.writeBytes m a l) b = Memory.byte m b := by
  induction l generalizing m a with
  | nil => rfl
  | cons c r ih =>
    simp only [List.length_cons] at h
    rw [Memory.writeBytes, ih _ _ (by omega), Memory.byte_setByte, if_neg (by omega)]

theorem length_toBytes (n v : Nat) : (toBytes n v).length = n := by
  induction n generalizing v with
  | zero => rfl
  | succ n ih => simp [toBytes, ih]

theorem Memory.byte_write_out (m : Memory) (a n v b : Nat) (h : b < a ∨ a + n ≤ b) :
    Memory.byte (Memory.write m a n v) b = Memory.byte m b :=
  Memory.byte_writeBytes_out _ _ _ _ (by rwa [length_toBytes])

theorem Memory.read_writeBytes_out (m : Memory) (a : Nat) (l : List Byte) (b n : Nat)
    (h : b + n ≤ a ∨ a + l.length ≤ b) : Memory.read (Memory.writeBytes m a l) b n = Memory.read m b n := by
  induction n generalizing b with
  | zero => rfl
  | succ n ih => rw [Memory.read, Memory.read, ih _ (by omega), Memory.byte_writeBytes_out _ _ _ _ (by omega)]

/-- A read after a write to the same place gives the value written. -/
theorem Memory.read_write_self (m : Memory) (a n v : Nat) : Memory.read (Memory.write m a n v) a n = v % 256 ^ n := by
  induction n generalizing m a v with
  | zero => simp [Memory.read, Nat.mod_one]
  | succ n ih =>
    have h1 : Memory.byte (Memory.write m a (n + 1) v) a = BitVec.ofNat 8 v := by
      rw [Memory.write, toBytes, Memory.writeBytes, Memory.byte_writeBytes_out _ _ _ _ (by omega),
        Memory.byte_setByte, if_pos rfl]
    have h2 : Memory.read (Memory.write m a (n + 1) v) (a + 1) n = v / 256 % 256 ^ n := by
      rw [Memory.write, toBytes, Memory.writeBytes]
      exact ih _ _ _
    rw [Memory.read, h1, h2, pow_succ, Nat.mul_comm (256 ^ n) 256, Nat.mod_mul]
    simp

end Sys2Proof.Machine
end

