-- ==== Sys2Proof/Laws/Registers.lean ====
section
/-! SUPPORT. Registers of a thread, the table of threads, and what an instruction of one destination register can do. -/
namespace Sys2Proof.Machine

@[simp] theorem Thread.rd_zero (th : Thread) : th.rd 0 = 0 := by simp [Thread.rd]

theorem Thread.rd_wr (th : Thread) (d r : Reg) (v : Dword) :
    (th.wr d v).rd r = if r = d ∧ r ≠ 0 then v else th.rd r := by
  unfold Thread.wr Thread.rd
  by_cases hr : r = 0
  · rw [if_pos hr, if_pos hr, if_neg (fun h => h.2 hr)]
  · rw [if_neg hr, if_neg hr]
    by_cases hd : d = 0
    · rw [if_pos hd, if_neg (fun h => hr (h.1.trans hd))]
    · rw [if_neg hd]
      by_cases h : r = d
      · rw [if_pos ⟨h, hr⟩, h]; exact tget_tput_self _ _ _ _
      · rw [if_neg (fun e => h e.1)]
        exact tget_tput_ne _ _ _ (fun e => h (BitVec.eq_of_toNat_eq e))

@[simp] theorem Thread.wr_zero (th : Thread) (v : Dword) : th.wr 0 v = th := by simp [Thread.wr]

/-- A write of a general register changes the register file alone. -/
theorem Thread.wr_eq (th : Thread) (d : Reg) (v : Dword) : th.wr d v = { th with g := (th.wr d v).g } := by
  unfold Thread.wr; split <;> rfl

@[simp] theorem Thread.wr_pc (th : Thread) (d : Reg) (v : Dword) : (th.wr d v).pc = th.pc := by
  rw [Thread.wr_eq]
@[simp] theorem Thread.wr_kstat (th : Thread) (d : Reg) (v : Dword) : (th.wr d v).kstat = th.kstat := by
  rw [Thread.wr_eq]
@[simp] theorem Thread.wr_ktdbg (th : Thread) (d : Reg) (v : Dword) : (th.wr d v).ktdbg = th.ktdbg := by
  rw [Thread.wr_eq]

@[simp] theorem Thread.finish_rd (th : Thread) (pc : Dword) (r : Reg) : (th.finish pc).rd r = th.rd r := rfl
@[simp] theorem Thread.finish_g (th : Thread) (pc : Dword) : (th.finish pc).g = th.g := rfl
@[simp] theorem Thread.finish_pc (th : Thread) (pc : Dword) : (th.finish pc).pc = pc := rfl
@[simp] theorem Thread.finish_st (th : Thread) (pc : Dword) : (th.finish pc).st = .ready := rfl

theorem completed_finish (th : Thread) (pc : Dword) : Completed th (th.finish pc) pc := rfl

theorem completed_wr_finish (th : Thread) (d : Reg) (v pc : Dword) : Completed th ((th.wr d v).finish pc) pc := by
  unfold Completed Thread.finish Thread.pl
  rw [Thread.wr_kstat, Thread.wr_ktdbg]
  conv => lhs; rw [Thread.wr_eq]

/-! ### The table of threads -/

@[simp] theorem Mach.thr_setThr_self (m : Mach) (t : TileId) (th : Thread) : (m.setThr t th).thr t = th := by
  simp [Mach.thr, Mach.setThr]

theorem Mach.thr_setThr_ne (m : Mach) {t u : TileId} (th : Thread) (h : u ≠ t) : (m.setThr t th).thr u = m.thr u := by
  have : u.toNat ≠ t.toNat := fun e => h (BitVec.eq_of_toNat_eq e)
  simp [Mach.thr, Mach.setThr, tget_tput_ne _ _ _ this]

@[simp] theorem Mach.thr_modThr_self (m : Mach) (t : TileId) (f : Thread → Thread) : (m.modThr t f).thr t = f (m.thr t) := by
  simp [Mach.modThr]

theorem Mach.thr_modThr_ne (m : Mach) {t u : TileId} (f : Thread → Thread) (h : u ≠ t) : (m.modThr t f).thr u = m.thr u :=
  Mach.thr_setThr_ne m _ h

/-- An action on the issuing thread touches no other thread and nothing else. -/
theorem onlySelf_onThread (s : State) (f : Thread → Thread) : OnlySelf s (s.onThread f) :=
  ⟨rfl, fun _ h => Mach.thr_modThr_ne _ _ h⟩

@[simp] theorem State.onThread_self (s : State) (f : Thread → Thread) : (s.onThread f).self = f s.self :=
  Mach.thr_modThr_self _ _ _

/-! ### What a completing instruction of one destination can do -/

theorem gives_of_setReg {i : Instr} {s : State} {d : Reg} {n v : Dword} {f : Thread → Dword}
    (h : exec i s = s.setReg d n f) (hv : f s.self = v) : Gives i s d v (s.self.pc + n) := by
  refine ⟨s.onThread (fun th => (th.wr d (f th)).finish (th.pc + n)), h, onlySelf_onThread _ _, ?_, ?_⟩
  · rw [State.onThread_self]; exact completed_wr_finish _ _ _ _
  · intro r; rw [State.onThread_self, Thread.finish_rd, Thread.rd_wr, hv]

theorem gives_of_alu {i : Instr} {s : State} {d a b : Reg} {v : Dword} {f : Dword → Dword → Dword}
    (h : exec i s = s.alu d a b f) (hv : f (s.self.rd a) (s.self.rd b) = v) : Gives i s d v (s.self.pc + 4) :=
  gives_of_setReg h hv

theorem gives_of_alu1 {i : Instr} {s : State} {d a : Reg} {v : Dword} {f : Dword → Dword}
    (h : exec i s = s.alu1 d a f) (hv : f (s.self.rd a) = v) : Gives i s d v (s.self.pc + 4) :=
  gives_of_setReg h hv

theorem moves_of_finish {i : Instr} {s : State} {pc : Dword}
    (h : exec i s = .next (s.onThread (fun th => th.finish pc))) : Moves i s pc :=
  ⟨_, h, onlySelf_onThread _ _, by rw [State.onThread_self]; exact completed_finish _ _, by rw [State.onThread_self]; rfl⟩

end Sys2Proof.Machine
end

