-- ==== Sys2Proof/Laws/Access.lean ====
section
/-! SUPPORT. What a Musher access of memory can do (R270-R273, R285): a load, a store into the write buffer, an atomic. -/
namespace Sys2Proof.Machine

/-- With no latent error the decoders change nothing. -/
theorem Mach.decodeRange_quiet {m : Mach} (h : m.quiet) (pa n : Nat) : m.decodeRange pa n = m := by
  unfold Mach.decodeRange
  split
  · exact if_pos h.1
  · exact if_pos ⟨h.2.1, h.2.2.1⟩

/-- With no counter that counts them, sectors, misses and walks change nothing. -/
theorem Mach.dieEvent_quiet {m : Mach} (h : m.quiet) (d : DieId) {src : Nat} (hs : src ∈ [0x0E, 0x20, 0x21, 0x22]) (n : Nat) :
    m.dieEvent d src n = m := by
  rw [Mach.dieEvent, h.2.2.2 src hs d]; rfl

theorem Mach.countSectors_quiet {m : Mach} (h : m.quiet) {src : Nat} (hs : src ∈ [0x0E, 0x20, 0x21, 0x22]) (pa n : Nat) :
    m.countSectors src pa n = m := by
  unfold Mach.countSectors
  split
  · exact Mach.dieEvent_quiet h _ hs _
  · rfl

/-- A quiet read of a memory port changes nothing. -/
theorem Mach.readPort_quiet {m : Mach} (h : m.quiet) (pa n : Nat) : m.readPort pa n = m := by
  rw [Mach.readPort, Mach.countSectors_quiet h (by decide), Mach.decodeRange_quiet h]

theorem Mach.countWrite_quiet {m : Mach} (h : m.quiet) (pa n : Nat) : m.countWrite pa n = m := by
  have hp : ∀ k, m.dieEvent (paDie pa) 0x20 k = m := fun k => Mach.dieEvent_quiet h _ (by decide) k
  simp only [Mach.countWrite, hp, ite_self, Mach.countSectors_quiet h (src := 0x21) (by decide)]

theorem youngest_eq_none {l : List WEntry} {p : Place} {n : Nat} (h : ∀ w ∈ l, overlaps p n w = false) :
    youngest l p n = none := by
  unfold youngest
  induction l with
  | nil => rfl
  | cons a l ih =>
    rw [List.foldl_cons, h a (List.mem_cons_self ..)]
    exact ih (fun w hw => h w (List.mem_cons_of_mem _ hw))

theorem dfind_eq_none {c : MCore} {k : Nat} (h : ∀ l ∈ c.dlines, l.line ≠ k) : dfind c k = none := by
  unfold dfind
  rw [List.find?_eq_none.mpr (fun l hl => by simpa using h l hl)]; rfl

theorem Mach.core_setCore_ne (m : Mach) {c k : ClusterId} (x : MCore) (h : k ≠ c) : (m.setCore c x).core k = m.core k :=
  tget_tput_ne _ _ _ (fun e => h (BitVec.eq_of_toNat_eq e))

@[simp] theorem Mach.core_setCore_self (m : Mach) (c : ClusterId) (x : MCore) : (m.setCore c x).core c = x :=
  tget_tput_self _ _ _ _

/-- A granted read of memory of this die without an error gives its bytes. -/
theorem Mach.readHere_ok {m : Mach} {pa n master : Nat}
    (hg : grantOk (m.grants (paTarget pa).1 (paTarget pa).2 master) .read = true) (he : m.quiet)
    (hp : m.poisoned pa n = false) : m.readHere pa n master = (0, Memory.read m.mem pa n, m) := by
  simp only [Mach.readHere, Mach.checkGrant, Mach.readPa, hg, if_true, Mach.readPort_quiet he, hp, Bool.not_true,
    Bool.false_eq_true, if_false]

/-- A load that reads memory of its die (R270): the value, and that at most a data-cache line of its cluster comes in. -/
theorem Mach.loadAt_memory {m : Mach} {t : TileId} {ea : Dword} {n : Nat} {cls : BitVec 4} {pa : Nat} {c : Bool} (fin : OFin)
    (hx : m.translate (.core (TileId.cluster t)) (m.partOf t) ea.toNat n .read (m.thr t).user = .ok (.here pa) c)
    (hd : paDie pa = TileId.die t)
    (hg : grantOk (m.grants (paTarget pa).1 (paTarget pa).2 (masterMusher (TileId.cluster t))) .read = true)
    (hf : (m.thr t).free cls) (hy : ∀ w ∈ (m.thr t).wbuf, overlaps (.here pa) n w = false)
    (hl : c = true → ∀ l ∈ (m.core (TileId.cluster t)).dlines, l.line ≠ pa / 64)
    (he : m.quiet) (hp : m.poisoned pa n = false) :
    m.loadAt t ea n cls fin = .val (Memory.read m.mem pa n)
        (m.dfill (TileId.cluster t) (pa / 64) (Memory.bytes m.mem (pa / 64 * 64) 64)) ∨
      m.loadAt t ea n cls fin = .val (Memory.read m.mem pa n) m := by
  have hn : (if c = true then Sys2Proof.Machine.dfind (m.core (TileId.cluster t)) (pa / 64) else none) = none := by
    cases c with
    | false => rfl
    | true => rw [if_pos rfl, dfind_eq_none (hl rfl)]
  simp only [Mach.loadAt, hx, hf.1, hf.2, youngest_eq_none hy, hn, hd, Mach.readHere_ok hg he hp,
    Mach.decodeRange_quiet he, ite_self, ne_eq, not_true_eq_false, if_false, Bool.false_eq_true, if_true]
  split
  · exact .inl rfl
  · exact .inr rfl

/-- A store that its page allows enters the write buffer (R270, R272). -/
theorem Mach.storeAt_buffers {m : Mach} {t : TileId} {ea : Dword} {n : Nat} {cls : BitVec 4} {v : Dword} {place : Place}
    {c : Bool} (hx : m.translate (.core (TileId.cluster t)) (m.partOf t) ea.toNat n .write (m.thr t).user = .ok place c)
    (hf : fenceHeld (m.thr t).wbuf cls = false) (hb : buffered (m.thr t).wbuf < 8) :
    m.storeAt t ea n cls v = .val 0 (m.modThr t (fun th =>
      { th with wbuf := th.wbuf ++ [⟨ea, place, n, zextLow v (8 * n), cls, 0, false, none⟩] })) := by
  simp only [Mach.storeAt, hx, hf, Bool.false_or, decide_eq_true_eq]
  rw [if_neg (by omega)]

/-- A store that cannot enter the buffer yet (R272). -/
theorem Mach.storeAt_stalls {m : Mach} {t : TileId} {ea : Dword} {n : Nat} {cls : BitVec 4} {v : Dword} {place : Place}
    {c : Bool} (hx : m.translate (.core (TileId.cluster t)) (m.partOf t) ea.toNat n .write (m.thr t).user = .ok place c)
    (hf : fenceHeld (m.thr t).wbuf cls = true ∨ 8 ≤ buffered (m.thr t).wbuf) : m.storeAt t ea n cls v = .stall m := by
  simp only [Mach.storeAt, hx]
  rw [if_pos (by rcases hf with h | h <;> simp [h])]

/-- Whole words in [pa, pa + n) that hold no poison leave the poison as it is. -/
theorem Mach.clearPoison_clean {m : Mach} {pa n : Nat} (hn : 0 < n) (he : m.quiet) (hp : m.poisoned pa n = false) :
    m.clearPoison pa n = m := by
  unfold Mach.clearPoison
  unfold Mach.poisoned at hp
  split at hp
  · rename_i hr
    rw [if_pos hr]
    split
    · rfl
    · have h1 : m.poisS.filter (fun s => !decide ((wholeUnits pa n 64).1 ≤ s ∧ s < (wholeUnits pa n 64).2)) = m.poisS := by
        rw [List.filter_eq_self]
        intro a ha
        have := List.any_eq_false.mp hp a ha
        rw [Bool.not_eq_true', decide_eq_false_iff_not]
        rintro ⟨h1, h2⟩
        refine this (decide_eq_true ⟨?_, ?_⟩) <;> simp only [wholeUnits] at h1 h2 <;> omega
      have h2 : m.symErr.filter (fun p => !decide ((wholeUnits pa n 64).1 ≤ p.1 ∧ p.1 < (wholeUnits pa n 64).2)) = m.symErr := by
        rw [he.1]; rfl
      dsimp only
      rw [h1, h2]
  · rename_i hr
    rw [if_neg hr]
    dsimp only
    have hd : m.dropMarks (fun w => (List.range ((wholeUnits pa n 8).2 - (wholeUnits pa n 8).1)).any
        (fun k => w = poolWord (8 * ((wholeUnits pa n 8).1 + k)))) = m := by
      unfold Mach.dropMarks; rw [if_pos ⟨he.2.1, he.2.2.1⟩]
    rw [hd]
    split
    · rfl
    · have h1 : m.poisW.filter (fun s => !decide ((wholeUnits pa n 8).1 ≤ s ∧ s < (wholeUnits pa n 8).2)) = m.poisW := by
        rw [List.filter_eq_self]
        intro a ha
        have := List.any_eq_false.mp hp a ha
        rw [Bool.not_eq_true', decide_eq_false_iff_not]
        rintro ⟨h1, h2⟩
        refine this (decide_eq_true ⟨?_, ?_⟩) <;> simp only [wholeUnits] at h1 h2 <;> omega
      rw [h1]

/-- A write of bytes that hold no poison and no error changes those bytes alone. -/
theorem Mach.writePa_clean {m : Mach} {pa : Nat} {bs : List Byte} (hn : 0 < bs.length) (he : m.quiet)
    (hp : m.poisoned pa bs.length = false) : m.writePa pa bs = { m with mem := Memory.writeBytes m.mem pa bs } := by
  rw [Mach.writePa, Mach.countWrite_quiet he, Mach.putPa, Mach.clearPoison_clean hn he hp, Mach.decodeRange_quiet he]

/-- An atomic on memory of its die (R285): the old value, and the memory after it. `m'` is the machine whose data cache has
dropped the line. -/
theorem Mach.amoAt_memory {m m' : Mach} {t : TileId} {ea : Dword} {op : Nat} {dw : Bool} {cls : BitVec 4} {b d : Dword} {pa : Nat}
    {c : Bool} (fin : OFin) (hm : m' = m.ddrop (TileId.cluster t) (pa / 64))
    (hx : m.translate (.core (TileId.cluster t)) (m.partOf t) ea.toNat (if dw then 8 else 4) .atomic (m.thr t).user = .ok (.here pa) c)
    (hd : paDie pa = TileId.die t)
    (hg : grantOk (m'.grants (paTarget pa).1 (paTarget pa).2 (masterMusher (TileId.cluster t))) .atomic = true)
    (hf : (m.thr t).free cls) (he : m'.quiet) (hp : m'.poisoned pa (if dw then 8 else 4) = false) :
    m.amoAt t ea op dw cls b d fin =
      .val (m'.amoPa pa op dw b.toNat d.toNat).1 (m'.amoPa pa op dw b.toNat d.toNat).2 := by
  subst hm
  simp only [Mach.amoAt, hx, hf.1, hf.2, hd, Mach.checkGrant, hg, Mach.readPort_quiet he, hp, if_false, Bool.or_false,
    Bool.false_eq_true, if_true, Bool.not_true]

end Sys2Proof.Machine
end

