-- ==== Sys2Proof/Laws/State.lean ====
section
/-! SUPPORT. What each named update of the machine leaves as it was, field by field, and what it writes: no proof needs to
unfold a record update. -/
namespace Sys2Proof.Machine

@[simp] theorem Mach.setThr_cores (m : Mach) (t : TileId) (x : Thread) : (m.setThr t x).cores = m.cores := rfl
@[simp] theorem Mach.setThr_tiles (m : Mach) (t : TileId) (x : Thread) : (m.setThr t x).tiles = m.tiles := rfl
@[simp] theorem Mach.setThr_dies (m : Mach) (t : TileId) (x : Thread) : (m.setThr t x).dies = m.dies := rfl
@[simp] theorem Mach.setThr_queues (m : Mach) (t : TileId) (x : Thread) : (m.setThr t x).queues = m.queues := rfl
@[simp] theorem Mach.setThr_works (m : Mach) (t : TileId) (x : Thread) : (m.setThr t x).works = m.works := rfl
@[simp] theorem Mach.setThr_insts (m : Mach) (t : TileId) (x : Thread) : (m.setThr t x).insts = m.insts := rfl
@[simp] theorem Mach.setThr_launches (m : Mach) (t : TileId) (x : Thread) : (m.setThr t x).launches = m.launches := rfl
@[simp] theorem Mach.setThr_parts (m : Mach) (t : TileId) (x : Thread) : (m.setThr t x).parts = m.parts := rfl
@[simp] theorem Mach.setThr_fqs (m : Mach) (t : TileId) (x : Thread) : (m.setThr t x).fqs = m.fqs := rfl
@[simp] theorem Mach.setThr_funcs (m : Mach) (t : TileId) (x : Thread) : (m.setThr t x).funcs = m.funcs := rfl
@[simp] theorem Mach.setThr_clusters (m : Mach) (t : TileId) (x : Thread) : (m.setThr t x).clusters = m.clusters := rfl
@[simp] theorem Mach.setThr_bars (m : Mach) (t : TileId) (x : Thread) : (m.setThr t x).bars = m.bars := rfl
@[simp] theorem Mach.setThr_units (m : Mach) (t : TileId) (x : Thread) : (m.setThr t x).units = m.units := rfl
@[simp] theorem Mach.setThr_mem (m : Mach) (t : TileId) (x : Thread) : (m.setThr t x).mem = m.mem := rfl
@[simp] theorem Mach.setThr_hostMem (m : Mach) (t : TileId) (x : Thread) : (m.setThr t x).hostMem = m.hostMem := rfl
@[simp] theorem Mach.setThr_time (m : Mach) (t : TileId) (x : Thread) : (m.setThr t x).time = m.time := rfl
@[simp] theorem Mach.setThr_slots (m : Mach) (t : TileId) (x : Thread) : (m.setThr t x).slots = m.slots := rfl
@[simp] theorem Mach.setThr_access (m : Mach) (t : TileId) (x : Thread) : (m.setThr t x).access = m.access := rfl
@[simp] theorem Mach.modThr_cores (m : Mach) (t : TileId) (f : Thread → Thread) : (m.modThr t f).cores = m.cores := rfl
@[simp] theorem Mach.modThr_tiles (m : Mach) (t : TileId) (f : Thread → Thread) : (m.modThr t f).tiles = m.tiles := rfl
@[simp] theorem Mach.modThr_dies (m : Mach) (t : TileId) (f : Thread → Thread) : (m.modThr t f).dies = m.dies := rfl
@[simp] theorem Mach.modThr_queues (m : Mach) (t : TileId) (f : Thread → Thread) : (m.modThr t f).queues = m.queues := rfl
@[simp] theorem Mach.modThr_works (m : Mach) (t : TileId) (f : Thread → Thread) : (m.modThr t f).works = m.works := rfl
@[simp] theorem Mach.modThr_insts (m : Mach) (t : TileId) (f : Thread → Thread) : (m.modThr t f).insts = m.insts := rfl
@[simp] theorem Mach.modThr_launches (m : Mach) (t : TileId) (f : Thread → Thread) : (m.modThr t f).launches = m.launches := rfl
@[simp] theorem Mach.modThr_parts (m : Mach) (t : TileId) (f : Thread → Thread) : (m.modThr t f).parts = m.parts := rfl
@[simp] theorem Mach.modThr_fqs (m : Mach) (t : TileId) (f : Thread → Thread) : (m.modThr t f).fqs = m.fqs := rfl
@[simp] theorem Mach.modThr_funcs (m : Mach) (t : TileId) (f : Thread → Thread) : (m.modThr t f).funcs = m.funcs := rfl
@[simp] theorem Mach.modThr_clusters (m : Mach) (t : TileId) (f : Thread → Thread) : (m.modThr t f).clusters = m.clusters := rfl
@[simp] theorem Mach.modThr_bars (m : Mach) (t : TileId) (f : Thread → Thread) : (m.modThr t f).bars = m.bars := rfl
@[simp] theorem Mach.modThr_units (m : Mach) (t : TileId) (f : Thread → Thread) : (m.modThr t f).units = m.units := rfl
@[simp] theorem Mach.modThr_mem (m : Mach) (t : TileId) (f : Thread → Thread) : (m.modThr t f).mem = m.mem := rfl
@[simp] theorem Mach.modThr_hostMem (m : Mach) (t : TileId) (f : Thread → Thread) : (m.modThr t f).hostMem = m.hostMem := rfl
@[simp] theorem Mach.modThr_time (m : Mach) (t : TileId) (f : Thread → Thread) : (m.modThr t f).time = m.time := rfl
@[simp] theorem Mach.modThr_slots (m : Mach) (t : TileId) (f : Thread → Thread) : (m.modThr t f).slots = m.slots := rfl
@[simp] theorem Mach.modThr_access (m : Mach) (t : TileId) (f : Thread → Thread) : (m.modThr t f).access = m.access := rfl
@[simp] theorem Mach.setCore_threads (m : Mach) (c : ClusterId) (x : MCore) : (m.setCore c x).threads = m.threads := rfl
@[simp] theorem Mach.setCore_tiles (m : Mach) (c : ClusterId) (x : MCore) : (m.setCore c x).tiles = m.tiles := rfl
@[simp] theorem Mach.setCore_dies (m : Mach) (c : ClusterId) (x : MCore) : (m.setCore c x).dies = m.dies := rfl
@[simp] theorem Mach.setCore_queues (m : Mach) (c : ClusterId) (x : MCore) : (m.setCore c x).queues = m.queues := rfl
@[simp] theorem Mach.setCore_works (m : Mach) (c : ClusterId) (x : MCore) : (m.setCore c x).works = m.works := rfl
@[simp] theorem Mach.setCore_insts (m : Mach) (c : ClusterId) (x : MCore) : (m.setCore c x).insts = m.insts := rfl
@[simp] theorem Mach.setCore_launches (m : Mach) (c : ClusterId) (x : MCore) : (m.setCore c x).launches = m.launches := rfl
@[simp] theorem Mach.setCore_parts (m : Mach) (c : ClusterId) (x : MCore) : (m.setCore c x).parts = m.parts := rfl
@[simp] theorem Mach.setCore_fqs (m : Mach) (c : ClusterId) (x : MCore) : (m.setCore c x).fqs = m.fqs := rfl
@[simp] theorem Mach.setCore_funcs (m : Mach) (c : ClusterId) (x : MCore) : (m.setCore c x).funcs = m.funcs := rfl
@[simp] theorem Mach.setCore_clusters (m : Mach) (c : ClusterId) (x : MCore) : (m.setCore c x).clusters = m.clusters := rfl
@[simp] theorem Mach.setCore_bars (m : Mach) (c : ClusterId) (x : MCore) : (m.setCore c x).bars = m.bars := rfl
@[simp] theorem Mach.setCore_units (m : Mach) (c : ClusterId) (x : MCore) : (m.setCore c x).units = m.units := rfl
@[simp] theorem Mach.setCore_mem (m : Mach) (c : ClusterId) (x : MCore) : (m.setCore c x).mem = m.mem := rfl
@[simp] theorem Mach.setCore_hostMem (m : Mach) (c : ClusterId) (x : MCore) : (m.setCore c x).hostMem = m.hostMem := rfl
@[simp] theorem Mach.setCore_time (m : Mach) (c : ClusterId) (x : MCore) : (m.setCore c x).time = m.time := rfl
@[simp] theorem Mach.setCore_slots (m : Mach) (c : ClusterId) (x : MCore) : (m.setCore c x).slots = m.slots := rfl
@[simp] theorem Mach.setCore_access (m : Mach) (c : ClusterId) (x : MCore) : (m.setCore c x).access = m.access := rfl
@[simp] theorem Mach.setTile_threads (m : Mach) (t : TileId) (x : Tile) : (m.setTile t x).threads = m.threads := rfl
@[simp] theorem Mach.setTile_cores (m : Mach) (t : TileId) (x : Tile) : (m.setTile t x).cores = m.cores := rfl
@[simp] theorem Mach.setTile_dies (m : Mach) (t : TileId) (x : Tile) : (m.setTile t x).dies = m.dies := rfl
@[simp] theorem Mach.setTile_queues (m : Mach) (t : TileId) (x : Tile) : (m.setTile t x).queues = m.queues := rfl
@[simp] theorem Mach.setTile_works (m : Mach) (t : TileId) (x : Tile) : (m.setTile t x).works = m.works := rfl
@[simp] theorem Mach.setTile_insts (m : Mach) (t : TileId) (x : Tile) : (m.setTile t x).insts = m.insts := rfl
@[simp] theorem Mach.setTile_launches (m : Mach) (t : TileId) (x : Tile) : (m.setTile t x).launches = m.launches := rfl
@[simp] theorem Mach.setTile_parts (m : Mach) (t : TileId) (x : Tile) : (m.setTile t x).parts = m.parts := rfl
@[simp] theorem Mach.setTile_fqs (m : Mach) (t : TileId) (x : Tile) : (m.setTile t x).fqs = m.fqs := rfl
@[simp] theorem Mach.setTile_funcs (m : Mach) (t : TileId) (x : Tile) : (m.setTile t x).funcs = m.funcs := rfl
@[simp] theorem Mach.setTile_clusters (m : Mach) (t : TileId) (x : Tile) : (m.setTile t x).clusters = m.clusters := rfl
@[simp] theorem Mach.setTile_bars (m : Mach) (t : TileId) (x : Tile) : (m.setTile t x).bars = m.bars := rfl
@[simp] theorem Mach.setTile_units (m : Mach) (t : TileId) (x : Tile) : (m.setTile t x).units = m.units := rfl
@[simp] theorem Mach.setTile_mem (m : Mach) (t : TileId) (x : Tile) : (m.setTile t x).mem = m.mem := rfl
@[simp] theorem Mach.setTile_hostMem (m : Mach) (t : TileId) (x : Tile) : (m.setTile t x).hostMem = m.hostMem := rfl
@[simp] theorem Mach.setTile_time (m : Mach) (t : TileId) (x : Tile) : (m.setTile t x).time = m.time := rfl
@[simp] theorem Mach.setTile_slots (m : Mach) (t : TileId) (x : Tile) : (m.setTile t x).slots = m.slots := rfl
@[simp] theorem Mach.setTile_access (m : Mach) (t : TileId) (x : Tile) : (m.setTile t x).access = m.access := rfl
@[simp] theorem Mach.modTile_threads (m : Mach) (t : TileId) (f : Tile → Tile) : (m.modTile t f).threads = m.threads := rfl
@[simp] theorem Mach.modTile_cores (m : Mach) (t : TileId) (f : Tile → Tile) : (m.modTile t f).cores = m.cores := rfl
@[simp] theorem Mach.modTile_dies (m : Mach) (t : TileId) (f : Tile → Tile) : (m.modTile t f).dies = m.dies := rfl
@[simp] theorem Mach.modTile_queues (m : Mach) (t : TileId) (f : Tile → Tile) : (m.modTile t f).queues = m.queues := rfl
@[simp] theorem Mach.modTile_works (m : Mach) (t : TileId) (f : Tile → Tile) : (m.modTile t f).works = m.works := rfl
@[simp] theorem Mach.modTile_insts (m : Mach) (t : TileId) (f : Tile → Tile) : (m.modTile t f).insts = m.insts := rfl
@[simp] theorem Mach.modTile_launches (m : Mach) (t : TileId) (f : Tile → Tile) : (m.modTile t f).launches = m.launches := rfl
@[simp] theorem Mach.modTile_parts (m : Mach) (t : TileId) (f : Tile → Tile) : (m.modTile t f).parts = m.parts := rfl
@[simp] theorem Mach.modTile_fqs (m : Mach) (t : TileId) (f : Tile → Tile) : (m.modTile t f).fqs = m.fqs := rfl
@[simp] theorem Mach.modTile_funcs (m : Mach) (t : TileId) (f : Tile → Tile) : (m.modTile t f).funcs = m.funcs := rfl
@[simp] theorem Mach.modTile_clusters (m : Mach) (t : TileId) (f : Tile → Tile) : (m.modTile t f).clusters = m.clusters := rfl
@[simp] theorem Mach.modTile_bars (m : Mach) (t : TileId) (f : Tile → Tile) : (m.modTile t f).bars = m.bars := rfl
@[simp] theorem Mach.modTile_units (m : Mach) (t : TileId) (f : Tile → Tile) : (m.modTile t f).units = m.units := rfl
@[simp] theorem Mach.modTile_mem (m : Mach) (t : TileId) (f : Tile → Tile) : (m.modTile t f).mem = m.mem := rfl
@[simp] theorem Mach.modTile_hostMem (m : Mach) (t : TileId) (f : Tile → Tile) : (m.modTile t f).hostMem = m.hostMem := rfl
@[simp] theorem Mach.modTile_time (m : Mach) (t : TileId) (f : Tile → Tile) : (m.modTile t f).time = m.time := rfl
@[simp] theorem Mach.modTile_slots (m : Mach) (t : TileId) (f : Tile → Tile) : (m.modTile t f).slots = m.slots := rfl
@[simp] theorem Mach.modTile_access (m : Mach) (t : TileId) (f : Tile → Tile) : (m.modTile t f).access = m.access := rfl
@[simp] theorem Mach.modCtx_threads (m : Mach) (t : TileId) (f : Ctx → Ctx) : (m.modCtx t f).threads = m.threads := rfl
@[simp] theorem Mach.modCtx_cores (m : Mach) (t : TileId) (f : Ctx → Ctx) : (m.modCtx t f).cores = m.cores := rfl
@[simp] theorem Mach.modCtx_dies (m : Mach) (t : TileId) (f : Ctx → Ctx) : (m.modCtx t f).dies = m.dies := rfl
@[simp] theorem Mach.modCtx_queues (m : Mach) (t : TileId) (f : Ctx → Ctx) : (m.modCtx t f).queues = m.queues := rfl
@[simp] theorem Mach.modCtx_works (m : Mach) (t : TileId) (f : Ctx → Ctx) : (m.modCtx t f).works = m.works := rfl
@[simp] theorem Mach.modCtx_insts (m : Mach) (t : TileId) (f : Ctx → Ctx) : (m.modCtx t f).insts = m.insts := rfl
@[simp] theorem Mach.modCtx_launches (m : Mach) (t : TileId) (f : Ctx → Ctx) : (m.modCtx t f).launches = m.launches := rfl
@[simp] theorem Mach.modCtx_parts (m : Mach) (t : TileId) (f : Ctx → Ctx) : (m.modCtx t f).parts = m.parts := rfl
@[simp] theorem Mach.modCtx_fqs (m : Mach) (t : TileId) (f : Ctx → Ctx) : (m.modCtx t f).fqs = m.fqs := rfl
@[simp] theorem Mach.modCtx_funcs (m : Mach) (t : TileId) (f : Ctx → Ctx) : (m.modCtx t f).funcs = m.funcs := rfl
@[simp] theorem Mach.modCtx_clusters (m : Mach) (t : TileId) (f : Ctx → Ctx) : (m.modCtx t f).clusters = m.clusters := rfl
@[simp] theorem Mach.modCtx_bars (m : Mach) (t : TileId) (f : Ctx → Ctx) : (m.modCtx t f).bars = m.bars := rfl
@[simp] theorem Mach.modCtx_units (m : Mach) (t : TileId) (f : Ctx → Ctx) : (m.modCtx t f).units = m.units := rfl
@[simp] theorem Mach.modCtx_mem (m : Mach) (t : TileId) (f : Ctx → Ctx) : (m.modCtx t f).mem = m.mem := rfl
@[simp] theorem Mach.modCtx_hostMem (m : Mach) (t : TileId) (f : Ctx → Ctx) : (m.modCtx t f).hostMem = m.hostMem := rfl
@[simp] theorem Mach.modCtx_time (m : Mach) (t : TileId) (f : Ctx → Ctx) : (m.modCtx t f).time = m.time := rfl
@[simp] theorem Mach.modCtx_slots (m : Mach) (t : TileId) (f : Ctx → Ctx) : (m.modCtx t f).slots = m.slots := rfl
@[simp] theorem Mach.modCtx_access (m : Mach) (t : TileId) (f : Ctx → Ctx) : (m.modCtx t f).access = m.access := rfl
@[simp] theorem Mach.modDie_threads (m : Mach) (d : DieId) (f : Die → Die) : (m.modDie d f).threads = m.threads := rfl
@[simp] theorem Mach.modDie_cores (m : Mach) (d : DieId) (f : Die → Die) : (m.modDie d f).cores = m.cores := rfl
@[simp] theorem Mach.modDie_tiles (m : Mach) (d : DieId) (f : Die → Die) : (m.modDie d f).tiles = m.tiles := rfl
@[simp] theorem Mach.modDie_queues (m : Mach) (d : DieId) (f : Die → Die) : (m.modDie d f).queues = m.queues := rfl
@[simp] theorem Mach.modDie_works (m : Mach) (d : DieId) (f : Die → Die) : (m.modDie d f).works = m.works := rfl
@[simp] theorem Mach.modDie_insts (m : Mach) (d : DieId) (f : Die → Die) : (m.modDie d f).insts = m.insts := rfl
@[simp] theorem Mach.modDie_launches (m : Mach) (d : DieId) (f : Die → Die) : (m.modDie d f).launches = m.launches := rfl
@[simp] theorem Mach.modDie_parts (m : Mach) (d : DieId) (f : Die → Die) : (m.modDie d f).parts = m.parts := rfl
@[simp] theorem Mach.modDie_fqs (m : Mach) (d : DieId) (f : Die → Die) : (m.modDie d f).fqs = m.fqs := rfl
@[simp] theorem Mach.modDie_funcs (m : Mach) (d : DieId) (f : Die → Die) : (m.modDie d f).funcs = m.funcs := rfl
@[simp] theorem Mach.modDie_clusters (m : Mach) (d : DieId) (f : Die → Die) : (m.modDie d f).clusters = m.clusters := rfl
@[simp] theorem Mach.modDie_bars (m : Mach) (d : DieId) (f : Die → Die) : (m.modDie d f).bars = m.bars := rfl
@[simp] theorem Mach.modDie_units (m : Mach) (d : DieId) (f : Die → Die) : (m.modDie d f).units = m.units := rfl
@[simp] theorem Mach.modDie_mem (m : Mach) (d : DieId) (f : Die → Die) : (m.modDie d f).mem = m.mem := rfl
@[simp] theorem Mach.modDie_hostMem (m : Mach) (d : DieId) (f : Die → Die) : (m.modDie d f).hostMem = m.hostMem := rfl
@[simp] theorem Mach.modDie_time (m : Mach) (d : DieId) (f : Die → Die) : (m.modDie d f).time = m.time := rfl
@[simp] theorem Mach.modDie_slots (m : Mach) (d : DieId) (f : Die → Die) : (m.modDie d f).slots = m.slots := rfl
@[simp] theorem Mach.modDie_access (m : Mach) (d : DieId) (f : Die → Die) : (m.modDie d f).access = m.access := rfl
@[simp] theorem Mach.modQueue_threads (m : Mach) (q : QueueId) (f : Queue → Queue) : (m.modQueue q f).threads = m.threads := rfl
@[simp] theorem Mach.modQueue_cores (m : Mach) (q : QueueId) (f : Queue → Queue) : (m.modQueue q f).cores = m.cores := rfl
@[simp] theorem Mach.modQueue_tiles (m : Mach) (q : QueueId) (f : Queue → Queue) : (m.modQueue q f).tiles = m.tiles := rfl
@[simp] theorem Mach.modQueue_dies (m : Mach) (q : QueueId) (f : Queue → Queue) : (m.modQueue q f).dies = m.dies := rfl
@[simp] theorem Mach.modQueue_works (m : Mach) (q : QueueId) (f : Queue → Queue) : (m.modQueue q f).works = m.works := rfl
@[simp] theorem Mach.modQueue_insts (m : Mach) (q : QueueId) (f : Queue → Queue) : (m.modQueue q f).insts = m.insts := rfl
@[simp] theorem Mach.modQueue_launches (m : Mach) (q : QueueId) (f : Queue → Queue) : (m.modQueue q f).launches = m.launches := rfl
@[simp] theorem Mach.modQueue_parts (m : Mach) (q : QueueId) (f : Queue → Queue) : (m.modQueue q f).parts = m.parts := rfl
@[simp] theorem Mach.modQueue_fqs (m : Mach) (q : QueueId) (f : Queue → Queue) : (m.modQueue q f).fqs = m.fqs := rfl
@[simp] theorem Mach.modQueue_funcs (m : Mach) (q : QueueId) (f : Queue → Queue) : (m.modQueue q f).funcs = m.funcs := rfl
@[simp] theorem Mach.modQueue_clusters (m : Mach) (q : QueueId) (f : Queue → Queue) : (m.modQueue q f).clusters = m.clusters := rfl
@[simp] theorem Mach.modQueue_bars (m : Mach) (q : QueueId) (f : Queue → Queue) : (m.modQueue q f).bars = m.bars := rfl
@[simp] theorem Mach.modQueue_units (m : Mach) (q : QueueId) (f : Queue → Queue) : (m.modQueue q f).units = m.units := rfl
@[simp] theorem Mach.modQueue_mem (m : Mach) (q : QueueId) (f : Queue → Queue) : (m.modQueue q f).mem = m.mem := rfl
@[simp] theorem Mach.modQueue_hostMem (m : Mach) (q : QueueId) (f : Queue → Queue) : (m.modQueue q f).hostMem = m.hostMem := rfl
@[simp] theorem Mach.modQueue_time (m : Mach) (q : QueueId) (f : Queue → Queue) : (m.modQueue q f).time = m.time := rfl
@[simp] theorem Mach.modQueue_slots (m : Mach) (q : QueueId) (f : Queue → Queue) : (m.modQueue q f).slots = m.slots := rfl
@[simp] theorem Mach.modQueue_access (m : Mach) (q : QueueId) (f : Queue → Queue) : (m.modQueue q f).access = m.access := rfl
@[simp] theorem Mach.setWork_threads (m : Mach) (w : Nat) (x : Option Work) : (m.setWork w x).threads = m.threads := rfl
@[simp] theorem Mach.setWork_cores (m : Mach) (w : Nat) (x : Option Work) : (m.setWork w x).cores = m.cores := rfl
@[simp] theorem Mach.setWork_tiles (m : Mach) (w : Nat) (x : Option Work) : (m.setWork w x).tiles = m.tiles := rfl
@[simp] theorem Mach.setWork_dies (m : Mach) (w : Nat) (x : Option Work) : (m.setWork w x).dies = m.dies := rfl
@[simp] theorem Mach.setWork_queues (m : Mach) (w : Nat) (x : Option Work) : (m.setWork w x).queues = m.queues := rfl
@[simp] theorem Mach.setWork_insts (m : Mach) (w : Nat) (x : Option Work) : (m.setWork w x).insts = m.insts := rfl
@[simp] theorem Mach.setWork_launches (m : Mach) (w : Nat) (x : Option Work) : (m.setWork w x).launches = m.launches := rfl
@[simp] theorem Mach.setWork_parts (m : Mach) (w : Nat) (x : Option Work) : (m.setWork w x).parts = m.parts := rfl
@[simp] theorem Mach.setWork_fqs (m : Mach) (w : Nat) (x : Option Work) : (m.setWork w x).fqs = m.fqs := rfl
@[simp] theorem Mach.setWork_funcs (m : Mach) (w : Nat) (x : Option Work) : (m.setWork w x).funcs = m.funcs := rfl
@[simp] theorem Mach.setWork_clusters (m : Mach) (w : Nat) (x : Option Work) : (m.setWork w x).clusters = m.clusters := rfl
@[simp] theorem Mach.setWork_bars (m : Mach) (w : Nat) (x : Option Work) : (m.setWork w x).bars = m.bars := rfl
@[simp] theorem Mach.setWork_units (m : Mach) (w : Nat) (x : Option Work) : (m.setWork w x).units = m.units := rfl
@[simp] theorem Mach.setWork_mem (m : Mach) (w : Nat) (x : Option Work) : (m.setWork w x).mem = m.mem := rfl
@[simp] theorem Mach.setWork_hostMem (m : Mach) (w : Nat) (x : Option Work) : (m.setWork w x).hostMem = m.hostMem := rfl
@[simp] theorem Mach.setWork_time (m : Mach) (w : Nat) (x : Option Work) : (m.setWork w x).time = m.time := rfl
@[simp] theorem Mach.setWork_slots (m : Mach) (w : Nat) (x : Option Work) : (m.setWork w x).slots = m.slots := rfl
@[simp] theorem Mach.setWork_access (m : Mach) (w : Nat) (x : Option Work) : (m.setWork w x).access = m.access := rfl
@[simp] theorem Mach.setInst_threads (m : Mach) (n : Nat) (x : Option Inst) : (m.setInst n x).threads = m.threads := rfl
@[simp] theorem Mach.setInst_cores (m : Mach) (n : Nat) (x : Option Inst) : (m.setInst n x).cores = m.cores := rfl
@[simp] theorem Mach.setInst_tiles (m : Mach) (n : Nat) (x : Option Inst) : (m.setInst n x).tiles = m.tiles := rfl
@[simp] theorem Mach.setInst_dies (m : Mach) (n : Nat) (x : Option Inst) : (m.setInst n x).dies = m.dies := rfl
@[simp] theorem Mach.setInst_queues (m : Mach) (n : Nat) (x : Option Inst) : (m.setInst n x).queues = m.queues := rfl
@[simp] theorem Mach.setInst_works (m : Mach) (n : Nat) (x : Option Inst) : (m.setInst n x).works = m.works := rfl
@[simp] theorem Mach.setInst_launches (m : Mach) (n : Nat) (x : Option Inst) : (m.setInst n x).launches = m.launches := rfl
@[simp] theorem Mach.setInst_parts (m : Mach) (n : Nat) (x : Option Inst) : (m.setInst n x).parts = m.parts := rfl
@[simp] theorem Mach.setInst_fqs (m : Mach) (n : Nat) (x : Option Inst) : (m.setInst n x).fqs = m.fqs := rfl
@[simp] theorem Mach.setInst_funcs (m : Mach) (n : Nat) (x : Option Inst) : (m.setInst n x).funcs = m.funcs := rfl
@[simp] theorem Mach.setInst_clusters (m : Mach) (n : Nat) (x : Option Inst) : (m.setInst n x).clusters = m.clusters := rfl
@[simp] theorem Mach.setInst_bars (m : Mach) (n : Nat) (x : Option Inst) : (m.setInst n x).bars = m.bars := rfl
@[simp] theorem Mach.setInst_units (m : Mach) (n : Nat) (x : Option Inst) : (m.setInst n x).units = m.units := rfl
@[simp] theorem Mach.setInst_mem (m : Mach) (n : Nat) (x : Option Inst) : (m.setInst n x).mem = m.mem := rfl
@[simp] theorem Mach.setInst_hostMem (m : Mach) (n : Nat) (x : Option Inst) : (m.setInst n x).hostMem = m.hostMem := rfl
@[simp] theorem Mach.setInst_time (m : Mach) (n : Nat) (x : Option Inst) : (m.setInst n x).time = m.time := rfl
@[simp] theorem Mach.setInst_slots (m : Mach) (n : Nat) (x : Option Inst) : (m.setInst n x).slots = m.slots := rfl
@[simp] theorem Mach.setInst_access (m : Mach) (n : Nat) (x : Option Inst) : (m.setInst n x).access = m.access := rfl
@[simp] theorem Mach.setLaunch_threads (m : Mach) (l : Word) (x : Option Launch) : (m.setLaunch l x).threads = m.threads := rfl
@[simp] theorem Mach.setLaunch_cores (m : Mach) (l : Word) (x : Option Launch) : (m.setLaunch l x).cores = m.cores := rfl
@[simp] theorem Mach.setLaunch_tiles (m : Mach) (l : Word) (x : Option Launch) : (m.setLaunch l x).tiles = m.tiles := rfl
@[simp] theorem Mach.setLaunch_dies (m : Mach) (l : Word) (x : Option Launch) : (m.setLaunch l x).dies = m.dies := rfl
@[simp] theorem Mach.setLaunch_queues (m : Mach) (l : Word) (x : Option Launch) : (m.setLaunch l x).queues = m.queues := rfl
@[simp] theorem Mach.setLaunch_works (m : Mach) (l : Word) (x : Option Launch) : (m.setLaunch l x).works = m.works := rfl
@[simp] theorem Mach.setLaunch_insts (m : Mach) (l : Word) (x : Option Launch) : (m.setLaunch l x).insts = m.insts := rfl
@[simp] theorem Mach.setLaunch_parts (m : Mach) (l : Word) (x : Option Launch) : (m.setLaunch l x).parts = m.parts := rfl
@[simp] theorem Mach.setLaunch_fqs (m : Mach) (l : Word) (x : Option Launch) : (m.setLaunch l x).fqs = m.fqs := rfl
@[simp] theorem Mach.setLaunch_funcs (m : Mach) (l : Word) (x : Option Launch) : (m.setLaunch l x).funcs = m.funcs := rfl
@[simp] theorem Mach.setLaunch_clusters (m : Mach) (l : Word) (x : Option Launch) : (m.setLaunch l x).clusters = m.clusters := rfl
@[simp] theorem Mach.setLaunch_bars (m : Mach) (l : Word) (x : Option Launch) : (m.setLaunch l x).bars = m.bars := rfl
@[simp] theorem Mach.setLaunch_units (m : Mach) (l : Word) (x : Option Launch) : (m.setLaunch l x).units = m.units := rfl
@[simp] theorem Mach.setLaunch_mem (m : Mach) (l : Word) (x : Option Launch) : (m.setLaunch l x).mem = m.mem := rfl
@[simp] theorem Mach.setLaunch_hostMem (m : Mach) (l : Word) (x : Option Launch) : (m.setLaunch l x).hostMem = m.hostMem := rfl
@[simp] theorem Mach.setLaunch_time (m : Mach) (l : Word) (x : Option Launch) : (m.setLaunch l x).time = m.time := rfl
@[simp] theorem Mach.setLaunch_slots (m : Mach) (l : Word) (x : Option Launch) : (m.setLaunch l x).slots = m.slots := rfl
@[simp] theorem Mach.setLaunch_access (m : Mach) (l : Word) (x : Option Launch) : (m.setLaunch l x).access = m.access := rfl
@[simp] theorem Mach.modPart_threads (m : Mach) (p : PartId) (f : Partition → Partition) : (m.modPart p f).threads = m.threads := rfl
@[simp] theorem Mach.modPart_cores (m : Mach) (p : PartId) (f : Partition → Partition) : (m.modPart p f).cores = m.cores := rfl
@[simp] theorem Mach.modPart_tiles (m : Mach) (p : PartId) (f : Partition → Partition) : (m.modPart p f).tiles = m.tiles := rfl
@[simp] theorem Mach.modPart_dies (m : Mach) (p : PartId) (f : Partition → Partition) : (m.modPart p f).dies = m.dies := rfl
@[simp] theorem Mach.modPart_queues (m : Mach) (p : PartId) (f : Partition → Partition) : (m.modPart p f).queues = m.queues := rfl
@[simp] theorem Mach.modPart_works (m : Mach) (p : PartId) (f : Partition → Partition) : (m.modPart p f).works = m.works := rfl
@[simp] theorem Mach.modPart_insts (m : Mach) (p : PartId) (f : Partition → Partition) : (m.modPart p f).insts = m.insts := rfl
@[simp] theorem Mach.modPart_launches (m : Mach) (p : PartId) (f : Partition → Partition) : (m.modPart p f).launches = m.launches := rfl
@[simp] theorem Mach.modPart_fqs (m : Mach) (p : PartId) (f : Partition → Partition) : (m.modPart p f).fqs = m.fqs := rfl
@[simp] theorem Mach.modPart_funcs (m : Mach) (p : PartId) (f : Partition → Partition) : (m.modPart p f).funcs = m.funcs := rfl
@[simp] theorem Mach.modPart_clusters (m : Mach) (p : PartId) (f : Partition → Partition) : (m.modPart p f).clusters = m.clusters := rfl
@[simp] theorem Mach.modPart_bars (m : Mach) (p : PartId) (f : Partition → Partition) : (m.modPart p f).bars = m.bars := rfl
@[simp] theorem Mach.modPart_units (m : Mach) (p : PartId) (f : Partition → Partition) : (m.modPart p f).units = m.units := rfl
@[simp] theorem Mach.modPart_mem (m : Mach) (p : PartId) (f : Partition → Partition) : (m.modPart p f).mem = m.mem := rfl
@[simp] theorem Mach.modPart_hostMem (m : Mach) (p : PartId) (f : Partition → Partition) : (m.modPart p f).hostMem = m.hostMem := rfl
@[simp] theorem Mach.modPart_time (m : Mach) (p : PartId) (f : Partition → Partition) : (m.modPart p f).time = m.time := rfl
@[simp] theorem Mach.modPart_slots (m : Mach) (p : PartId) (f : Partition → Partition) : (m.modPart p f).slots = m.slots := rfl
@[simp] theorem Mach.modPart_access (m : Mach) (p : PartId) (f : Partition → Partition) : (m.modPart p f).access = m.access := rfl
@[simp] theorem Mach.modFq_threads (m : Mach) (p : PartId) (f : FQ → FQ) : (m.modFq p f).threads = m.threads := rfl
@[simp] theorem Mach.modFq_cores (m : Mach) (p : PartId) (f : FQ → FQ) : (m.modFq p f).cores = m.cores := rfl
@[simp] theorem Mach.modFq_tiles (m : Mach) (p : PartId) (f : FQ → FQ) : (m.modFq p f).tiles = m.tiles := rfl
@[simp] theorem Mach.modFq_dies (m : Mach) (p : PartId) (f : FQ → FQ) : (m.modFq p f).dies = m.dies := rfl
@[simp] theorem Mach.modFq_queues (m : Mach) (p : PartId) (f : FQ → FQ) : (m.modFq p f).queues = m.queues := rfl
@[simp] theorem Mach.modFq_works (m : Mach) (p : PartId) (f : FQ → FQ) : (m.modFq p f).works = m.works := rfl
@[simp] theorem Mach.modFq_insts (m : Mach) (p : PartId) (f : FQ → FQ) : (m.modFq p f).insts = m.insts := rfl
@[simp] theorem Mach.modFq_launches (m : Mach) (p : PartId) (f : FQ → FQ) : (m.modFq p f).launches = m.launches := rfl
@[simp] theorem Mach.modFq_parts (m : Mach) (p : PartId) (f : FQ → FQ) : (m.modFq p f).parts = m.parts := rfl
@[simp] theorem Mach.modFq_funcs (m : Mach) (p : PartId) (f : FQ → FQ) : (m.modFq p f).funcs = m.funcs := rfl
@[simp] theorem Mach.modFq_clusters (m : Mach) (p : PartId) (f : FQ → FQ) : (m.modFq p f).clusters = m.clusters := rfl
@[simp] theorem Mach.modFq_bars (m : Mach) (p : PartId) (f : FQ → FQ) : (m.modFq p f).bars = m.bars := rfl
@[simp] theorem Mach.modFq_units (m : Mach) (p : PartId) (f : FQ → FQ) : (m.modFq p f).units = m.units := rfl
@[simp] theorem Mach.modFq_mem (m : Mach) (p : PartId) (f : FQ → FQ) : (m.modFq p f).mem = m.mem := rfl
@[simp] theorem Mach.modFq_hostMem (m : Mach) (p : PartId) (f : FQ → FQ) : (m.modFq p f).hostMem = m.hostMem := rfl
@[simp] theorem Mach.modFq_time (m : Mach) (p : PartId) (f : FQ → FQ) : (m.modFq p f).time = m.time := rfl
@[simp] theorem Mach.modFq_slots (m : Mach) (p : PartId) (f : FQ → FQ) : (m.modFq p f).slots = m.slots := rfl
@[simp] theorem Mach.modFq_access (m : Mach) (p : PartId) (f : FQ → FQ) : (m.modFq p f).access = m.access := rfl
@[simp] theorem Mach.modFunc_threads (m : Mach) (n : FuncId) (f : Func → Func) : (m.modFunc n f).threads = m.threads := rfl
@[simp] theorem Mach.modFunc_cores (m : Mach) (n : FuncId) (f : Func → Func) : (m.modFunc n f).cores = m.cores := rfl
@[simp] theorem Mach.modFunc_tiles (m : Mach) (n : FuncId) (f : Func → Func) : (m.modFunc n f).tiles = m.tiles := rfl
@[simp] theorem Mach.modFunc_dies (m : Mach) (n : FuncId) (f : Func → Func) : (m.modFunc n f).dies = m.dies := rfl
@[simp] theorem Mach.modFunc_queues (m : Mach) (n : FuncId) (f : Func → Func) : (m.modFunc n f).queues = m.queues := rfl
@[simp] theorem Mach.modFunc_works (m : Mach) (n : FuncId) (f : Func → Func) : (m.modFunc n f).works = m.works := rfl
@[simp] theorem Mach.modFunc_insts (m : Mach) (n : FuncId) (f : Func → Func) : (m.modFunc n f).insts = m.insts := rfl
@[simp] theorem Mach.modFunc_launches (m : Mach) (n : FuncId) (f : Func → Func) : (m.modFunc n f).launches = m.launches := rfl
@[simp] theorem Mach.modFunc_parts (m : Mach) (n : FuncId) (f : Func → Func) : (m.modFunc n f).parts = m.parts := rfl
@[simp] theorem Mach.modFunc_fqs (m : Mach) (n : FuncId) (f : Func → Func) : (m.modFunc n f).fqs = m.fqs := rfl
@[simp] theorem Mach.modFunc_clusters (m : Mach) (n : FuncId) (f : Func → Func) : (m.modFunc n f).clusters = m.clusters := rfl
@[simp] theorem Mach.modFunc_bars (m : Mach) (n : FuncId) (f : Func → Func) : (m.modFunc n f).bars = m.bars := rfl
@[simp] theorem Mach.modFunc_units (m : Mach) (n : FuncId) (f : Func → Func) : (m.modFunc n f).units = m.units := rfl
@[simp] theorem Mach.modFunc_mem (m : Mach) (n : FuncId) (f : Func → Func) : (m.modFunc n f).mem = m.mem := rfl
@[simp] theorem Mach.modFunc_hostMem (m : Mach) (n : FuncId) (f : Func → Func) : (m.modFunc n f).hostMem = m.hostMem := rfl
@[simp] theorem Mach.modFunc_time (m : Mach) (n : FuncId) (f : Func → Func) : (m.modFunc n f).time = m.time := rfl
@[simp] theorem Mach.modFunc_slots (m : Mach) (n : FuncId) (f : Func → Func) : (m.modFunc n f).slots = m.slots := rfl
@[simp] theorem Mach.modFunc_access (m : Mach) (n : FuncId) (f : Func → Func) : (m.modFunc n f).access = m.access := rfl
@[simp] theorem Mach.modClu_threads (m : Mach) (c : ClusterId) (f : CluEntry → CluEntry) : (m.modClu c f).threads = m.threads := rfl
@[simp] theorem Mach.modClu_cores (m : Mach) (c : ClusterId) (f : CluEntry → CluEntry) : (m.modClu c f).cores = m.cores := rfl
@[simp] theorem Mach.modClu_tiles (m : Mach) (c : ClusterId) (f : CluEntry → CluEntry) : (m.modClu c f).tiles = m.tiles := rfl
@[simp] theorem Mach.modClu_dies (m : Mach) (c : ClusterId) (f : CluEntry → CluEntry) : (m.modClu c f).dies = m.dies := rfl
@[simp] theorem Mach.modClu_queues (m : Mach) (c : ClusterId) (f : CluEntry → CluEntry) : (m.modClu c f).queues = m.queues := rfl
@[simp] theorem Mach.modClu_works (m : Mach) (c : ClusterId) (f : CluEntry → CluEntry) : (m.modClu c f).works = m.works := rfl
@[simp] theorem Mach.modClu_insts (m : Mach) (c : ClusterId) (f : CluEntry → CluEntry) : (m.modClu c f).insts = m.insts := rfl
@[simp] theorem Mach.modClu_launches (m : Mach) (c : ClusterId) (f : CluEntry → CluEntry) : (m.modClu c f).launches = m.launches := rfl
@[simp] theorem Mach.modClu_parts (m : Mach) (c : ClusterId) (f : CluEntry → CluEntry) : (m.modClu c f).parts = m.parts := rfl
@[simp] theorem Mach.modClu_fqs (m : Mach) (c : ClusterId) (f : CluEntry → CluEntry) : (m.modClu c f).fqs = m.fqs := rfl
@[simp] theorem Mach.modClu_funcs (m : Mach) (c : ClusterId) (f : CluEntry → CluEntry) : (m.modClu c f).funcs = m.funcs := rfl
@[simp] theorem Mach.modClu_bars (m : Mach) (c : ClusterId) (f : CluEntry → CluEntry) : (m.modClu c f).bars = m.bars := rfl
@[simp] theorem Mach.modClu_units (m : Mach) (c : ClusterId) (f : CluEntry → CluEntry) : (m.modClu c f).units = m.units := rfl
@[simp] theorem Mach.modClu_mem (m : Mach) (c : ClusterId) (f : CluEntry → CluEntry) : (m.modClu c f).mem = m.mem := rfl
@[simp] theorem Mach.modClu_hostMem (m : Mach) (c : ClusterId) (f : CluEntry → CluEntry) : (m.modClu c f).hostMem = m.hostMem := rfl
@[simp] theorem Mach.modClu_time (m : Mach) (c : ClusterId) (f : CluEntry → CluEntry) : (m.modClu c f).time = m.time := rfl
@[simp] theorem Mach.modClu_slots (m : Mach) (c : ClusterId) (f : CluEntry → CluEntry) : (m.modClu c f).slots = m.slots := rfl
@[simp] theorem Mach.modClu_access (m : Mach) (c : ClusterId) (f : CluEntry → CluEntry) : (m.modClu c f).access = m.access := rfl
@[simp] theorem Mach.setBar_threads (m : Mach) (b : BarId) (x : Bar) : (m.setBar b x).threads = m.threads := rfl
@[simp] theorem Mach.setBar_cores (m : Mach) (b : BarId) (x : Bar) : (m.setBar b x).cores = m.cores := rfl
@[simp] theorem Mach.setBar_tiles (m : Mach) (b : BarId) (x : Bar) : (m.setBar b x).tiles = m.tiles := rfl
@[simp] theorem Mach.setBar_dies (m : Mach) (b : BarId) (x : Bar) : (m.setBar b x).dies = m.dies := rfl
@[simp] theorem Mach.setBar_queues (m : Mach) (b : BarId) (x : Bar) : (m.setBar b x).queues = m.queues := rfl
@[simp] theorem Mach.setBar_works (m : Mach) (b : BarId) (x : Bar) : (m.setBar b x).works = m.works := rfl
@[simp] theorem Mach.setBar_insts (m : Mach) (b : BarId) (x : Bar) : (m.setBar b x).insts = m.insts := rfl
@[simp] theorem Mach.setBar_launches (m : Mach) (b : BarId) (x : Bar) : (m.setBar b x).launches = m.launches := rfl
@[simp] theorem Mach.setBar_parts (m : Mach) (b : BarId) (x : Bar) : (m.setBar b x).parts = m.parts := rfl
@[simp] theorem Mach.setBar_fqs (m : Mach) (b : BarId) (x : Bar) : (m.setBar b x).fqs = m.fqs := rfl
@[simp] theorem Mach.setBar_funcs (m : Mach) (b : BarId) (x : Bar) : (m.setBar b x).funcs = m.funcs := rfl
@[simp] theorem Mach.setBar_clusters (m : Mach) (b : BarId) (x : Bar) : (m.setBar b x).clusters = m.clusters := rfl
@[simp] theorem Mach.setBar_units (m : Mach) (b : BarId) (x : Bar) : (m.setBar b x).units = m.units := rfl
@[simp] theorem Mach.setBar_mem (m : Mach) (b : BarId) (x : Bar) : (m.setBar b x).mem = m.mem := rfl
@[simp] theorem Mach.setBar_hostMem (m : Mach) (b : BarId) (x : Bar) : (m.setBar b x).hostMem = m.hostMem := rfl
@[simp] theorem Mach.setBar_time (m : Mach) (b : BarId) (x : Bar) : (m.setBar b x).time = m.time := rfl
@[simp] theorem Mach.setBar_slots (m : Mach) (b : BarId) (x : Bar) : (m.setBar b x).slots = m.slots := rfl
@[simp] theorem Mach.setBar_access (m : Mach) (b : BarId) (x : Bar) : (m.setBar b x).access = m.access := rfl
@[simp] theorem Mach.modUnit_threads (m : Mach) (u : UnitId) (f : UnitRec → UnitRec) : (m.modUnit u f).threads = m.threads := rfl
@[simp] theorem Mach.modUnit_cores (m : Mach) (u : UnitId) (f : UnitRec → UnitRec) : (m.modUnit u f).cores = m.cores := rfl
@[simp] theorem Mach.modUnit_tiles (m : Mach) (u : UnitId) (f : UnitRec → UnitRec) : (m.modUnit u f).tiles = m.tiles := rfl
@[simp] theorem Mach.modUnit_dies (m : Mach) (u : UnitId) (f : UnitRec → UnitRec) : (m.modUnit u f).dies = m.dies := rfl
@[simp] theorem Mach.modUnit_queues (m : Mach) (u : UnitId) (f : UnitRec → UnitRec) : (m.modUnit u f).queues = m.queues := rfl
@[simp] theorem Mach.modUnit_works (m : Mach) (u : UnitId) (f : UnitRec → UnitRec) : (m.modUnit u f).works = m.works := rfl
@[simp] theorem Mach.modUnit_insts (m : Mach) (u : UnitId) (f : UnitRec → UnitRec) : (m.modUnit u f).insts = m.insts := rfl
@[simp] theorem Mach.modUnit_launches (m : Mach) (u : UnitId) (f : UnitRec → UnitRec) : (m.modUnit u f).launches = m.launches := rfl
@[simp] theorem Mach.modUnit_parts (m : Mach) (u : UnitId) (f : UnitRec → UnitRec) : (m.modUnit u f).parts = m.parts := rfl
@[simp] theorem Mach.modUnit_fqs (m : Mach) (u : UnitId) (f : UnitRec → UnitRec) : (m.modUnit u f).fqs = m.fqs := rfl
@[simp] theorem Mach.modUnit_funcs (m : Mach) (u : UnitId) (f : UnitRec → UnitRec) : (m.modUnit u f).funcs = m.funcs := rfl
@[simp] theorem Mach.modUnit_clusters (m : Mach) (u : UnitId) (f : UnitRec → UnitRec) : (m.modUnit u f).clusters = m.clusters := rfl
@[simp] theorem Mach.modUnit_bars (m : Mach) (u : UnitId) (f : UnitRec → UnitRec) : (m.modUnit u f).bars = m.bars := rfl
@[simp] theorem Mach.modUnit_mem (m : Mach) (u : UnitId) (f : UnitRec → UnitRec) : (m.modUnit u f).mem = m.mem := rfl
@[simp] theorem Mach.modUnit_hostMem (m : Mach) (u : UnitId) (f : UnitRec → UnitRec) : (m.modUnit u f).hostMem = m.hostMem := rfl
@[simp] theorem Mach.modUnit_time (m : Mach) (u : UnitId) (f : UnitRec → UnitRec) : (m.modUnit u f).time = m.time := rfl
@[simp] theorem Mach.modUnit_slots (m : Mach) (u : UnitId) (f : UnitRec → UnitRec) : (m.modUnit u f).slots = m.slots := rfl
@[simp] theorem Mach.modUnit_access (m : Mach) (u : UnitId) (f : UnitRec → UnitRec) : (m.modUnit u f).access = m.access := rfl
@[simp] theorem Mach.bump_threads (m : Mach) : (m.bump).threads = m.threads := rfl
@[simp] theorem Mach.bump_cores (m : Mach) : (m.bump).cores = m.cores := rfl
@[simp] theorem Mach.bump_tiles (m : Mach) : (m.bump).tiles = m.tiles := rfl
@[simp] theorem Mach.bump_dies (m : Mach) : (m.bump).dies = m.dies := rfl
@[simp] theorem Mach.bump_queues (m : Mach) : (m.bump).queues = m.queues := rfl
@[simp] theorem Mach.bump_works (m : Mach) : (m.bump).works = m.works := rfl
@[simp] theorem Mach.bump_insts (m : Mach) : (m.bump).insts = m.insts := rfl
@[simp] theorem Mach.bump_launches (m : Mach) : (m.bump).launches = m.launches := rfl
@[simp] theorem Mach.bump_parts (m : Mach) : (m.bump).parts = m.parts := rfl
@[simp] theorem Mach.bump_fqs (m : Mach) : (m.bump).fqs = m.fqs := rfl
@[simp] theorem Mach.bump_funcs (m : Mach) : (m.bump).funcs = m.funcs := rfl
@[simp] theorem Mach.bump_clusters (m : Mach) : (m.bump).clusters = m.clusters := rfl
@[simp] theorem Mach.bump_bars (m : Mach) : (m.bump).bars = m.bars := rfl
@[simp] theorem Mach.bump_units (m : Mach) : (m.bump).units = m.units := rfl
@[simp] theorem Mach.bump_mem (m : Mach) : (m.bump).mem = m.mem := rfl
@[simp] theorem Mach.bump_hostMem (m : Mach) : (m.bump).hostMem = m.hostMem := rfl
@[simp] theorem Mach.bump_time (m : Mach) : (m.bump).time = m.time := rfl
@[simp] theorem Mach.bump_slots (m : Mach) : (m.bump).slots = m.slots := rfl
@[simp] theorem Mach.bump_access (m : Mach) : (m.bump).access = m.access := rfl

/-- Reading after `setTile`. -/
theorem Mach.tile_setTile (m : Mach) (t u : TileId) (x : Tile) : (m.setTile t x).tile u = if u = t then x else m.tile u := by
  simp only [Mach.tile, Mach.setTile, tget_tput, BitVec.toNat_inj]

/-- Reading after `setThr`. -/
theorem Mach.thr_setThr (m : Mach) (t u : TileId) (x : Thread) : (m.setThr t x).thr u = if u = t then x else m.thr u := by
  simp only [Mach.thr, Mach.setThr, tget_tput, BitVec.toNat_inj]

/-- Reading after `setCore`. -/
theorem Mach.core_setCore (m : Mach) (t u : ClusterId) (x : MCore) : (m.setCore t x).core u = if u = t then x else m.core u := by
  simp only [Mach.core, Mach.setCore, tget_tput, BitVec.toNat_inj]

/-- Reading after `setLaunch`. -/
theorem Mach.launch_setLaunch (m : Mach) (t u : Word) (x : Option Launch) : (m.setLaunch t x).launch u = if u = t then x else m.launch u := by
  simp only [Mach.launch, Mach.setLaunch, tget_tput, BitVec.toNat_inj]

/-- Reading after `modDie`. -/
theorem Mach.die_modDie (m : Mach) (t u : DieId) (f : Die → Die) : (m.modDie t f).die u = if u = t then f (m.die t) else m.die u := by
  simp only [Mach.die, Mach.modDie, tmod, tget_tput, BitVec.toNat_inj]

/-- Reading after `modQueue`. -/
theorem Mach.queue_modQueue (m : Mach) (t u : QueueId) (f : Queue → Queue) : (m.modQueue t f).queue u = if u = t then f (m.queue t) else m.queue u := by
  simp only [Mach.queue, Mach.modQueue, tmod, tget_tput, BitVec.toNat_inj]

/-- Reading after `modPart`. -/
theorem Mach.part_modPart (m : Mach) (t u : PartId) (f : Partition → Partition) : (m.modPart t f).part u = if u = t then f (m.part t) else m.part u := by
  simp only [Mach.part, Mach.modPart, tmod, tget_tput, BitVec.toNat_inj]

/-- Reading after `modFq`. -/
theorem Mach.fq_modFq (m : Mach) (t u : PartId) (f : FQ → FQ) : (m.modFq t f).fq u = if u = t then f (m.fq t) else m.fq u := by
  simp only [Mach.fq, Mach.modFq, tmod, tget_tput, BitVec.toNat_inj]

/-- Reading after `modFunc`. -/
theorem Mach.func_modFunc (m : Mach) (t u : FuncId) (f : Func → Func) : (m.modFunc t f).func u = if u = t then f (m.func t) else m.func u := by
  simp only [Mach.func, Mach.modFunc, tmod, tget_tput, BitVec.toNat_inj]

/-- Reading after `modClu`. -/
theorem Mach.clu_modClu (m : Mach) (t u : ClusterId) (f : CluEntry → CluEntry) : (m.modClu t f).clu u = if u = t then f (m.clu t) else m.clu u := by
  simp only [Mach.clu, Mach.modClu, tmod, tget_tput, BitVec.toNat_inj]

/-- Reading after `setWork`. -/
theorem Mach.work_setWork (m : Mach) (t u : Nat) (x : Option Work) : (m.setWork t x).work u = if u = t then x else m.work u := by
  simp only [Mach.work, Mach.setWork, tget_tput]

/-- Reading after `setInst`. -/
theorem Mach.inst_setInst (m : Mach) (t u : Nat) (x : Option Inst) : (m.setInst t x).inst u = if u = t then x else m.inst u := by
  simp only [Mach.inst, Mach.setInst, tget_tput]

/-- Reading after `modTile` and `modCtx`. -/
theorem Mach.tile_modTile (m : Mach) (t u : TileId) (f : Tile → Tile) :
    (m.modTile t f).tile u = if u = t then f (m.tile t) else m.tile u := Mach.tile_setTile m t u _
theorem Mach.ctx_modCtx (m : Mach) (t u : TileId) (f : Ctx → Ctx) :
    (m.modCtx t f).ctx u = if u = t then f (m.ctx t) else m.ctx u := by
  simp only [Mach.ctx, Mach.modCtx, Mach.tile_modTile]
  split <;> rfl

/-- A chain is its own and leaves the others. -/
theorem Ctx.chain_setChain (c : Ctx) (e k : Eng) (x : Chain) : (c.setChain e x).chain k = if k = e then x else c.chain k := by
  cases e <;> cases k <;> rfl
@[simp] theorem Ctx.setChain_store (c : Ctx) (e : Eng) (x : Chain) : (c.setChain e x).store = c.store := by cases e <;> rfl
@[simp] theorem Ctx.setChain_acc (c : Ctx) (e : Eng) (x : Chain) : (c.setChain e x).acc = c.acc := by cases e <;> rfl
@[simp] theorem Ctx.setChain_sems (c : Ctx) (e : Eng) (x : Chain) : (c.setChain e x).sems = c.sems := by cases e <;> rfl
@[simp] theorem Ctx.setChain_rings (c : Ctx) (e : Eng) (x : Chain) : (c.setChain e x).rings = c.rings := by cases e <;> rfl
@[simp] theorem Ctx.setChain_wins (c : Ctx) (e : Eng) (x : Chain) : (c.setChain e x).wins = c.wins := by cases e <;> rfl
@[simp] theorem Ctx.setChain_hnd (c : Ctx) (e : Eng) (x : Chain) : (c.setChain e x).hnd = c.hnd := by cases e <;> rfl
@[simp] theorem Ctx.setChain_acfg (c : Ctx) (e : Eng) (x : Chain) : (c.setChain e x).acfg = c.acfg := by cases e <;> rfl
@[simp] theorem Ctx.setChain_ext (c : Ctx) (e : Eng) (x : Chain) : (c.setChain e x).ext = c.ext := by cases e <;> rfl

/-- A semaphore is its own. -/
theorem Ctx.sem_setSem (c : Ctx) (s k : BitVec 5) (v : BitVec 16) : (c.setSem s v).sem k = if k = s then v else c.sem k := by
  simp only [Ctx.sem, Ctx.setSem, tget_tput, BitVec.toNat_inj]

/-- Taking a trap with TIP clear writes the saved registers, the status and the pc (R154), and no other register of the
thread. -/
theorem Thread.enter_rd (th : Thread) (code : Byte) (src async : Bool) (tval kepc : Dword) (r : Reg) :
    (th.enter code src async tval kepc).rd r = th.rd r := rfl
@[simp] theorem Thread.enter_wbuf (th : Thread) (code : Byte) (src async : Bool) (tval kepc : Dword) :
    (th.enter code src async tval kepc).wbuf = th.wbuf := rfl

/-- Emptying a kennel slot touches the slot alone, and keeps its bytes (R387). -/
@[simp] theorem Tile.emptySlot_kennel (x : Tile) : x.emptySlot.kennel = none := rfl
@[simp] theorem Tile.emptySlot_ctx (x : Tile) : x.emptySlot.ctx = x.ctx := rfl
@[simp] theorem Tile.emptySlot_bind (x : Tile) : x.emptySlot.bind = x.bind := rfl
@[simp] theorem Tile.emptySlot_service (x : Tile) : x.emptySlot.service = x.service := rfl
@[simp] theorem Tile.emptySlot_kwrites (x : Tile) : x.emptySlot.kwrites = x.kwrites := rfl
@[simp] theorem Tile.emptySlot_idleAt (x : Tile) : x.emptySlot.idleAt = x.idleAt := rfl
theorem Tile.emptySlot_slotPart (x : Tile) : x.emptySlot.slotPart = x.slotPart := by cases h : x.kennel <;> rfl

/-- The parts of the state. -/
@[simp] theorem State.onM_m (s : State) (f : Mach → Mach) : (s.onM f).m = f s.m := rfl
@[simp] theorem State.onM_pwr (s : State) (f : Mach → Mach) : (s.onM f).pwr = s.pwr := rfl
@[simp] theorem State.onM_fw (s : State) (f : Mach → Mach) : (s.onM f).fw = s.fw := rfl
@[simp] theorem State.onM_turn (s : State) (f : Mach → Mach) : (s.onM f).turn = s.turn := rfl
@[simp] theorem State.onThread_pwr (s : State) (f : Thread → Thread) : (s.onThread f).pwr = s.pwr := rfl
@[simp] theorem State.onThread_fw (s : State) (f : Thread → Thread) : (s.onThread f).fw = s.fw := rfl
@[simp] theorem State.onThread_turn (s : State) (f : Thread → Thread) : (s.onThread f).turn = s.turn := rfl

end Sys2Proof.Machine
end

