-- ==== Sys2Proof/Tests/Slice0.lean ====
section
/-! SUPPORT. Tests: words and records written out from the encodings, single steps on small states against the spec's own
tables, terms that the well-formedness checks refuse, and states that meet the hypotheses of the statements. -/
namespace Sys2Proof.Tests
open Sys2Proof Sys2Proof.Machine
set_option Elab.async false

/-! ### Small states -/

/-- Thread 0 of cluster 0 about to issue, with memory mapped onto itself. -/
def ready : State := State.reset.placeWord 0

/-- The state an instruction leaves. -/
def after (i : Instr) (s : State) : State :=
  match exec i s with
  | .next s' => s'
  | _ => s

/-- `s` with general registers of the issuing thread set. -/
def withG (l : List (Reg × Dword)) (s : State) : State :=
  s.onThread (fun th => l.foldl (fun (th : Thread) p => th.wr p.1 p.2) th)

/-- What an instruction leaves in g1 for the operands `x` in g2 and `y` in g3. -/
def out (i : Instr) (x y : Dword) : Dword := (after i (withG [(2, x), (3, y)] ready)).self.rd 1

/-! ### Words, records and messages from their encodings -/

/-- R235: words of format F3, FI, FM, FB, FJ and FL with each field at a value of its own, bit by bit. -/
theorem test_decode_formats :
    decodeWord 0b00001100011000000000000000000111#32 0 = .addk 3 0 7 ∧
    decodeWord 0b00000100001000100001100000010001#32 0 = .mulhi 1 2 3 ∧
    decodeWord 0b00001000001000100001100000010110#32 0 = .remW 1 2 3 ∧
    decodeWord 0b00101000001000100000000000111111#32 0 = .shrk 1 2 63 ∧
    decodeWord 0b01001100001000100101111111111110#32 0 = .ldhu 1 2 5 0xFFE ∧
    decodeWord 0b01101100001000101111100000000000#32 0 = .std 1 2 15 0x800 ∧
    decodeWord 0b10010100001000101000000000000000#32 0 = .bgeu 1 2 0x8000 ∧
    decodeWord 0b10011000001100000000000000000000#32 0 = .jal 1 0x100000 ∧
    decodeWord 0b10111100001000100001100000001010#32 0 = .fcmpLe 1 2 3 ∧
    decodeWord 0b11111000001000110000000000000000#32 0xFFFFFFFC#32 = .lapc 1 0xFFFFFFFC := by decide

/-- R234: the all-zero and all-ones words, an unassigned major, an unlisted fn, and a zero field that is not zero. -/
theorem test_decode_illegal :
    [0x00000000#32, 0xFFFFFFFF, 0x5C000000, 0xD0000000, 0x0400000E, 0x24000040, 0xA0030000, 0xA4000001, 0xCC200000,
      0xF8C00001, 0xF8050000].all (fun w => (decMap w 0).isNone) = true := by decide +kernel

/-- R71, R79, R81, R83, R84: packets dword by dword; header bits 15 IRQ, 14:12 REL, 11:9 ACQ, 8 BAR, 21:16 VEC. -/
theorem test_decode_packets :
    decodePacket [0x01, 0, 0, 0, 0, 0, 0, 0] none = some (.nop ⟨0, false, 0, 0, false, 0⟩) ∧
    decodePacket [0x3FD705, 0x1008, 0x2010, 1, 0, 0, 0, 0] none =
      some (.signal ⟨63, true, 5, 3, true, 0x1008⟩ ⟨0x2010, 1, 0⟩) ∧
    decodePacket [0x01000003, 0, 0xAA, 0x3000, 64, 1, 0, 0] none =
      some (.copy ⟨0, false, 0, 0, false, 0⟩ ⟨true, 0xAA, 0x3000, 64, 1, 0, 0⟩) ∧
    decodePacket [0x08, 0, 0x4000, 0x40, 0x0B, 0, 0, 0] none =
      some (.iinvPacket ⟨0, false, 0, 0, false, 0⟩ 0x4000 0x40 1 3) ∧
    decodePacket [0x0100000A, 0, 0, 0, 0, 0, 0, 0] none = some (.drain ⟨0, false, 0, 0, false, 0⟩ true) := by decide

/-- R68, R71: type 0 and 11, a reserved header bit, a misaligned completion signal, a body reserved bit, REL 6 and a graph
node that is a GRAPH. -/
theorem test_decode_bad_packets :
    decodePacket [0, 0, 0, 0, 0, 0, 0, 0] none = none ∧ decodePacket [0x0B, 0, 0, 0, 0, 0, 0, 0] none = none ∧
    decodePacket [0x400001, 0, 0, 0, 0, 0, 0, 0] none = none ∧ decodePacket [1, 4, 0, 0, 0, 0, 0, 0] none = none ∧
    decodePacket [1, 0, 0, 0, 0, 0, 0, 1] none = none ∧ decodePacket [0x6001, 0, 0, 0, 0, 0, 0, 0] none = none ∧
    decodePacket [7, 0, 0x40, 8, 0, 0, 0, 0] (some 1) = none := by decide

/-- The record of the worked VX.ADD of chapter 12. -/
def addRecord : List Dword :=
  [0x00400201, 0x0000002100000011, 0x0001000100040040, 0xE40009, 0x01000001, 0x01000001, 0xE40001, 0x01000001, 0x01000001,
   0xE40005, 0x01000001, 0x01000001, 0, 0, 0, 0]

/-- Its operand of window `k`. -/
def addOperand (k : BitVec 6) (c1 : BitVec 16) : Operand := ⟨1, k, 0, 0xE4, 0, 0, c1, 0, 0, 1, 1, 1, 1⟩

/-- The block that the chapter says it is. -/
def addBlock : Block :=
  { smap := false, sat := false, lvl := 1, rm := 0, cls := 0, ftzo := false, ftzi := false, ma := false, dup := false,
    ts := false, eng := 2, w1 := ⟨1, 1⟩, w2 := ⟨0, 0⟩, s1 := ⟨1, 2⟩, s2 := ⟨0, 0⟩, b0 := 64, b1 := 4, b2 := 1, b3 := 1,
    op0 := addOperand 2 0, op1 := addOperand 0 0, op2 := addOperand 1 0, op3 := Operand.none, d15 := 0 }

/-- R237 to R246: the worked record is the block it is said to be, a MX chain may not run it, and a reserved bit stops it. -/
theorem test_decode_block :
    (match decodeBlock .vx addRecord with | .ok i => i == .vxAdd addBlock | _ => false) = true ∧
    (match decodeBlock .mx addRecord with | .illegal => true | _ => false) = true ∧
    (match decodeBlock .vx (addRecord.set 0 0x00408201) with | .reserved => true | _ => false) = true ∧
    encodeBlock (.vxAdd addBlock) = some addRecord := by decide +kernel

/-- R26: a header slot with each field at a value of its own: ADDR 127:72, LEN 71:68, OP 67:62, TAG 61:50, HOPS 49:46, DDIE
45:44, DPKG 43:32, SDIE 31:30, SPKG 29:18, SAGENT 17:8, CLS 7:4, RLEN 3:2, SZ 0. -/
theorem test_decode_message :
    decodeMsgHeader 0x123456789ABCDE17C48DA00380157861#128 [7] =
      { addr := 0x123456789ABCDE, op := 0x1F, tag := 0x123, hops := 6, ddie := 2, dpkg := 3, sdie := 2, spkg := 5, sagent := 0x178,
        cls := 6, rlen := 0, sz := true, data := [7] } := by decide

/-- R25: the check value of CRC-32 (IEEE 802.3) of the digits 1 to 9. -/
theorem test_crc : crc32 [0x31, 0x32, 0x33, 0x34, 0x35, 0x36, 0x37, 0x38, 0x39] = 0xCBF43926 := by decide +kernel

/-! ### Integer and FP32 results: the tables of chapter 13 -/

theorem test_add_wraps : out (.add 1 2 3) 0x7FFFFFFFFFFFFFFF 1 = 0x8000000000000000 := by decide +kernel
theorem test_sub_order : out (.sub 1 2 3) 3 5 = 0xFFFFFFFFFFFFFFFE := by decide +kernel
theorem test_logic : out (.and 1 2 3) 12 10 = 8 ∧ out (.or 1 2 3) 12 10 = 14 ∧ out (.xor 1 2 3) 12 10 = 6 := by decide +kernel
theorem test_shifts_use_six_bits : out (.shl 1 2 3) 1 65 = 2 ∧ out (.shr 1 2 3) 0x8000000000000000 127 = 1 ∧
    out (.sar 1 2 3) 0x8000000000000000 63 = 0xFFFFFFFFFFFFFFFF := by decide +kernel
theorem test_compares : out (.cmplt 1 2 3) 0xFFFFFFFFFFFFFFFF 0 = 1 ∧ out (.cmpltu 1 2 3) 0xFFFFFFFFFFFFFFFF 0 = 0 := by
  decide +kernel
theorem test_min_max : out (.min 1 2 3) 0xFFFFFFFFFFFFFFFF 0 = 0xFFFFFFFFFFFFFFFF ∧ out (.max 1 2 3) 0xFFFFFFFFFFFFFFFF 0 = 0 ∧
    out (.minu 1 2 3) 0xFFFFFFFFFFFFFFFF 0 = 0 ∧ out (.maxu 1 2 3) 0xFFFFFFFFFFFFFFFF 0 = 0xFFFFFFFFFFFFFFFF := by
  decide +kernel
theorem test_mul : out (.mul 1 2 3) 0xFFFFFFFFFFFFFFFF 3 = 0xFFFFFFFFFFFFFFFD ∧
    out (.mulhi 1 2 3) 0xFFFFFFFFFFFFFFFF 3 = 0xFFFFFFFFFFFFFFFF ∧
    out (.mulhiu 1 2 3) 0xFFFFFFFFFFFFFFFF 0xFFFFFFFFFFFFFFFF = 0xFFFFFFFFFFFFFFFE := by decide +kernel
theorem test_div : out (.div 1 2 3) 0x8000000000000000 0xFFFFFFFFFFFFFFFF = 0x7FFFFFFFFFFFFFFF ∧
    out (.rem 1 2 3) 0x8000000000000000 0xFFFFFFFFFFFFFFFF = 0 ∧ out (.div 1 2 3) 5 0 = 0x7FFFFFFFFFFFFFFF ∧
    out (.rem 1 2 3) 5 0 = 5 ∧ out (.divu 1 2 3) 7 2 = 3 ∧ out (.remu 1 2 3) 7 0 = 7 := by decide +kernel
theorem test_word_alu : out (.divW 1 2 3) 0x80000000 0xFFFFFFFFFFFFFFFF = 0x7FFFFFFF ∧
    out (.divuW 1 2 3) 5 0 = 0xFFFFFFFFFFFFFFFF ∧ out (.remW 1 2 3) 0xFFFFFFFFFFFFFFF9 2 = 0xFFFFFFFFFFFFFFFF ∧
    out (.shrW 1 2 3) 0x80000000 0 = 0xFFFFFFFF80000000 ∧ out (.shrW 1 2 3) 0x80000000 1 = 0x40000000 ∧
    out (.remuW 1 2 3) 0x100000007 4 = 3 := by decide +kernel
theorem test_word_alu_wraps : out (.addW 1 2 3) 0x7FFFFFFF 1 = 0xFFFFFFFF80000000 ∧ out (.subW 1 2 3) 0 1 = 0xFFFFFFFFFFFFFFFF ∧
    out (.shlW 1 2 3) 1 33 = 2 ∧ out (.sarW 1 2 3) 0x80000000 31 = 0xFFFFFFFFFFFFFFFF ∧
    out (.mulW 1 2 3) 0x10000 0x8000 = 0xFFFFFFFF80000000 := by decide +kernel
theorem test_immediates : out (.addk 1 2 0xFFFF) 0 0 = 0xFFFFFFFFFFFFFFFF ∧ out (.andk 1 2 0xFFFF) 0xFFFFFFFFFFFFFFFF 0 = 0xFFFF ∧
    out (.ork 1 2 0x8000) 1 0 = 0x8001 ∧ out (.xork 1 2 0xFFFF) 0xF 0 = 0xFFF0 ∧ out (.cmpltk 1 2 0xFFFF) 0 0 = 0 ∧
    out (.cmpltuk 1 2 0xFFFF) 0 0 = 1 := by decide +kernel
theorem test_immediate_shifts : out (.shlk 1 2 63) 3 0 = 0x8000000000000000 ∧ out (.shrk 1 2 63) 0x8000000000000000 0 = 1 ∧
    out (.sark 1 2 1) 0x8000000000000000 0 = 0xC000000000000000 ∧ out (.hik 1 0x8000) 0 0 = 0xFFFFFFFF80000000 := by
  decide +kernel
/-- R268: the constant 0x0123_4567_89AB_CDEF in two instructions. -/
theorem test_constants : out (.li 1 0x80000000) 0 0 = 0xFFFFFFFF80000000 ∧ out (.liu 1 0x89ABCDEF) 0 0 = 0x89ABCDEF ∧
    (after (.lihi 1 0x01234567) (withG [(1, 0x89ABCDEF)] ready)).self.rd 1 = 0x0123456789ABCDEF ∧
    out (.lapc 1 0xFFFFFFFC) 0 0 = 0xFFFC ∧ (after (.li 1 0) ready).self.pc = 0x10008 := by decide +kernel
/-- R269: the table of g6 = 0x8000_0000_0000_00F0. -/
theorem test_bit_fields : out (.bfx 1 2 4 4) 0x80000000000000F0 0 = 0xFFFFFFFFFFFFFFFF ∧
    out (.bfxu 1 2 4 4) 0x80000000000000F0 0 = 0xF ∧ out (.bfx 1 2 8 60) 0x80000000000000F0 0 = 0xFFFFFFFFFFFFFFF8 ∧
    out (.bfxu 1 2 8 60) 0x80000000000000F0 0 = 8 ∧ out (.bfx 1 2 5 64) 0x80000000000000F0 0 = 0 ∧
    out (.bfi 1 2 12 56) 0x80000000000000F0 0 = 0xF000000000000000 ∧ out (.bfi 1 2 8 100) 0x80000000000000F0 0 = 0 := by
  decide +kernel
/-- R281, R282: the table of FP32 results. -/
theorem test_fp32 : out (.fadd 1 2 3) 0x3F800000 0x33800000 = 0x3F800000 ∧ out (.fadd 1 2 3) 0x3F800001 0x33800000 = 0x3F800002 ∧
    out (.fmul 1 2 3) 0x00800000 0x3F000000 = 0x00400000 ∧ out (.fsub 1 2 3) 0x7F800000 0x7F800000 = 0x7FC00000 ∧
    out (.fmin 1 2 3) 0x80000000 0 = 0x80000000 ∧ out (.fcmpNe 1 2 3) 0x7FC00000 0x7FC00000 = 1 ∧
    out (.fcvtFi 1 2) 0x40200000 0 = 2 ∧ out (.fcvtFi 1 2) 0xF149F2CA 0 = 0x8000000000000000 ∧
    out (.fcvtIf 1 2) 0x20000000000001 0 = 0x5A000000 := by decide +kernel
theorem test_fp32_compares : out (.fcmpEq 1 2 3) 0 0x80000000 = 1 ∧ out (.fcmpLt 1 2 3) 0x7FC00000 0 = 0 ∧
    out (.fcmpLe 1 2 3) 0x3F800000 0x3F800000 = 1 ∧ out (.fmax 1 2 3) 0x80000000 0 = 0 := by decide +kernel
/-- R264: g0 takes no value. -/
theorem test_g0 : (after (.addk 0 0 7) ready).self.rd 0 = 0 := by decide +kernel

/-! ### Branches, jumps -/

theorem test_branches : (after (.beq 4 0 0xFFFD) ready).self.pc = 0xFFF4 ∧ (after (.bne 4 0 0xFFFD) ready).self.pc = 0x10004 ∧
    (after (.blt 2 0 2) (withG [(2, 0xFFFFFFFFFFFFFFFF)] ready)).self.pc = 0x10008 ∧
    (after (.bltu 2 0 2) (withG [(2, 0xFFFFFFFFFFFFFFFF)] ready)).self.pc = 0x10004 ∧
    (after (.bge 2 0 2) (withG [(2, 0xFFFFFFFFFFFFFFFF)] ready)).self.pc = 0x10004 ∧
    (after (.bgeu 2 0 2) (withG [(2, 0xFFFFFFFFFFFFFFFF)] ready)).self.pc = 0x10008 := by decide +kernel
/-- R276: `call` 0x100 bytes on leaves the return address. -/
theorem test_jal : (after (.jal 1 0x40) ready).self.pc = 0x10100 ∧ (after (.jal 1 0x40) ready).self.rd 1 = 0x10004 := by
  decide +kernel
/-! ### Memory: results and the hypotheses of the statements -/

/-- `s` with `v` in `n` bytes of memory from `a` on. -/
def withMem (a n v : Nat) (s : State) : State := s.onM (fun m => { m with mem := Memory.write m.mem a n v })

/-- `s` with the machine changed. -/
def withM (f : Mach → Mach) (s : State) : State := s.onM f

/-- `s` with the issuing thread changed. -/
def withT (f : Thread → Thread) (s : State) : State := s.onThread f

/-- Chapter 13's memory for the load table, at 0x40100, with g2 its address. -/
def loadState : State := withG [(2, 0x40100)] (withMem 0x40100 8 0x800000007FFFFFF0 ready)

/-- R270: the load table. -/
theorem test_loads : (after (.ldb 1 2 0 0) loadState).self.rd 1 = 0xFFFFFFFFFFFFFFF0 ∧
    (after (.ldbu 1 2 0 0) loadState).self.rd 1 = 0xF0 ∧ (after (.ldh 1 2 0 0) loadState).self.rd 1 = 0xFFFFFFFFFFFFFFF0 ∧
    (after (.ldhu 1 2 0 0) loadState).self.rd 1 = 0xFFF0 ∧ (after (.ldw 1 2 0 0) loadState).self.rd 1 = 0x7FFFFFF0 ∧
    (after (.ldwu 1 2 0 4) loadState).self.rd 1 = 0x80000000 ∧ (after (.ldd 1 2 0 0) loadState).self.rd 1 = 0x800000007FFFFFF0 := by
  decide +kernel

/-- R270, R271: `ldw` from 2 bytes on traps MU.ALIGN with KTVAL the address. -/
theorem test_load_misaligned : (after (.ldw 1 2 0 2) loadState).self.kcause = 4 ∧
    (after (.ldw 1 2 0 2) loadState).self.ktval = 0x40102 ∧ (after (.ldw 1 2 0 2) loadState).self.kepc = 0x10000 := by
  decide +kernel

/-- With no TLB entry, none is out of date. -/
theorem tlbFresh_of_nil (m : Mach) (p : PartId) (h : m.tlbs = []) : m.tlbFresh p := by
  intro k e he; simp [h, tget] at he

/-- LookupFillsTlb: nothing to count, nothing stale; and a load leaves its leaf in the cluster's TLB (R172). -/
theorem witness_LookupFillsTlb : ready.m.quiet ∧ ready.m.tlbFresh 0 ∧
    tget [] (after (.ldd 1 2 0 0) loadState).m.tlbs (tlbCluster 0) = [⟨0, 0, 2, 0xF3⟩] :=
  ⟨by unfold Mach.quiet; decide +kernel, tlbFresh_of_nil _ _ (by decide +kernel), by decide +kernel⟩

/-- LoadFromMemory: every load form. -/
theorem witness_LoadFromMemory : ∀ x ∈ loadForms 1 2 0 0,
    let l := loadState.looked 0x40100
    x.2.1 ∣ 0x40100 ∧ l.reaches 0x40100 x.2.1 .read 0x40100 true ∧ l.self.free 0 ∧ l.self.out = none ∧ l.self.wbuf = [] ∧
    (l.m.core 0).dlines = [] ∧ l.m.quiet ∧ l.m.poisoned 0x40100 x.2.1 = false := by
  unfold State.reaches Thread.free Mach.quiet; decide +kernel

/-- A store of eight bytes at 0x40100 in the buffer, in class 1. -/
def anEntry : WEntry := ⟨0x40100, .here 0x40100, 8, 0x1122334455667788, 1, 0, false, none⟩
def bufState : State := withT (fun th => { th with wbuf := [anEntry] }) loadState

/-- LoadForwardedOrCached: a store that covers, a cached line, a store that covers in part. -/
theorem witness_LoadForwardedOrCached :
    (∀ x ∈ loadForms 1 2 1 0, let l := bufState.looked 0x40100
      youngest l.self.wbuf (.here 0x40100) x.2.1 = some anEntry ∧
      coveredBy (.here 0x40100) x.2.1 anEntry = true ∧ fenceHeld l.self.wbuf 1 = false ∧
      l.xlate 0x40100 x.2.1 .read = .ok (.here 0x40100) true) ∧
    (let s := withG [(2, 0x40100)] (after (.ldd 1 2 0 0) loadState)
     let l := s.looked 0x40100
     dfind (l.m.core 0) 0x1004 = some (Memory.bytes s.m.mem 0x40100 64) ∧ classHeld l.self.wbuf 0 = false) ∧
    (let w := { anEntry with size := 1 }
     youngest [w] (.here 0x40100) 2 = some w ∧ coveredBy (.here 0x40100) 2 w = false) ∧
    (after (.ldw 1 2 1 4) bufState).self.rd 1 = 0x11223344 := by decide +kernel

/-- AccessFaults: misaligned, not mapped, not granted, poisoned. -/
theorem witness_AccessFaults :
    (0x40102 % 4 ≠ 0) ∧ ((ready.looked 0x1000000000).xlate 0x1000000000 8 .read = .bad ⟨0, 2, 0, 0⟩) ∧
    (let s := withM (fun m => m.setGrants 2 0 (masterMusher 0) 0) loadState
     grantOk (s.m.grants (paTarget 0x40100).1 (paTarget 0x40100).2 (masterMusher 0)) .read = false ∧
     (after (.ldd 1 2 0 0) s).self.kcause = 7) ∧
    (let s := withM (fun m => { m with poisS := [0x40100 / 64] }) loadState
     s.m.poisoned 0x40100 8 = true ∧ (after (.ldd 1 2 0 0) s).self.kcause = 8 ∧ (after (.ldd 1 2 0 0) s).self.rd 1 = 0) ∧
    (after (.ldd 1 2 0 0) (withG [(2, 0x1000000000)] ready)).self.kcause = 5 ∧
    (after (.amoaddD 1 2 3 0) (withG [(2, 0x1000000000)] ready)).self.ktval = 0x1000000000 ∧
    (after (.aqadd 2 3 0) (withG [(2, 0x40108)] ready)).self.kcause = 4 := by decide +kernel

/-- A page of host memory: the leaf of the second 64 GiB has HOST set. -/
def hostState : State := withMem 0x22008 8 0x40F3 (withG [(2, 0x1000000000)] ready)
/-- AccessFaults, the atomic on a host page. -/
theorem witness_AtomicOnHostPage :
    (hostState.looked 0x1000000000).xlate 0x1000000000 8 .atomic = .ok (.host 0) false ∧ hostState.self.free 0 ∧
    (after (.amoaddD 1 2 3 0) hostState).self.kcause = 7 := by unfold Thread.free; decide +kernel

/-- R270: a store leaves memory as it was until it drains, low byte first. -/
theorem test_store : let s := after (.sth 3 2 1 0) (withG [(2, 0x40100), (3, 0xABCD1234)] ready)
    Memory.byte s.m.mem 0x40100 = 0 ∧ s.self.wbuf.length = 1 ∧
    (let t := after (.storeBufferDrain 0 1) s
     Memory.byte t.m.mem 0x40100 = 0x34 ∧ Memory.byte t.m.mem 0x40101 = 0x12 ∧ Memory.byte t.m.mem 0x40102 = 0) := by
  decide +kernel

/-- StoreIsBuffered: room for a store; eight buffered ones; a fence. -/
theorem witness_StoreIsBuffered :
    (∀ x ∈ storeForms 3 2 1 0, (ready.looked 0x40100).xlate 0x40100 x.2 .write = .ok (.here 0x40100) true ∧
      fenceHeld [anEntry] 1 = false ∧ buffered [anEntry] < 8) ∧
    8 ≤ buffered (List.replicate 8 anEntry) ∧ fenceHeld [{ anEntry with blocks := 2 }] 1 = true := by decide +kernel

/-- StoreDrainsToMemory: the store leaves before others of other classes. -/
theorem witness_StoreDrainsToMemory :
    (bufState.m.thr 0).wbuf = [] ++ anEntry :: [] ∧ anEntry.cls = 1 ∧ anEntry.sent = false ∧
    anEntry.place = .here 0x40100 ∧ paDie 0x40100 = TileId.die 0 ∧ bufState.m.quiet ∧
    grantOk (bufState.m.grants (paTarget 0x40100).1 (paTarget 0x40100).2 (masterMusher 0)) .write = true := by
  unfold Mach.quiet; decide +kernel

/-- The word 0xFFFF_FFF0 or 0x7FFF_FFFF at 0x40100. -/
def amoState (v : Nat) (b : Dword) : State := withG [(2, 0x40100), (8, b)] (withMem 0x40100 4 v ready)
/-- R287: the table of atomics. -/
theorem test_atomics :
    (let s := after (.amomaxuW 1 2 8 0) (amoState 0xFFFFFFF0 0x10)
     s.self.rd 1 = 0xFFFFFFFFFFFFFFF0 ∧ Memory.read s.m.mem 0x40100 4 = 0xFFFFFFF0) ∧
    (let s := after (.amomaxW 1 2 8 0) (amoState 0xFFFFFFF0 0x10)
     s.self.rd 1 = 0xFFFFFFFFFFFFFFF0 ∧ Memory.read s.m.mem 0x40100 4 = 0x10) ∧
    (let s := after (.amoaddW 1 2 8 0) (amoState 0x7FFFFFFF 1)
     s.self.rd 1 = 0x7FFFFFFF ∧ Memory.read s.m.mem 0x40100 4 = 0x80000000) := by decide +kernel
/-- R285: each kind of atomic, and the compare of AMOCAS with gd. -/
theorem test_atomic_kinds :
    let new := fun (i : Instr) (v : Nat) (b : Dword) => Memory.read (after i (amoState v b)).m.mem 0x40100 8
    new (.amoswapD 1 2 8 0) 5 9 = 9 ∧ new (.amoandD 1 2 8 0) 12 10 = 8 ∧ new (.amoorD 1 2 8 0) 12 10 = 14 ∧
    new (.amominD 1 2 8 0) 5 0xFFFFFFFFFFFFFFFF = 0xFFFFFFFFFFFFFFFF ∧ new (.amominuD 1 2 8 0) 5 0xFFFFFFFFFFFFFFFF = 5 ∧
    new (.amomaxD 1 2 8 0) 5 0xFFFFFFFFFFFFFFFF = 5 ∧ new (.amomaxuD 1 2 8 0) 5 0xFFFFFFFFFFFFFFFF = 0xFFFFFFFFFFFFFFFF ∧
    new (.amocasD 1 2 8 0) 5 9 = 5 ∧ new (.amocasD 1 2 8 0) 0 9 = 9 ∧ new (.amoswapW 1 2 8 0) 5 0x100000009 = 9 := by
  decide +kernel
/-- AtomicResults. -/
theorem witness_AtomicResults : ∀ x ∈ amoForms 1 2 8 0,
    let s := (amoState 5 9).looked 0x40100
    let n := if x.2.1 then 8 else 4
    0x40100 % n = 0 ∧ s.reaches 0x40100 n .atomic 0x40100 true ∧ s.self.free 0 ∧ s.self.out = none ∧ s.m.quiet ∧
      s.m.poisoned 0x40100 n = false := by
  unfold State.reaches Thread.free Mach.quiet; decide +kernel
/-- AqAddResult. -/
theorem witness_AqAddResult : let l := (amoState 5 9).looked 0x40100
    0x40100 % 16 = 0 ∧ l.reaches 0x40100 16 .atomic 0x40100 true ∧ l.self.free 0 ∧ l.self.out = none ∧ l.m.quiet ∧
    l.m.poisoned 0x40100 16 = false := by
  unfold State.reaches Thread.free Mach.quiet; decide +kernel
/-- R287: the pair of registers carries from the low into the high half. -/
theorem test_aqadd : let s := withG [(2, 0x40100), (10, 0xFFFFFFFFFFFFFFFF), (11, 1)] (withMem 0x40100 8 1 ready)
    Memory.read (after (.aqadd 2 10 0) s).m.mem 0x40100 16 = 2 * 2 ^ 64 := by decide +kernel

/-- R273: the worked SAVEM, with the base at a page end here so that every store is allowed; g20 to g27 fill the buffer. -/
theorem test_savem : let s := withG [(2, 0x40100), (20, 7), (27, 9)] ready
    let t := after (.savem 20 2 0 27 0x76) s
    t.self.wbuf.length = 8 ∧ (t.self.wbuf.map (·.va)).headD 0 = 0x400B0 ∧ (t.self.wbuf.map (·.data)).getD 7 0 = 9 ∧
    t.self.pc = 0x10004 := by decide +kernel
/-- SaveMultiple: from the start, and from the register MPROG names. -/
theorem witness_SaveMultiple : let s := withG [(2, 0x40100)] ready
    (∀ i, 20 ≤ i → i ≤ 27 → s.xlate (0x40100 + BitVec.ofNat 64 (8 * (i - 20))) 8 .write = .ok (.here (0x40100 + 8 * (i - 20))) true) ∧
    s.m.tlbs = [] ∧ fenceHeld s.self.wbuf 0 = false ∧ s.self.mprog.toNat < 32 ∧
    (let t := withT (fun th => th.setMprog 0x39) s
     32 ≤ t.self.mprog.toNat ∧ t.self.mprog.toNat - 32 = 25) := by
  refine ⟨fun i h1 h2 => ?_, ?_⟩
  · interval_cases i <;> decide +kernel
  · decide +kernel
/-- An uncached page: the leaf of the third 64 GiB maps this package's memory through REM. -/
def remState : State := withMem 0x40100 8 77 (withMem 0x22010 8 0x80F3 (withG [(2, 0x2000040100)] ready))
/-- LoadMultiple. -/
theorem witness_LoadMultiple :
    ¬ ((20 : Reg).toNat ≤ (2 : Reg).toNat ∧ (2 : Reg).toNat ≤ 21) ∧ remState.self.mprog.toNat < 32 ∧ remState.self.wbuf = [] ∧
    remState.m.tlbs = [] ∧ remState.m.quiet ∧ remState.reaches 0x2000040100 8 .read 0x40100 false ∧ remState.reaches 0x2000040108 8 .read 0x40108 false ∧
    remState.m.poisoned 0x40100 8 = false ∧ remState.m.poisoned 0x40108 8 = false ∧
    (after (.loadm 20 2 0 21 0) remState).self.rd 20 = 77 := by
  unfold State.reaches Mach.quiet; decide +kernel
/-- MultipleFaults: each trap before a transfer, and a fault at the first register that leaves MPROG naming it. -/
theorem witness_MultipleFaults :
    (after (.savem 21 2 0 20 0) ready).self.kcause = 9 ∧ (after (.loadm 1 2 0 3 0) ready).self.kcause = 9 ∧
    (after (.savem 20 2 0 21 0) (withG [(2, 4)] ready)).self.kcause = 4 ∧
    (let s := withT (fun th => th.setMprog 0x3A) ready
     32 ≤ s.self.mprog.toNat ∧ 21 < s.self.mprog.toNat - 32 ∧ (after (.savem 20 2 0 21 0) s).self.kcause = 9) ∧
    (let s := withG [(2, 0x1000000000)] ready
     (s.looked 0x1000000000).xlate 0x1000000000 8 .write = .bad ⟨0, 2, 0, 1⟩ ∧ s.self.asyncs = [] ∧
     (after (.savem 20 2 0 21 0) s).self.mprog = 0x34) := by decide +kernel

/-- JumpRegisterChecks: a pad that fits, one of the wrong tag, no pad, a return behind a call, a misaligned target. -/
theorem witness_JumpRegisterChecks :
    let s := fun (w : Nat) (tag : Dword) => withG [(12, 0x10100), (31, tag)] (withMem 0x10100 4 w ready)
    let word := fun (s : State) (a : Dword) => match s.m.fetchWord 0 a with | .word w _ => some w | _ => none
    (word (s 0xA0050051 0x51) 0x10100 = some 0xA0050051 ∧ decodeWord 0xA0050051 0 = .land true 1 0x51 ∧
      (after (.jalr 0 12 1 0) (s 0xA0050051 0x51)).self.pc = 0x10100) ∧
    (after (.jalr 0 12 1 0) (s 0xA0050051 0x52)).self.kcause = 3 ∧
    (after (.jalr 0 12 0 0) (s 0xA0050051 0x51)).self.kcause = 3 ∧
    (after (.jalr 0 12 1 0) (s 0x04000000 0x51)).self.ktval = 0x10100 ∧
    (let r := withG [(1, 0x10104)] (s 0x98200040 0)
     word r 0x10100 = some 0x98200040 ∧ decodeWord 0x98200040 0 = .jal 1 0x40 ∧
       (after (.jalr 0 1 3 0) r).self.pc = 0x10104) ∧
    (after (.jalr 0 1 3 0) (withG [(1, 0x10104)] (s 0x04000000 0))).self.kcause = 3 ∧
    (after (.jalr 0 12 1 0) (withG [(12, 2)] ready)).self.kcause = 4 := by decide +kernel

/-- Fences: nothing left to perform; a store still buffered; an engine's write in flight; every range of IINV. -/
theorem witness_Fences :
    ready.self.wbuf = [] ∧ ready.self.sup = none ∧ bufState.self.wbuf ≠ [] ∧ (bufState.self.wbuf.map (·.blocks)) = [0] ∧
    ((after (.fenceC 2 4) bufState).self.wbuf.map (·.blocks)) = [4] ∧ (after (.fenceC 4 4) bufState).self.pc = 0x10008 ∧
    (after (.fenceX 3 1) bufState).self.st = .stalled ∧ (after (.fenceX 3 1) ready).self.pc = 0x10004 ∧
    (after (.iinv 4 5 2) (withG [(4, 0), (5, 0x10000000001)] ready)).self.kcause = 9 ∧
    (after (.iinv 4 5 2) (withG [(4, 0xFFFFFFFFFFFF00), (5, 0x101)] ready)).self.kcause = 9 ∧
    (after (.iinv 4 5 2) (withG [(4, 0xFFFFFFFFFFFF00), (5, 0x100)] ready)).self.pc = 0x10004 := by decide +kernel
/-! ### Threads with an item: barriers, tile control, system registers, traps -/

/-- A kernel of three templates: LD at blocks 0 and 1, MX at block 2, and a VX chain that boot primes. -/
def aKernel : Kernel := ⟨0x30000, 0, 1, [⟨0, false, 0, 2⟩, ⟨0, false, 1, 1⟩, ⟨0, true, 2, 1⟩], [], []⟩
def aLaunch : Launch :=
  { lid := 1, part := 0, func := 0, work := 0, queue := 0, idx := 0, qidx := 0, graph := none, pri := 0, fixed := false, team := 1, first := 0, count := 1,
    args := 0, conf := 0, lgid := 0, kobj := 0, kernel := aKernel, teamLo := 0, teamHi := 1, took := [], retired := 0, total := 1,
    low := none, complete := false, tiles := [], away := [], owed := [], await := [], exported := false }
def aSup : Sup := ⟨1, some 0, 0, 0, 0x30000, false, false⟩
def aBind : Bind := ⟨0, 1, some 0, 0, 0⟩
/-- `ready`, with thread 0 supervising item 0 of launch 1 on tile 0, in slot 0 of its cluster. -/
def item : State := withM (fun m =>
  (((m.setLaunch 1 (some aLaunch)).setSlot 0 0 (some ⟨1, 0, [0], some 0, false, []⟩)).modTile 0 (fun x =>
    { x with bind := some aBind })).modThr 0 (fun th => { th with sup := some aSup })) ready

theorem item_sup : item.m.supOf 0 = some aSup ∧ item.m.kernelOf 0 = some aKernel ∧ item.m.slotSize 0 aSup = 1 := by
  decide +kernel

/-- BarrierArrival: the team's two barriers and the first one past them, one another launch owns, a second arrival, an arrival
that a buffered store holds up. -/
theorem witness_BarrierArrival :
    (after (.arrive 0 1 0) item).self.pc = 0x10004 ∧ (after (.arrive 0 2 0) item).self.kcause = 9 ∧
    ((after (.arrive 0 1 0) item).m.bar (.cb 0 0 1)).arrived = [partKey 0 0 0] ∧
    (let s := withM (fun m => m.setBar (.db 0 3) ⟨7, true, 0, [], [], [], [], [], []⟩) item
     (s.m.bar (.db 0 3)).owned = true ∧ (s.m.bar (.db 0 3)).owner ≠ aSup.lid ∧ (after (.arrive 1 3 0) s).self.kcause = 10) ∧
    (let s := after (.arrive 0 1 0) item
     s.self.arrivals = [⟨.cb 0 0 1, 0, 0⟩] ∧ (s.m.bar (.cb 0 0 1)).phase = 0 ∧ (after (.arrive 0 1 0) s).self.st = .stalled) ∧
    (after (.arrive 0 1 1) (withT (fun th => { th with wbuf := [anEntry] }) item)).self.st = .stalled := by decide +kernel

/-- BarrierWait: no arrival; the phase lasts; it is over. BarrierPhase: everybody has arrived; nobody has. -/
theorem witness_BarrierWait_BarrierPhase :
    item.self.arrivals = [] ∧ (after (.waitb 0 1) item).self.pc = 0x10004 ∧
    (let s := after (.arrive 0 1 1) item
     s.self.arrivals.find? (fun x => x.bar = .cb 0 0 1) = some ⟨.cb 0 0 1, 0, 1⟩ ∧ (after (.waitb 0 1) s).self.st = .waiting ∧
     (s.m.bar (.cb 0 0 1)).arrived ≠ [] ∧ (s.m.bar (.cb 0 0 1)).resv = [] ∧
     (∀ l ∈ s.m.liveThreads 1, nhas (s.m.bar (.cb 0 0 1)).arrived l.key = true) ∧ (s.m.bar (.cb 0 0 1)).performed s.m = true ∧
     (∀ l ∈ s.m.participants (.cb 0 0 1) (s.m.bar (.cb 0 0 1)), nhas (s.m.bar (.cb 0 0 1)).arrived l.key = true) ∧
     (let t := after (.barrierPhaseComplete (.cb 0 0 1)) s
      (t.m.bar (.cb 0 0 1)).phase = 1 ∧ (after (.waitb 0 1) t).self.arrivals = [])) ∧
    (after (.barrierPhaseComplete (.cb 0 0 1)) item).m.bars = [] := by decide +kernel

/-- BarrierArrival, BarrierPhase: a thread that joined in the phase counts into the next one (R188). -/
theorem witness_LateArrival :
    let k := partKey 0 0 0
    let s := withM (fun m => m.setBar (.db 0 3) ⟨1, true, 4, [77], [k], [], [], [], []⟩) item
    let t := after (.arrive 1 3 0) s
    nhas (s.m.bar (.db 0 3)).late k = true ∧ (t.m.bar (.db 0 3)).next = [k] ∧ (t.m.bar (.db 0 3)).arrived = [77] ∧
      t.self.arrivals = [⟨.db 0 3, 5, 0⟩] ∧
      ((after (.barrierPhaseComplete (.db 0 3)) t).m.bar (.db 0 3)) = ⟨1, true, 5, [k], [], [], [], (t.m.bar (.db 0 3)).sentNext, []⟩ := by decide +kernel

/-- Fences: a write of the tile's MX engine in flight when FENCE.X issues; it waits for that one and not for a later one (R183). -/
theorem witness_FenceInFlight :
    let tag : TagRec := ⟨3, 0, 5, .engW 0 .st 0, .here 0, false, 0, none, [], 0⟩
    let s := withM (fun m => m.modDie 0 (fun y => { y with tags := [tag] })) item
    let a := after (.fenceX 3 8) s
    s.self.fence = none ∧ a.self.st = .stalled ∧ a.self.fence = some 0 ∧ a.m.markLeft 0 0 = true ∧
    (after (.fenceX 3 8) a).self.st = .stalled ∧
    (let b := withM (fun m => m.modDie 0 (fun y => { y with tags := [tag] })) a
     b.m.markLeft 0 0 = false ∧ (after (.fenceX 3 8) b).self.pc = 0x10004 ∧ (after (.fenceX 3 8) b).self.fence = none) := by
  decide +kernel

/-- TileControlNeedsTile. -/
theorem witness_TileControlNeedsTile : ready.m.supOf ready.turn.thread = none ∧ (after (.fork 0) ready).self.kcause = 10 := by
  decide +kernel

/-- ForkAndJoin: a template past the last, one that boot primes, one whose engine runs, and one that starts. -/
theorem witness_ForkAndJoin :
    aKernel.tmpls[3]? = none ∧ (after (.fork 3) item).self.kcause = 9 ∧ (after (.fork 2) item).self.kcause = 9 ∧
    (let s := after (.fork 1) item
     (s.m.ctx 0).mx.st = .running ∧ (s.m.ctx 0).mx.cur = 2 ∧ (after (.fork 1) s).self.kcause = 10 ∧
     (after (.join 2) s).self.st = .waiting ∧ (after (.join 13) s).self.pc = s.self.pc + 4) := by decide +kernel

/-- R297: counts up to 65,535. -/
theorem test_semaphores :
    (let s := after (.semw 6 4) (withG [(6, 65535)] item)
     ((s.m.ctx 0).sem 4).toNat = 65535 ∧ (after (.semr 7 4) s).self.rd 7 = 65535) ∧
    (after (.semw 6 4) (withG [(6, 65536)] item)).self.kcause = 9 := by decide +kernel

/-- Configuration: what each writes and refuses. -/
theorem witness_Configuration :
    (ringBad 0 0 = false ∧ ringBad 0x8000000000000000 0 = true ∧ (item.m.ctx 0).named 1 2 3 = false ∧
      (after (.rcww 12 3) (withG [(12, 0x8000000000000000)] item)).self.kcause = 9 ∧
      (after (.rcww 12 3) (withG [(12, 5)] item)).self.pc = 0x10004) ∧
    (layBad ⟨0, 0, 0, 0⟩ 1 = false ∧ layBad ⟨0, 0, 0, 0x80000000⟩ 1 = true ∧ (item.m.ctx 0).named 1 1 5 = false ∧
      (after (.layw 8 5) (withG [(8, 0x10), (9, 2)] item)).self.pc = 0x10004 ∧
      (after (.layr 20 5) (after (.layw 8 5) (withG [(8, 0x10), (9, 2)] item))).self.rd 21 = 2 ∧
      (after (.layw 8 5) (withG [(11, 0x80000000)] item)).self.kcause = 9) ∧
    ((item.m.ctx 0).acfgBad 2 0x8000000000000000 = false ∧ (item.m.ctx 0).reserved 2 = false ∧
      ((after (.acfg 6 2) (withG [(6, 0x8000000000000000)] item)).m.ctx 0).accCfg 2 = 0xC000000000000000 ∧
      (item.m.ctx 0).acfgBad 2 0x0000080000000000 = true) ∧
    (let s := after (.fork 1) item
     (s.m.ctx 0).mx.st = .running ∧ (after (.acfg 6 2) (withG [(6, 0x8000000000000000)] s)).self.kcause = 10) := by
  decide +kernel
/-- Configuration: a ring and a window that the latched block of a running chain names. -/
theorem witness_ConfigurationBusy :
    let o : Operand := { Operand.none with kind := 1, index := 5 }
    let q : Operand := { Operand.none with kind := 2, index := 3 }
    let b : Block := { addBlock with op0 := o, op1 := q }
    let s := withM (fun m => m.modChain 0 .vx (fun x => { x with st := .running, latched := some (.vxAdd b) })) item
    (s.m.ctx 0).named 1 1 5 = true ∧ (s.m.ctx 0).named 1 2 3 = true ∧ (after (.layw 8 5) s).self.kcause = 10 ∧
    (after (.rcww 12 3) s).self.kcause = 10 := by decide +kernel

/-- EventWaits: nothing pending, a pending event in the mask and outside it, an empty mask and one too wide. -/
theorem witness_EventWaits :
    ready.self.kevt = 0 ∧ ready.self.asyncs = [] ∧ (after .wfe ready).self.st = .waiting ∧
    (let s := withG [(6, 4)] (withT (fun th => { th with kevt := 6 }) item)
     s.self.kevt &&& 4 = 4 ∧ (after (.evwait 7 6) s).self.rd 7 = 4 ∧ (after (.evwait 7 6) s).self.kevt = 2) ∧
    (after (.evwait 7 6) (withG [(6, 255)] item)).self.st = .waiting ∧
    (after (.evwait 7 6) item).self.kcause = 9 ∧ (after (.evwait 7 6) (withG [(6, 256)] item)).self.kcause = 9 := by
  decide +kernel

/-- The thread of tile 0x0A with a2 as chapter 11's worked reservation configures it, and h1 free with EPOCH 4. -/
def gangState : State :=
  let s := { item with turn := { item.turn with thread := 10 } }
  withG [(8, 0x0000000300000982)] (withM (fun m =>
    ((((m.modThr 10 (fun th => { th with sup := some aSup, st := .ready })).setSlot 1 0 (some ⟨1, 0, [10], some 0, false, []⟩)).modTile
      10 (fun x => { x with bind := some aBind })).modCtx 10 (fun c =>
        { c with acfg := [(2, 0xC00007FC01010000)], hnd := [(1, 0x0004000000000000)] }))) s)
/-- R221, R302: the worked GLSET leaves h1 and g9 as the chapter gives them. -/
theorem test_glset : ((after (.glset 9 8 1) gangState).m.ctx 10).handle 1 = 0xC20530800000000C ∧
    (after (.glset 9 8 1) gangState).self.rd 9 = 0x80000A20BFF00810 := by decide +kernel
/-- GangReserve: COUNT 0, a tile that is not configured, a handle that is taken, and a barrier of the cluster at its last
number and past it. -/
theorem witness_GangReserve :
    gangState.m.supOf 10 = some aSup ∧ ((gangState.m.ctx 10).handle 1).getLsbD 63 = false ∧
    (gangState.m.ctx 10).reserved 2 = false ∧
    (after (.glset 9 8 1) (withG [(8, 0x0000000000000982)] gangState)).self.kcause = 9 ∧
    (after (.glset 9 8 1) (withG [(8, 0x0000000300000983)] gangState)).self.kcause = 9 ∧
    (after (.glset 9 8 1) (after (.glset 9 8 1) gangState)).self.kcause = 10 ∧
    (after (.glset 9 8 1) (withG [(8, 0x0000000300028982)] gangState)).self.pc = 4 ∧
    ((after (.glset 9 8 1) (withG [(8, 0x0000000300028982)] gangState)).m.bar (.cb 1 0 1)).resv.length = 1 ∧
    (after (.glset 9 8 1) (withG [(8, 0x0000000300048982)] gangState)).self.kcause = 9 := by decide +kernel
/-- GangHandles: a free handle, a reservation, a send handle in use and not, a write over each. -/
theorem witness_GangHandles :
    let rsv := after (.glset 9 8 1) gangState
    let snd := after (.glret 9 2) (withG [(9, 0x80000A20BFF00810)] gangState)
    let b : Block := { addBlock with eng := 1, d15 := 2 }
    let use := fun (st : ChainSt) => withM (fun m => m.modChain 10 .mx (fun x =>
      { x with st := st, latched := some (.mxGlsend b), cause := 0x49 })) snd
    ((gangState.m.ctx 10).handle 2).getLsbD 63 = false ∧ (after (.glclr 2) gangState).self.pc = 4 ∧
    landing ((rsv.m.ctx 10).handle 1) = true ∧ ((after (.glclr 1) rsv).m.ctx 10).handle 1 = 0x420530800000000C ∧
    (after (.glret 9 1) (withG [(9, 0x80000A20BFF00810)] rsv)).self.kcause = 10 ∧
    (snd.m.ctx 10).handle 2 = 0x80000A20BFF00810 ∧ ((snd.m.ctx 10).handleInUse 2 true) = false ∧
    (after (.glret 9 2) (withG [(9, 0x80000A20BFF00811)] gangState)).self.kcause = 9 ∧
    ((use .running).m.ctx 10).handleInUse 2 false = true ∧ (after (.glclr 2) (use .running)).self.kcause = 10 ∧
    ((use .parked).m.ctx 10).handleInUse 2 false = false ∧ ((use .parked).m.ctx 10).handleInUse 2 true = true ∧
    ((after (.glret 9 2) (use .parked)).m.ctx 10).mx.st = .running := by decide +kernel

/-- TicketsAndSignote: a counter of the launch, another's, none; a value given. -/
theorem witness_TicketsAndSignote :
    let s := withG [(5, 3)] (withM (fun m => m.modDie 0 (fun d => { d with tickets := [(3, some ⟨1, 7, 10⟩), (4, some ⟨2, 0, 9⟩)] })) item)
    s.m.ticketOf 0 aSup 3 = some ⟨1, 7, 10⟩ ∧ s.m.ticketOf 0 aSup 4 = none ∧ s.m.ticketOf 0 aSup 16 = none ∧
    (after (.tkstat 4 5) s).self.rd 4 = 0x700000003 ∧ (after (.tkpull 4 5) s).self.pull = .waiting 3 4 ∧
    (after (.tkpull 4 5) (withT (fun th => { th with pull := .given 4 99 }) s)).self.rd 4 = 99 ∧
    (after (.tkstat 4 5) (withG [(5, 16)] s)).self.kcause = 9 := by decide +kernel
/-- R305: SIGNOTE asks for the partition's waits, the ones that name its signal first. -/
theorem test_signote :
    let w := fun (sig : BitVec 56) => some (⟨.queue 0, 0, .waitsig default { (default : WaitBody) with sig0 := sig }, default, 0, 0, 0, .running, [], false, 0, none, 0⟩ : Work)
    let s := after (.signote 4) (withG [(4, 0x40)] (withM (fun m => (m.setWork 5 (w 0x80)).setWork 6 (w 0x40)) ready))
    s.m.evalDue = [5, 6] ∧ s.m.noteFirst = [6] := by decide +kernel

/-- SystemRegisterReads and SystemRegisterWrites: each level below, at and above a register's; the boundary numbers. -/
theorem witness_SystemRegisters :
    let f := withT (fun th => { th with kstat := 2 }) (withG [(6, 0xFFFFFFFFFFFFFFFF)] ready)
    (after (.sysr 7 8) ready).self.rd 7 = 8 ∧ (after (.sysr 7 1) ready).self.kcause = 2 ∧ (after (.sysr 7 4) ready).self.kcause = 2 ∧
    (after (.sysr 7 0xA) gangState).self.rd 7 = 0xA0A ∧
    (after (.sysr 7 0xBF) f).self.pc = 0x10004 ∧ (after (.sysr 7 0xC0) f).self.kcause = 1 ∧ (after (.sysr 7 0x14) f).self.pc = 0x10004 ∧
    (after (.sysr 7 0x15) f).self.kcause = 1 ∧ (after (.sysr 7 0x23) f).self.pc = 0x10004 ∧ (after (.sysr 7 0x24) f).self.kcause = 1 ∧
    (after (.sysw 6 8) f).self.kcause = 2 ∧ (after (.sysw 6 1) f).self.kepc = 0xFFFFFFFFFFFFFFFC ∧ (after (.sysw 6 0) f).self.kcause = 9 ∧
    (after (.sysw 6 0x10) (withG [(6, 3)] f)).self.ktdbg = 3 ∧ (after (.sysw 6 0x10) (withG [(6, 4)] f)).self.kcause = 9 ∧
    (after (.sysw 6 0x4F) (withG [(6, 0x100)] f)).self.kcause = 9 := by decide +kernel
/-- R308, R309, R310: KSTAT keeps PL and TIP, KEVT clears where a 1 is written. -/
theorem test_sysw : let f := withT (fun th => { th with kstat := 0x102, kevt := 0x17 }) ready
    (after (.sysw 6 0) (withG [(6, 0xE411)] f)).self.kstat = 0xE512 ∧ (after (.sysw 6 9) (withG [(6, 5)] f)).self.kevt = 0x12 ∧
    (after (.sysw 6 4) (withG [(6, 0x1003)] f)).self.ktvec = 0x1000 := by decide +kernel

/-- TrapEntry, TrapReturn: U, with and without TIP; F. R313: KEPC after TRAP is the next instruction. -/
theorem witness_TrapEntry_TrapReturn :
    let s := withT (fun th => { th with ktvec := 0x8000, kstat := 0x9400 }) ready
    s.self.sup = none ∧ s.self.tip = false ∧
    (let t := after (.trap 0x21) s
     t.self.pc = 0x8000 ∧ t.self.kepc = 0x10004 ∧ t.self.kcause = 0x0B ∧ t.self.ktval = 0x21 ∧ t.self.kstat = 0x9502 ∧
     t.self.tip = true ∧ (after .brk t).self.st = .halted ∧ (after .brk t).m.alerts = [1] ∧
     (let r := after .eret t
      r.self.pc = 0x10004 ∧ r.self.kstat = 0x9400)) ∧
    (after .eret s).self.kcause = 2 ∧ (after .brk s).self.kepc = 0x10000 ∧ (after (.muIllegal 0) s).self.kcause = 1 := by
  decide +kernel

/-- TrapWithItemWaits: room in the fault queue. -/
theorem witness_TrapWithItemWaits : item.self.sup = some aSup ∧ item.self.tip = false ∧ (item.m.fq 0).held = [] ∧
    (item.m.fq 0).head - (item.m.fq 0).tail ≠ 256 ∧ (after (.trap 5) item).self.hold = some 0 := by decide +kernel

/-- AsyncTrapTaken: an engine's and a store's. -/
theorem witness_AsyncTrapTaken :
    let s := withT (fun th => { th with asyncs := [⟨0x27, true, 0x1FFFF, 0, 0⟩, ⟨7, false, 0x40, 1, 0⟩] }) ready
    s.self.sup = none ∧ s.self.tip = false ∧ s.m.resting 0 = false ∧ s.self.midMultiple = false ∧
    (after (.asyncTrapDelivery 0) s).self.kcause = 0x8127 ∧ (after (.asyncTrapDelivery 0) s).self.ktval = 0x1FFFF ∧
    (after (.asyncTrapDelivery 0) s).self.asyncs = [⟨7, false, 0x40, 1, 0⟩] := by decide +kernel

/-- ReturnsComplete: a good answer, a STATUS 2, a sent store's STATUS. -/
theorem witness_ReturnsComplete :
    let o := fun (st : Nat) => withT (fun th =>
      { th with st := .stalled, out := some ⟨0x40104, .away 3 0x40104, false, false, .load 7 4 true, some (st, 0x90000000 * 2 ^ 32), false⟩ }) ready
    let a := fun (st : Nat) => withT (fun th =>
      { th with out := some ⟨0x40104, .away 3 0x40104, false, false, .amo 7 true, some (st, 0x90000000), true⟩ }) ready
    (after (.musherLoadReturn 0) (o 0)).self.rd 7 = 0xFFFFFFFF90000000 ∧ (after (.musherLoadReturn 0) (o 0)).self.pc = 0x10004 ∧
    (after (.musherLoadReturn 0) (o 2)).self.kcause = 7 ∧ (after (.musherLoadReturn 0) (o 2)).self.ktval = 0x40104 ∧
    (after (.musherLoadReturn 0) (a 0)).self.rd 7 = 0xFFFFFFFF90000000 ∧ (after (.musherLoadReturn 0) (a 0)).self.pc = 0x10000 ∧
    (after (.musherLoadReturn 0) (a 2)).self.asyncs = [⟨7, false, 0x40104, 2, 0⟩] ∧
    (after (.musherLoadReturn 0) (withT (fun th =>
      { th with out := some ⟨0x40104, .away 3 0x40104, false, true, .fetch 0x1004, some (0, 0), false⟩ }) ready)).m.cores = ready.m.cores ∧
    (let s := withT (fun th => { th with wbuf := [anEntry, { anEntry with sent := true, resp := some 2 }] }) ready
     s.self.wbuf.find? (fun w => w.resp.isSome) = some { anEntry with sent := true, resp := some 2 } ∧
     (after (.storeStatusReturn 0) s).self.asyncs = [⟨7, false, 0x40100, 1, 0⟩] ∧
     (after (.storeStatusReturn 0) s).self.wbuf = [anEntry]) := by decide +kernel
/-! ### Loop blocks: one step of one element -/

/-- A window of extent 8 in each dimension, with rows of 8 elements. -/
def aWindow (fmt space base : Nat) : Window :=
  ⟨BitVec.ofNat 64 (fmt * 2 ^ 56 + base), 0x0008000800080008, 0x0000004000000008,
    BitVec.ofNat 64 (2 ^ 31 + space * 2 ^ 28 + 512 * 2 ^ 32)⟩

/-- `item` on tile 0: windows w0 to w3 of fp32 at 0x1000, 0x1100, 0x1200, 0x1300 of the tile store, w4 to w7 of i32 and w8 of ui8 after
them, w9 of fp32 in memory at 0x50000, w10 of fp32 in the cluster pool, w11 of b8p4 and w12 of b8p1u; engines may access memory. -/
def tileState : State := withM (fun m =>
  ((((m.setGrants 2 0 (masterEngine 0) 3).setGrants 2 0 masterHerder 3).setGrants (paTarget (cpoolPa 0 0)).1
      (paTarget (cpoolPa 0 0)).2 (masterEngine 0) 3)).modCtx 0 (fun c => { c with wins :=
    [(0, aWindow 1 0 0x1000), (1, aWindow 1 0 0x1100), (2, aWindow 1 0 0x1200), (3, aWindow 1 0 0x1300), (4, aWindow 6 0 0x1400),
     (5, aWindow 6 0 0x1500), (6, aWindow 6 0 0x1600), (7, aWindow 6 0 0x1700), (8, aWindow 5 0 0x1800), (9, aWindow 1 3 0x50000),
     (10, aWindow 1 1 0x100), (11, aWindow 0x44 0 0x1B00), (12, aWindow 0x61 0 0x1C00)] })) item

/-- Window `k` as an operand whose strides are all 0. -/
def el (k : BitVec 6) : Operand := ⟨1, k, 0, 0xE4, 0, 0, 0, 0, 0, 0, 0, 0, 0⟩
/-- Accumulator tile, or ring, as an operand. -/
def acc (k : BitVec 6) : Operand := ⟨3, k, 0, 0xE4, 0, 0, 0, 0, 0, 0, 0, 0, 0⟩
def ring (k : BitVec 6) : Operand := ⟨2, k, 0, 0, 0, 0, 0, 0, 0, 0, 0, 0, 0⟩
def no : Operand := Operand.none

/-- A block of one iteration. -/
def one (eng : BitVec 2) (o0 o1 o2 o3 : Operand) (d15 : Dword) : Block :=
  { addBlock with eng := eng, lvl := 0, w1 := ⟨0, 0⟩, s1 := ⟨0, 0⟩, b0 := 1, b1 := 1, b2 := 1, b3 := 1, op0 := o0, op1 := o1,
                  op2 := o2, op3 := o3, d15 := d15 }

/-- The chain of engine `e` about to take the first step of `i`. -/
def stepping (e : Eng) (i : Instr) (s : State) : State := withM (fun m => m.modChain 0 e (fun x =>
  { x with st := .running, latched := some i, phase := .steps })) s

/-- Values in the tile store: address, bytes, value. -/
def withS (l : List (Nat × Nat × Nat)) (s : State) : State := withM (fun m => m.modCtx 0 (fun c =>
  { c with store := l.foldl (fun (s : Memory) x => Memory.write s x.1 x.2.1 x.2.2) c.store })) s

/-- What the step of `i` on VX leaves in the first element of w0 (fp32) or w4 (i32), with `x`, `y`, `z` in w1 to w3 and w5 to
w7; and the sticky flags. -/
def vx (i : Instr) (x y z : Nat) : Nat × Nat × BitVec 16 :=
  let s := after i (stepping .vx i (withS [(0x1100, 4, x), (0x1200, 4, y), (0x1300, 4, z), (0x1500, 4, x), (0x1600, 4, y),
    (0x1700, 4, z)] tileState))
  (Memory.read (s.m.ctx 0).store 0x1000 4, Memory.read (s.m.ctx 0).store 0x1400 4, (s.m.ctx 0).vx.flags)

def fp1 : Block := one 2 (el 0) (el 1) no no 0
def fp2 : Block := one 2 (el 0) (el 1) (el 2) no 0
def fp3 : Block := one 2 (el 0) (el 1) (el 2) (el 3) 0
def int2 : Block := one 2 (el 4) (el 5) (el 6) no 0

/-- R368 on fp32. -/
theorem test_vx_arith : (vx (.vxAdd fp2) 0x3F800000 0x40000000 0).1 = 0x40400000 ∧ (vx (.vxSub fp2) 0x3F800000 0x40000000 0).1 = 0xBF800000 ∧
    (vx (.vxMul fp2) 0x40000000 0x40400000 0).1 = 0x40C00000 ∧ (vx (.vxFma fp3) 0x40000000 0x40400000 0x3F800000).1 = 0x40E00000 ∧
    (vx (.vxSqrt fp1) 0x40800000 0 0).1 = 0x40000000 := by decide +kernel
theorem test_vx_order : (vx (.vxMin fp2) 0x80000000 0 0).1 = 0x80000000 ∧ (vx (.vxMax fp2) 0x80000000 0 0).1 = 0 ∧
    (vx (.vxAbs fp1) 0xBF800000 0 0).1 = 0x3F800000 ∧ (vx (.vxNeg fp1) 0x3F800000 0 0).1 = 0xBF800000 ∧
    (vx (.vxClamp fp3) 0x40A00000 0x40000000 0x3F800000).1 = 0x3F800000 := by decide +kernel
/-- R215, R216: 1/2, 1/√4, 2^3 and log2 8 lie on the approximations' grid points. -/
theorem test_vx_approx : (vx (.vxExp2a fp1) 0x40400000 0 0).1 = 0x41000000 ∧ (vx (.vxLog2a fp1) 0x41000000 0 0).1 = 0x40400000 ∧
    (vx (.vxRcpa fp1) 0x7F800000 0 0).1 = 0 ∧ (vx (.vxRsqa fp1) 0x7F800000 0 0).1 = 0 := by decide +kernel
/-- R213: an invalid operation gives the canonical NaN and NV. -/
theorem test_vx_invalid : (vx (.vxSub fp2) 0x7F800000 0x7F800000 0).1 = 0x7FC00000 ∧
    (vx (.vxSub fp2) 0x7F800000 0x7F800000 0).2.2 ≠ 0 ∧ (vx (.vxAdd fp2) 0x3F800000 0x40000000 0).2.2 = 0 := by decide +kernel
/-- R371. -/
theorem test_vx_int : (vx (.vxIadd int2) 0x7FFFFFFF 1 0).2.1 = 0x80000000 ∧ (vx (.vxIsub int2) 0 1 0).2.1 = 0xFFFFFFFF ∧
    (vx (.vxImul int2) 0x10001 0x10001 0).2.1 = 0x20001 ∧ (vx (.vxIand int2) 12 10 0).2.1 = 8 ∧ (vx (.vxIor int2) 12 10 0).2.1 = 14 ∧
    (vx (.vxIxor int2) 12 10 0).2.1 = 6 := by decide +kernel
theorem test_vx_shifts : (vx (.vxIshl int2) 1 33 0).2.1 = 2 ∧ (vx (.vxIshr int2) 0x80000000 31 0).2.1 = 1 ∧
    (vx (.vxIsar int2) 0x80000000 31 0).2.1 = 0xFFFFFFFF ∧ (vx (.vxImin int2) 0xFFFFFFFF 0 0).2.1 = 0xFFFFFFFF ∧
    (vx (.vxImax int2) 0xFFFFFFFF 0 0).2.1 = 0 := by decide +kernel
/-- R369, R370, R372: a compare by REL 2 (`lt`) into a byte mask; the pattern of a NaN kept; the first of an iota. -/
theorem test_vx_select : (vx (.vxSel fp3) 0x7FC12345 1 0).1 = 1 ∧
    (vx (.vxSel (one 2 (el 0) (el 1) (el 2) (el 7) 0)) 0x7FC12345 1 5).1 = 0x7FC12345 ∧
    (vx (.vxIota (one 2 (el 4) no no no 0xFFFFFFFD0000000A)) 0 0 0).2.1 = 10 ∧
    (vx (.vxMove fp1) 0x7FC12345 0 0).1 = 0x7FC12345 ∧ (vx (.vxZero (one 2 (el 1) no no no 0)) 0 0 0).1 = 0 := by decide +kernel
/-- R373 to R377: the worked block quantised and restored, one element at a time. -/
theorem test_vx_quantise :
    let s := withS [(0x1100, 4, 0x40400000), (0x1C00, 1, 0x7A), (0x1B00, 1, 0x7C)] tileState
    let at_ := fun (i : Instr) (a n : Nat) => Memory.read ((after i (stepping .vx i s)).m.ctx 0).store a n
    at_ (.vxScalefind (one 2 (el 12) (el 1) no no 0x44)) 0x1C00 1 = 0x7A ∧
    at_ (.vxPack (one 2 (el 11) (el 1) (el 12) no 0)) 0x1B00 1 = 0x7C ∧
    at_ (.vxUnpack (one 2 (el 0) (el 11) (el 12) no 0)) 0x1000 4 = 0x40400000 ∧
    at_ (.vxExpmax (one 2 (el 4) (el 1) no no 0)) 0x1400 4 = 128 ∧
    at_ (.vxCvt (one 2 (el 4) (el 1) no no 0)) 0x1400 4 = 3 ∧ at_ (.vxRsum (one 2 (el 0) (el 1) no no 0)) 0x1000 4 = 0x40400000 := by
  decide +kernel

/-- ElementBlocks and the operators of three sources: the operands of one step. -/
theorem witness_ElementBlocks :
    let s := stepping .vx (.vxFma fp3) tileState
    s.onlyStep .vx fp3 ∧ s.elemAt fp3.op0 (0, 0, 0, 0) 1 4 0x1000 ∧ s.elemAt fp3.op1 (0, 0, 0, 0) 1 4 0x1100 ∧
    s.elemAt fp3.op2 (0, 0, 0, 0) 1 4 0x1200 ∧ s.elemAt fp3.op3 (0, 0, 0, 0) 1 4 0x1300 ∧ fp3.op0.st0 = 0 ∧ fp1.op2.kind = 0 := by
  unfold State.onlyStep State.firstStep State.elemAt State.coordsAt Mach.quiet; decide +kernel
/-- RunBlocks: an element that is zero, one that is not, and each index. -/
theorem witness_RunBlocks :
    let b := one 2 (el 0) (el 1) (el 5) no 0
    let s := fun (k : Nat) => stepping .vx (.vxPerm b) (withS [(0x1100, 4, 0x40400000), (0x1500, 4, k)] tileState)
    (s 0).onlyStep .vx b ∧ (s 0).elemAt b.op2 (0, 0, 0, 0) 6 4 0x1500 ∧ inVal 1 false 0 = .num false 0 (-149) ∧
    inVal 1 false 0x40400000 = .num false 0xC00000 (-22) ∧
    Memory.read ((after (.vxPerm b) (s 0)).m.ctx 0).store 0x1000 4 = 0x40400000 ∧
    ((after (.vxPerm b) (s 1)).m.ctx 0).vx.st = .faulted ∧ ((after (.vxPerm b) (s 1)).m.ctx 0).vx.cause = 0x22 := by
  unfold State.onlyStep State.firstStep State.elemAt State.coordsAt Mach.quiet; decide +kernel

/-- SequencerBlocks: R325, a loop entered, and left once its counter is at 1; R328 for each engine. -/
theorem witness_SequencerBlocks :
    let b := one 2 no no no no 0
    let i := fun (j : Instr) => stepping .vx j tileState
    (i (.sqNop b)).onlyStep .vx b ∧ ((after (.sqNop b) (i (.sqNop b))).m.ctx 0).vx.phase = .signals ∧
    (after (.sqEvent b) (i (.sqEvent b))).self.kevt = 64 ∧ ((after (.sqEnd b) (i (.sqEnd b))).m.ctx 0).vx.phase = .signals ∧
    (loopPass [] 3 0x00020001).isSome = true ∧
    loopPass ((List.range 4).map (fun k => (k, (⟨true, BitVec.ofNat 12 (k + 10), 5⟩ : SqCtr)))) 3 0x00020001 = none := by
  unfold State.onlyStep State.firstStep Mach.quiet; decide +kernel
/-- PatchBlock: the last dword of the last block of the chain area, and the first block past it; R249 with SRC 1. -/
theorem witness_PatchBlock :
    let b := fun (d15 : Dword) => one 2 no no no no d15
    let i := fun (d : Dword) => after (.sqPatch (b d)) (stepping .vx (.sqPatch (b d)) tileState)
    let d : Dword := 0x0000ABCD13D8F01F
    bits d.toNat 29 28 = 1 ∧ bits d.toNat 11 0 * 128 < 4096 ∧ bits d.toNat 21 16 + (bits d.toNat 27 22 + 1) ≤ 64 ∧
    Memory.read ((i d).m.ctx 0).store (0xFF000 + 128 * 31 + 8 * 15) 8 = 0xABCD * 2 ^ 24 ∧ ((i 0x0000ABCD13D8F020).m.ctx 0).vx.cause = 0x29 := by
  decide +kernel
/-! ### Loop blocks: accumulator tiles, planes, memory, the gangline -/

/-- Tile a0 of 2 × 2 entries with anchor −4, a1 of one entry at row 5, column 5; ring q1 of b8p4 at 0x4000 with signals 4 and 5; plane 0 of
b8p3 with the weight 1.0; a send handle h0 for one entry. -/
def mxState : State := withS [(0x4000, 1, 0x44)] (withM (fun m => m.modCtx 0 (fun c =>
  { c with acfg := [(0, 0xC00007FC01010000), (1, 0xC00007FC00000505)], rings := [(1, ⟨0x8044442900104000, 0x100000000, (0, 0), (0, 0), none, none⟩)],
           hnd := [(0, 0x80000A20BFF00000)], acc := [(129, ⟨30, 0, false, false, 2⟩)],
           ext := { c.ext with p0 := { c.ext.p0 with fmt := 0x43, w := [(0, 0x40)] } } })) tileState)

/-- What a MX step leaves of accumulator entry `k`. -/
def mxEntry (i : Instr) (k : Nat) : AqEntry := tget AqEntry.zero ((after i (stepping .mx i mxState)).m.ctx 0).acc k

/-- BlockStepWrites: a step that is taken, and one that is stopped; one of MX; a chain whose turn for steps has not come. -/
theorem witness_BlockStepWrites :
    let s := stepping .vx (.vxAdd fp2) tileState
    (∃ x, stepOf (.vxAdd fp2) s = some x ∧ x.parity s.turn.tile s.m = false ∧
      (match x.try_ s.turn.tile s.m with | .taken .. => true | _ => false) = true) ∧
    (let i := Instr.vxAdd (one 2 (el 0) (el 40) (el 2) no 0)
     ∃ x, stepOf i s = some x ∧ (match x.try_ s.turn.tile (stepping .vx i tileState).m with | .stopped _ => true | _ => false) = true) ∧
    (let i := Instr.mxAzero (one 1 (acc 0) no no no 0)
     let s := stepping .mx i mxState
     ∃ x, stepOf i s = some x ∧ x.eng = .mx ∧ x.parity s.turn.tile s.m = false ∧ s.m.stoppedNow 0 .mx = false ∧
       (match x.try_ s.turn.tile s.m with | .taken _ _ _ m => m.sram1.isEmpty && m.sram2.isEmpty | _ => false) = true) ∧
    tileState.m.chainGoes 0 .vx = false :=
  ⟨⟨_, rfl, by decide +kernel, by decide +kernel⟩, ⟨_, rfl, by decide +kernel⟩,
    ⟨_, rfl, rfl, by decide +kernel, by decide +kernel, by decide +kernel⟩, by decide +kernel⟩
/-- SequencerBlocks: sq.end of MX: a held, a held window's and a deferred signal that fit together, and one too many. -/
theorem witness_SqEndMx :
    let b := one 1 no no no no 0
    let s := fun (n : BitVec 16) => stepping .mx (.sqEnd b) (withM (fun m => m.modCtx 0 (fun c => { c with
      sems := [(6, n)], ext := { c.ext with defer := [(6, 3)], p0 := { c.ext.p0 with held := [(6, 1)], heldWin := [(6, 2)] } } })) mxState)
    (s 65529).onlyStep .mx b ∧ (((after (.sqEnd b) (s 65529)).m.ctx 0).sem 6).toNat = 65535 ∧
    ((after (.sqEnd b) (s 65529)).m.ctx 0).mx.phase = .signals ∧ ((after (.sqEnd b) (s 65530)).m.ctx 0).mx.cause = 0x27 := by
  unfold State.onlyStep State.firstStep Mach.quiet; decide +kernel

/-- R349: 1.5 × 1.0 at anchor −4 is 24; R353, R354, R358. -/
theorem test_mx_accumulate : mxEntry (.mxMma (one 1 (acc 0) (ring 1) no no 0)) 0 = ⟨24, 0, false, false, 1⟩ ∧
    mxEntry (.mxAfill (one 1 { acc 0 with c0 := 1, c1 := 1 } (el 1) no no 0)) 129 = AqEntry.zero ∧
    mxEntry (.mxAzero (one 1 { acc 0 with c0 := 1, c1 := 1 } no no no 0)) 129 = AqEntry.zero := by decide +kernel
/-- R355, R356: 30 × 2^−4 is 1.875, and with the bias 0.125 it is 2.0. -/
theorem test_mx_drain :
    let e : Operand := { acc 0 with c0 := 1, c1 := 1 }
    let rd := fun (i : Instr) => Memory.read ((after i (stepping .mx i (withS [(0x1300, 4, 0x3E000000)] mxState))).m.ctx 0).store 0x1000 4
    rd (.mxAread (one 1 (el 0) e no no 0)) = 0x3FF00000 ∧ rd (.mxAdrain (one 1 (el 0) e no (el 3) 0)) = 0x40000000 := by
  decide +kernel
/-- R358: the entry of a1 rebased from anchor −4 to −6 is four times as large. -/
theorem test_mx_arebase :
    let i := Instr.mxArebase (one 1 (acc 1) no no no 0x7FA)
    let s := withM (fun m => m.modCtx 0 (fun c => { c with acc := [(645, ⟨30, 0, false, false, 2⟩)] })) mxState
    let c := (after i (stepping .mx i s)).m.ctx 0
    (tget AqEntry.zero c.acc 645).i = 120 ∧ c.accCfg 1 = 0xC00007FA00000505 := by decide +kernel

/-- AccumulatorBlocks: the operands of each operator. -/
theorem witness_AccumulatorBlocks :
    let b := one 1 (acc 0) (ring 1) no no 0
    let s := stepping .mx (.mxMma b) mxState
    let r := (s.m.ctx 0).ring 1
    s.onlyStep .mx b ∧ s.entryIs 0 (operandCoords b.op0 (0, 0, 0, 0)) 0 ∧ s.elemAt (el 1) (0, 0, 0, 0) 1 4 0x1100 ∧
    ringSrc r = 0x44 ∧ popFmt r b.op1 = 0x44 ∧ ringBase r * 8 + r.head.1 * ringSlotu r * 512 + r.head.2 * 8 = 8 * 0x4000 ∧
    0x4000 + 1 ≤ chainBase (s.m.chareaOf 0) ∧ ((s.m.ctx 0).ext.plane 0).sparse = false ∧
    accNRow ((s.m.ctx 0).accCfg 1) = 0 ∧ accNCol ((s.m.ctx 0).accCfg 1) = 0 ∧ (s.m.ctx 0).reserved 1 = false := by
  unfold State.onlyStep State.firstStep State.entryIs State.elemAt State.coordsAt Mach.quiet; decide +kernel
/-- DrainBlocks. -/
theorem witness_DrainBlocks :
    let b := one 1 (el 0) { acc 0 with c0 := 1, c1 := 1 } (el 2) (el 3) 0
    let s := stepping .mx (.mxAdrain b) mxState
    s.onlyStep .mx b ∧ s.elemAt b.op0 (0, 0, 0, 0) 1 4 0x1000 ∧ s.entryIs 0 (operandCoords b.op1 (0, 0, 0, 0)) 129 ∧
    (tget (false, 0) (s.m.ctx 0).ext.dup 0).1 = false ∧ s.elemAt b.op2 (0, 0, 0, 0) 1 4 0x1200 ∧
    s.elemAt b.op3 (0, 0, 0, 0) 1 4 0x1300 := by
  unfold State.onlyStep State.firstStep State.entryIs State.elemAt State.coordsAt Mach.quiet; decide +kernel
/-- WeightBlocks: a dense weight, four entries of a sparse column, and an index that is not below 128. -/
theorem witness_WeightBlocks :
    let row := fun (k : BitVec 6) => ({ el k with st1 := 1 } : Operand)
    let b : Block := { one 1 no (row 11) (row 8) no 0 with b1 := 4 }
    let s := fun (m : Nat) => stepping .mx (.mxWloads b) (withS [(0x1B00, 1, 0x44), (0x1B08, 1, 0x38), (0x1800, 1, 3), (0x1808, 1, m)] mxState)
    (s 5).firstStep .mx ∧ (∀ j : Fin 4, (s 5).elemAt b.op1 (0, j.val, 0, 0) 0x44 1 (0x1B00 + 8 * j.val)) ∧
    (∀ j : Fin 4, (s 5).elemAt b.op2 (0, j.val, 0, 0) 5 1 (0x1800 + 8 * j.val)) ∧
    (let p := ((after (.mxWloads b) (s 127)).m.ctx 0).ext.plane 0
     p.sparse = true ∧ tget 0 p.w 1 = 0x38 ∧ tget 0 p.rows 1 = 256) ∧
    ((after (.mxWloads b) (s 128)).m.ctx 0).mx.cause = 0x3A ∧
    (let i := Instr.mxWload (one 1 no (el 11) no no 0)
     ((after i (stepping .mx i (s 5))).m.ctx 0).ext.plane 0 |>.w) = [(0, 0x44)] := by
  unfold State.firstStep State.elemAt State.coordsAt Mach.quiet; decide +kernel
/-- GanglineSend: R225, R357. -/
theorem witness_GanglineSend :
    let b := one 1 no (acc 1) no no 0
    let s := stepping .mx (.mxGlsend b) mxState
    let h := (s.m.ctx 0).handle 0
    let cfg := (s.m.ctx 0).accCfg 1
    s.onlyStep .mx b ∧ accNRow cfg = 0 ∧ accNCol cfg = 0 ∧ bits h.toNat 17 4 = 0 ∧ h.getLsbD 63 = true ∧ h.getLsbD 62 = false ∧
    h.getLsbD 61 = false ∧ accAnchor cfg = (h.extractLsb' 18 11).toInt ∧ s.m.tagRoom 0 (List.replicate 64 (s.m.glDest 0 b)) = true ∧ s.m.routed 0 0 = true ∧
    firstTag [] 0 0 1 0 = some 0 ∧ ((after (.mxGlsend b) s).m.die 0).inq.length = 1 ∧
    (((after (.mxGlsend b) s).m.die 0).inq.map (fun x => (x.op, x.addr))) = [(0x20, 0x290A)] := by
  unfold State.onlyStep State.firstStep Mach.quiet; decide +kernel

/-- MemoryBlocks: an element in memory, one in the cluster pool. -/
theorem witness_memAt : tileState.memAt (el 9) 1 4 0x50000 .read ∧ tileState.memAt (el 9) 1 4 0x50000 .atomic ∧
    tileState.memAt (el 10) 1 4 (cpoolPa 0 0x100) .write := by
  refine ⟨⟨by decide +kernel, by decide +kernel, by decide +kernel, ⟨0x50000, by decide +kernel, by decide, .inl ⟨by decide +kernel, tlbFresh_of_nil _ _ (by decide +kernel), true, by decide +kernel⟩⟩,
    by decide, by decide, by decide +kernel, by decide +kernel⟩, ⟨by decide +kernel, by decide +kernel, by decide +kernel,
    ⟨0x50000, by decide +kernel, by decide, .inl ⟨by decide +kernel, tlbFresh_of_nil _ _ (by decide +kernel), true, by decide +kernel⟩⟩, by decide, by decide, by decide +kernel, by decide +kernel⟩,
    ⟨by decide +kernel, by decide +kernel, by decide +kernel, ⟨0x100, by decide +kernel, by decide, .inr ⟨by decide +kernel, by decide +kernel, by decide +kernel⟩⟩,
    by decide +kernel, by decide +kernel, by decide +kernel, by decide +kernel⟩⟩
/-- R332, R335 to R337: what LD brings and ST writes. -/
theorem test_memory_blocks :
    let s := withMem 0x50000 4 0x3F800000 (withS [(0x1000, 4, 0x40000000)] tileState)
    let run := fun (e : Eng) (i : Instr) => after i (stepping e i s)
    Memory.read ((run .ld (.ldCopy (one 0 (el 0) (el 9) no no 0))).m.ctx 0).store 0x1000 4 = 0x3F800000 ∧
    Memory.read (run .ld (.ldPref (one 0 (el 10) (el 9) no no 0))).m.mem (cpoolPa 0 0x100) 4 = 0x3F800000 ∧
    Memory.read (run .st (.stCopy (one 3 (el 9) (el 0) no no 0))).m.mem 0x50000 4 = 0x40000000 ∧
    Memory.read (run .st (.stReduce (one 3 (el 9) (el 0) no no 1))).m.mem 0x50000 4 = 0x40400000 ∧
    Memory.read ((run .ld (.ldFill (one 0 (el 0) no no no 0x12345678))).m.ctx 0).store 0x1000 4 = 0x12345678 := by decide +kernel
theorem witness_classOwed : tileState.m.classOwed 0 .ld 0 = [] ∧ tileState.m.classOwed 0 .st 0 = [] := by decide +kernel
/-- MemoryBlocks and IndexedBlocks: the first steps; the last index inside, the first outside, with SKIP and without. -/
theorem witness_IndexedBlocks :
    let b := one 0 (el 0) (el 1) (el 5) no 0
    let bs := one 0 (el 0) (el 1) (el 5) no 4
    let s := fun (k : Nat) (i : Instr) => stepping .ld i (withS [(0x1500, 4, k), (0x1000, 4, 9), (0x111C, 4, 77)] tileState)
    (s 7 (.ldGather b)).onlyStep .ld b ∧ (s 7 (.ldGather b)).elemAt b.op2 (0, 0, 0, 0) 6 4 0x1500 ∧ intCode 6 7 = 7 ∧
    (s 7 (.ldGather b)).coordsAt b.op1 [7, 0, 0, 0] 1 4 0x111C ∧
    Memory.read ((after (.ldGather b) (s 7 (.ldGather b))).m.ctx 0).store 0x1000 4 = 77 ∧
    Memory.read ((after (.ldGather bs) (s 8 (.ldGather bs))).m.ctx 0).store 0x1000 4 = 0 ∧
    ((after (.ldGather b) (s 8 (.ldGather b))).m.ctx 0).ld.cause = 0x22 := by
  unfold State.onlyStep State.firstStep State.elemAt State.coordsAt Mach.quiet; decide +kernel
theorem witness_Scatter :
    let b := one 3 (el 0) (el 1) (el 5) no 0
    let bs := one 3 (el 0) (el 1) (el 5) no 4
    let s := fun (k : Nat) (i : Instr) => stepping .st i (withS [(0x1500, 4, k), (0x1100, 4, 9)] tileState)
    (s 7 (.stScatter b)).onlyStep .st b ∧ Memory.read ((after (.stScatter b) (s 7 (.stScatter b))).m.ctx 0).store 0x101C 4 = 9 ∧
    ((after (.stScatter bs) (s 8 (.stScatter bs))).m.ctx 0).st.phase = .signals ∧
    ((after (.stScatter b) (s 8 (.stScatter b))).m.ctx 0).st.cause = 0x22 := by
  unfold State.onlyStep State.firstStep Mach.quiet; decide +kernel
/-- BroadcastBlock: tiles 0 and 1 of one slot, semaphore 5, amount 1. -/
theorem witness_BroadcastBlock :
    let b := one 0 (el 0) (el 1) no no 0x2503
    let s := stepping .ld (.ldBcast b) (withS [(0x1100, 4, 9)] (withM (fun m =>
      (m.modTile 1 (fun x => { x with bind := some { aBind with pos := 1 } })).modCtx 1 (fun c => { c with sems := [(5, 65534)] })) tileState))
    s.onlyStep .ld b ∧ (∀ u : Fin 256, TileId.cluster (BitVec.ofFin u) = TileId.cluster 0 → tst 0x2503 (TileId.num (BitVec.ofFin u)).toNat = true →
      u.val = 0 ∨ u.val = 1) ∧
    (∀ u ∈ [(0 : TileId), 1], (s.m.tile u).halting = false ∧ ((s.m.ctx u).sem 5).toNat + 1 ≤ 65535 ∧ ((s.m.tile u).bind.map (·.lid)) = some 1) ∧
    Memory.read ((after (.ldBcast b) s).m.ctx 1).store 0x1000 4 = 9 ∧ (((after (.ldBcast b) s).m.ctx 1).sem 5).toNat = 65535 := by
  unfold State.onlyStep State.firstStep Mach.quiet; decide +kernel

/-! ### Chains: latching, waits, signals -/

/-- A record as block `j` of tile 0's chain area, and the VX chain standing at it with nothing latched. -/
def atBlock (j : Nat) (ds : List Dword) (s : State) : State := withM (fun m => m.modChain 0 .vx (fun x =>
  { x with st := .running, cur := j })) (withS (ds.zipIdx.map (fun x => (0xFF000 + 128 * j + 8 * x.2, 8, x.1.toNat))) s)

/-- BlockLatching: the last block and the first past the area; each kind of fault in the order of R246; a block that is
latched, and one that is over because a bound is zero. -/
theorem witness_BlockLatching :
    let go := fun (j : Nat) (ds : List Dword) => (after (.blockLatch 0 .vx) (atBlock j ds tileState)).m.ctx 0
    (atBlock 31 addRecord tileState).m.chainGoes 0 .vx = true ∧ chainBlocks (tileState.m.chareaOf 0) = 32 ∧
    (go 32 addRecord).vx.cause = 0x22 ∧ (go 31 addRecord).vx.latched = some (.vxAdd addBlock) ∧ (go 0 []).vx.cause = 0x20 ∧
    (go 0 (addRecord.set 0 0x00408201)).vx.cause = 0x21 ∧ (go 0 (addRecord.set 3 0xE400A1)).vx.cause = 0x22 ∧
    (go 0 (addRecord.set 3 0xE40011)).vx.cause = 0x31 ∧ (go 0 (addRecord.set 3 0xE40025)).vx.cause = 0x21 ∧
    (go 0 (addRecord.set 2 0x0001000100040000)).vx.cur = 1 := by decide +kernel
/-- BlockLatching: a ring that another engine consumes; a MX block. -/
theorem witness_LatchRings :
    let b := one 2 (el 0) (ring 1) (el 2) no 0
    let s := withM (fun m => m.modCtx 0 (fun c =>
      { c with rings := [(1, ⟨0x8001012900104000, 0x100000000, (0, 0), (0, 0), none, some .st⟩)] })) tileState
    (((atBlock 0 (encBlock 0x201 b) s).m.ctx 0).bindRings .vx b).isNone = true ∧
    ((after (.blockLatch 0 .vx) (atBlock 0 (encBlock 0x201 b) s)).m.ctx 0).vx.cause = 0x28 ∧
    (let x := one 1 (acc 0) no no no 0
     let m := withM (fun m => m.modChain 0 .mx (fun c => { c with st := .running })) (atBlock 0 (encBlock 0x104 x) mxState)
     ((after (.blockLatch 0 .mx) m).m.ctx 0).mx.latched = some (.mxAzero x)) := by decide +kernel

/-- BlockLatching: a block whose last step has issued is over but for its signal, and the next one latches; a MX window that opens with
a deferred signal that fits, and one that does not. -/
theorem witness_LatchFlies :
    let s := withM (fun m => m.modChain 0 .vx (fun x => { x with latched := some (.vxAdd addBlock), phase := .signals, due := 1, last := true }))
      (atBlock 0 addRecord tileState)
    let y := (after (.blockLatch 0 .vx) (atBlock 1 addRecord tileState)).m.ctx 0
    s.m.flies 0 .vx = true ∧ y.vx.latched = some (.vxAdd addBlock) ∧
    (let t := after (.blockLatch 0 .vx) (withS (addRecord.zipIdx.map (fun x => (0xFF080 + 8 * x.2, 8, x.1.toNat))) s)
     (t.m.ctx 0).vx.flight = [(0, [(2, 1)])] ∧ (t.m.ctx 0).vx.cur = 1 ∧ (t.m.ctx 0).vx.phase = .waits ∧ (t.m.ctx 0).vx.latched = some (.vxAdd addBlock)) ∧
    (let b := { one 1 (acc 0) no no no 0 with ts := true }
     let w := fun (n : BitVec 16) => (after (.blockLatch 0 .mx) (withM (fun m => (m.modChain 0 .mx (fun x => { x with st := .running })).modCtx 0 (fun c =>
       { c with sems := [(6, n)], ext := { c.ext with defer := [(6, 3)] } })) (atBlock 0 (encBlock 0x104 b) mxState))).m.ctx 0
     ((w 65532).sem 6).toNat = 65535 ∧ (w 65532).ext.defer = [] ∧ (w 65532).mx.latched = some (.mxAzero b) ∧ (w 65533).mx.cause = 0x27) := by
  decide +kernel

/-- The worked VX.ADD waits on s1 and signals s2. -/
def waiting (n : BitVec 16) : State := withM (fun m => (m.modCtx 0 (fun c => { c with sems := [(1, n), (2, 65535)] })).modChain 0 .vx
  (fun x => { x with st := .running, latched := some (.vxAdd addBlock) })) tileState
/-- WaitsTogether: enough, and one too few; no ring moves. -/
theorem witness_WaitsTogether :
    ((waiting 1).m.ctx 0).ringTakes (ringMoves 0x201 addBlock 64) = some [] ∧ amountOf (waitsOf addBlock 1) 1 = 1 ∧
    ((after (.semaphoreWaitGrant 0 .vx) (waiting 1)).m.ctx 0).vx.phase = .steps ∧
    (((after (.semaphoreWaitGrant 0 .vx) (waiting 1)).m.ctx 0).sem 1).toNat = 0 ∧
    ((after (.semaphoreWaitGrant 0 .vx) (waiting 0)).m.ctx 0).vx.phase = .waits := by decide +kernel
/-- SignalsGiven: a signal that fits, and one past 65,535; the last step; a failed write; SQ.LOOP and SQ.END. -/
theorem witness_SignalsGiven :
    let sig := fun (n : BitVec 16) (last : Bool) (st : Nat) (i : Instr) => withM (fun m =>
      (m.modCtx 0 (fun c => { c with sems := [(2, n)] })).modChain 0 .vx (fun x =>
        { x with latched := some i, phase := .signals, due := 1, last := last, outst := (st, 3), i0 := 7 })) (waiting 0)
    let go := fun (s : State) => (after (.iterationSignal 0 .vx) s).m.ctx 0
    ((go (sig 65534 false 0 (.vxAdd addBlock))).sem 2).toNat = 65535 ∧ (go (sig 65534 false 0 (.vxAdd addBlock))).vx.phase = .waits ∧
    (go (sig 65535 false 0 (.vxAdd addBlock))).vx.cause = 0x27 ∧ (go (sig 0 true 0 (.vxAdd addBlock))).vx.cur = 1 ∧
    (go (sig 0 false 2 (.vxAdd addBlock))).vx.cause = 0x25 ∧ (go (sig 0 true 0 (.sqEnd addBlock))).vx.st = .ended ∧
    (go (sig 0 true 0 (.sqLoop addBlock))).vx.cur = 7 := by decide +kernel
/-- WaitsTogether, SignalsGiven: an MX wait on the same count that could be granted, or a signal of MX to it, goes first. -/
theorem witness_EngineOrder :
    let mx := fun (ph : Phase) (s : State) => withM (fun m => m.modChain 0 .mx (fun x =>
      { x with st := .running, latched := some (.vxAdd addBlock), phase := ph, due := 1 })) s
    let w := mx .waits (waiting 1)
    let g := mx .signals (withM (fun m => m.modChain 0 .vx (fun x => { x with phase := .signals, due := 1 })) (waiting 1))
    w.m.outranked 0 .vx [(1, 1)] = true ∧ (mx .waits (waiting 0)).m.outranked 0 .vx [(1, 1)] = false ∧
    ((after (.semaphoreWaitGrant 0 .vx) w).m.ctx 0).vx.phase = .waits ∧ g.m.signalsFirst 0 .vx = true ∧ w.m.signalsFirst 0 .vx = false ∧
    ((after (.iterationSignal 0 .vx) g).m.ctx 0).vx.phase = .signals := by decide +kernel
/-- LandedSignals: the signal of block 4, which has landed, goes before that of the latched block; and one that does not fit. -/
theorem witness_LandedSignals :
    let s := fun (n : BitVec 16) => withM (fun m => (m.modCtx 0 (fun c => { c with sems := [(2, n)] })).modChain 0 .vx (fun x =>
      { x with cur := 5, flight := [(4, [(2, 3)])] })) (waiting 0)
    let t := fun (n : BitVec 16) => (after (.iterationSignal 0 .vx) (s n)).m.ctx 0
    (s 0).m.signalsFirst 0 .vx = false ∧ ((s 0).m.ctx 0).vx.landsFirst = true ∧ ((t 65532).sem 2).toNat = 65535 ∧ (t 65532).vx.flight = [] ∧
    (t 65532).vx.phase = .waits ∧ (t 65533).vx.cause = 0x27 ∧ (after (.iterationSignal 0 .vx) (s 65533)).self.asyncs.map (·.tval) = [0x20004] := by
  decide +kernel
/-- WaitsTogether: MX, with too few of what it waits for, gives what it has deferred, which fits or does not.
MxSignals: of mx.azero, mx.wload, mx.aread and sq.nop, and one past 65,535. -/
theorem witness_MxSignals :
    let mx := fun (n : BitVec 16) (ph : Phase) (i : Instr) => withM (fun m => (m.modChain 0 .mx (fun x =>
      { x with st := .running, latched := some i, phase := ph, due := 1, dueSig := [(7, 2)], last := true })).modCtx 0 (fun c =>
        { c with sems := [(6, n), (7, n)], ext := { c.ext with defer := [(6, 3)] } })) mxState
    let go := fun (n : BitVec 16) (i : Instr) => (after (.iterationSignal 0 .mx) (mx n .signals i)).m.ctx 0
    let wt := fun (n : BitVec 16) => (after (.semaphoreWaitGrant 0 .mx) (mx n .waits (.mxAzero { one 1 (acc 0) no no no 0 with w1 := ⟨1, 8⟩ }))).m.ctx 0
    ((wt 65532).sem 6).toNat = 65535 ∧ (wt 65532).ext.defer = [] ∧ (wt 65532).mx.phase = .waits ∧ (wt 65533).mx.cause = 0x27 ∧
    (go 65535 (.mxAzero (one 1 (acc 0) no no no 0))).deferred = [(6, 3), (7, 2)] ∧ (go 65535 (.mxAzero (one 1 (acc 0) no no no 0))).mx.cur = 1 ∧
    ((go 65535 (.mxWload (one 1 no (el 11) no no 0))).sem 7).toNat = 65535 ∧
    ((go 0 (.mxAread (one 1 (el 0) (acc 1) no no 0))).sem 7).toNat = 2 ∧
    ((go 65533 (.sqNop (one 1 no no no no 0))).sem 7).toNat = 65535 ∧ (go 65534 (.sqNop (one 1 no no no no 0))).mx.cause = 0x27 := by decide +kernel
/-- FaultsOfOneCycle: the MX chain's fault stops LD in a cycle in which LD would latch past its chain area; the trap names LD. -/
theorem witness_FaultsOfOneCycle :
    let f := (atBlock 0 addRecord (withM (fun m => (m.modChain 0 .ld (fun x => { x with st := .running, cur := 32 })).modChain 0 .mx (fun x =>
      { x with st := .running, cur := 9 })) tileState)).onM (fun m => m.chainFault 0 .mx 9 .lbRange)
    let t := after (.blockLatch 0 .ld) f
    f.m.stoppedNow 0 .ld = true ∧ f.self.asyncs.map (·.tval) = [0x10009] ∧ (f.self.asyncs.map (fun a => a.engAt f.m.time)) = [some 1] ∧
    chainBlocks (f.m.chareaOf 0) ≤ (f.m.ctx 0).ld.cur ∧ (t.m.ctx 0).ld.cause = 0x22 ∧ t.self.asyncs.map (·.tval) = [32] := by decide +kernel
/-- WriteResponse. -/
theorem witness_WriteResponse :
    let s := withM (fun m => m.modChain 0 .st (fun x => { x with st := .ended, outst := (3, 6) })) tileState
    ((after (.stWriteResponse 0) s).m.ctx 0).st.cause = 0x26 ∧ (after (.stWriteResponse 0) s).self.asyncs = [⟨0x26, true, 0x30006, 0, 0⟩] ∧
    (after (.stWriteResponse 0) tileState).self.asyncs = [] := by decide +kernel
/-! ### The Herder: packets and their ends, registers, queues -/

/-- `s` with firmware running and READY, and memory granted to the physical function. -/
def up (s : State) : State := { withM (fun m => { m with pfGranted := true }) s with fw := { s.fw with boot := .ready } }
/-- Queue 3 of partition 0, ACTIVE with packet 0 fetched, which is `i`; its turn. -/
def queued (i : Instr) (s : State) : State :=
  let s := up (withM (fun m => m.modQueue 3 (fun q =>
    { q with state := .active, base := 0x80000, latch := 1, cidx := 1, held := some i })) s)
  { s with turn := { s.turn with act := .packet, queue := 3 } }
def hdr0 : PktHdr := ⟨0, false, 0, 0, false, 0⟩
/-- With a completion signal at 0x60000 and vector 5. -/
def hdr1 : PktHdr := ⟨5, true, 0, 0, false, 0x60000⟩
def aDisp : Disp := ⟨.queue 3, 0, 3, 0, 0⟩

/-- PacketDispatch and PacketResults: a NOP with a completion signal and a vector. -/
theorem witness_PacketDispatch :
    let s := queued (.nop hdr1) (withMem 0x60000 8 4 tileState)
    s.dispatchOf (.nop hdr1) = some aDisp ∧ (s.m.takePkt aDisp (.nop hdr1)).signalAt 0 0x60000 0x60000 .atomic ∧
    (queued (.nop hdr0) tileState).dispatchOf (.nop hdr1) = none ∧
    (let t := after (.nop hdr1) s
     Memory.read t.m.mem 0x60000 8 = 3 ∧ (t.m.func 0).msixPending = 0x20 ∧ (t.m.queue 3).held = none) := by
  refine ⟨by decide +kernel, ⟨⟨⟨true, by decide +kernel⟩, by decide +kernel, ⟨by decide +kernel, by decide +kernel, by decide +kernel⟩,
    by decide +kernel⟩, by decide +kernel⟩, by decide +kernel, by decide +kernel⟩
/-- R73: DEC saturates at 0, INC and SET; R82, R83: what COND skips, and TIMESTAMP. -/
theorem test_packets :
    let run := fun (i : Instr) => after i (queued i (withMem 0x70000 8 1 tileState))
    let sig := fun (op : BitVec 2) (v : Dword) => Memory.read (run (.signal hdr0 ⟨0x70000, v, op⟩)).m.mem 0x70000 8
    sig 0 1 = 0 ∧ sig 1 9 = 10 ∧ sig 2 0xFFFFFFFFFFFFFFFF = 2 ^ 64 - 1 ∧
    ((run (.cond hdr0 ⟨0x70000, 1, 0, 255, 0, true, 0⟩)).m.queue 3).skip = 255 ∧
    ((run (.cond hdr0 ⟨0x70000, 2, 0, 255, 0, true, 0⟩)).m.queue 3).skip = 0 ∧
    (let s := withM (fun m => { m with time := 77 }) (queued (.timestamp hdr0 0x70000) tileState)
     Memory.read (after (.timestamp hdr0 0x70000) s).m.mem 0x70000 8 = 77) := by decide +kernel
/-- PacketResults: each packet's own condition. R80: a negative signal, one at its threshold, one above. -/
theorem witness_PacketResults :
    let run := fun (v : Nat) (i : Instr) => after i (queued i (withMem 0x70000 8 v tileState))
    let w : Instr := .waitsig hdr0 ⟨0x70000, 0, 0, 0, 5, 0, 0, 0, 0⟩
    ((run (2 ^ 64 - 1) w).m.queue 3).errcode = 3 ∧ (run 5 w).m.works = [] ∧ ((run 6 w).m.work 0).isSome = true ∧
    ((run 0 (.drain hdr0 true)).m.works = []) ∧ (run 0 (.copy hdr0 ⟨false, 0x70000, 0x70000, 0, 1, 0, 0⟩)).m.works = [] ∧
    ((run 0 (.copy hdr0 ⟨false, 0x70000, 0x7003F, 64, 1, 0, 0⟩)).m.queue 3).errcode = 3 ∧
    (let i := Instr.copy hdr0 ⟨false, 0x70000, 0x70040, 64, 1, 0, 0⟩
     copyOverlaps ⟨false, 0x70000, 0x70040, 64, 1, 0, 0⟩ = false ∧ (tget [] ((run 0 i).m.die 0).copies 0).length = 1) ∧
    (run 0 (.iinvPacket hdr0 0 0 0 4)).m.works = [] ∧ (((run 0 (.iinvPacket hdr0 0 64 1 3)).m.work 0).map (·.acks)) = some [1] ∧
    (((run 0 (.iinvPacket hdr0 0 64 0 4)).m.work 0).map (·.acks)) = some [0, 1, 2, 3] := by decide +kernel
/-- A kernel object at 0x90000 with one template, and a graph object at 0x98000 of one node. -/
def objects (s : State) : State :=
  withMem 0x98010 8 0x99000 (withMem 0x98000 8 0x147524146 (withMem 0x91008 8 0x20001 (withMem 0x91000 8 0x92000 (withMem 0x90020 8 1
    (withMem 0x90010 8 0x91000 (withMem 0x90008 8 0x30000 (withMem 0x90000 8 0x1004B4F424A s)))))))
/-- The cluster lists the partition, for a LAUNCH. -/
def listed (s : State) : State := withM (fun m => m.modClu 0 (fun c => { c with parts := 0, valid := 1, resident := some 0 })) s
/-- PacketResults: GRAPH of a good object and of one that is none; LAUNCH of nothing and of one item. -/
theorem witness_GraphAndLaunch :
    let g := Instr.graph hdr0 0x98000 0
    let l := fun (n : Word) => Instr.launch hdr0 ⟨0x90000, n, 0, 0, 1, 1, 1, 1, 0, false, 1, 0, 0, 0⟩
    let run := fun (i : Instr) => after i (queued i (listed (objects tileState)))
    ((run g).m.inst 0).isSome = true ∧ ((after (.graph hdr0 0x98040 0) (queued (.graph hdr0 0x98040 0) tileState)).m.queue 3).errcode = 7 ∧
    (run (l 0)).m.works = [] ∧ (queued (l 1) (listed (objects tileState))).dispatchOf (l 1) = some aDisp ∧
    (match (objects tileState).m.checkKernel 0 0x90000 0 with | .ok (k, _) => decide (k.charea = 1 ∧ k.tmpls = [⟨0x92000, false, 2, 1⟩]) | _ => false) = true ∧
    ((queued (l 1) (listed (objects tileState))).m.weights 0 ⟨0x90000, 1, 0, 0, 1, 1, 1, 1, 0, false, 1, 0, 0, 0⟩).sum ≠ 0 := by
  decide +kernel

/-- PacketResults: a LAUNCH of nothing with a confirmation signal (R124). -/
theorem witness_LaunchOfNothing :
    let i := Instr.launch hdr0 ⟨0x90000, 0, 0, 0, 1, 1, 1, 1, 0, false, 1, 0, 0x70000, 0⟩
    let s := queued i (listed (withMem 0x70000 8 1 (objects tileState)))
    s.dispatchOf i = some aDisp ∧ (s.m.takePkt aDisp i).signalAt 0 0x70000 0x70000 .atomic ∧
    Memory.read (after i s).m.mem 0x70000 8 = 0 := by
  refine ⟨by decide +kernel, ⟨⟨⟨true, by decide +kernel⟩, by decide +kernel, ⟨by decide +kernel, by decide +kernel, by decide +kernel⟩,
    by decide +kernel⟩, by decide +kernel⟩, by decide +kernel⟩
/-- HerderFetches: a packet that decodes and one that does not; a full ring and one packet more; a skip; nothing to fetch. -/
theorem witness_HerderFetches :
    let s := fun (latch : Dword) (skip d0 : Nat) => withM (fun m => m.modQueue 3 (fun q =>
      { q with held := none, cidx := 0, latch := latch, skip := skip })) (queued (.nop hdr0) (withMem 0x80000 8 d0 tileState))
    let go := fun (latch : Dword) (skip d0 : Nat) => (after (.packetFetch 3) (s latch skip d0)).m.queue 3
    (s 1 0 1).herding = true ∧ (s 1 0 1).m.blocked (.queue 3) = false ∧ (go 1 0 1).held = some (.nop hdr0) ∧ (go 1 0 1).cidx = 1 ∧
    (go 1 0 0).errcode = 1 ∧ (go 16 0 1).held = some (.nop hdr0) ∧ (go 17 0 1).errcode = 8 ∧ (go 1 1 0).cidx = 1 ∧ (go 1 1 0).skip = 0 ∧
    (go 0 0 1).cidx = 0 := by decide +kernel
/-- HerderFetches: the next node of an instance. -/
theorem witness_GraphNode :
    let x : Inst := { gobj := 0x98000, queue := 3, part := 0, work := 0, nodes := 1, nodea := 0x99000, patched := [], next := 0,
                      iters := [], ended := false, fail := none, start := 0 }
    let s := withM (fun m => (m.setInst 0 (some x)).modQueue 3 (fun q => { q with held := none }))
      (queued (.nop hdr0) (withMem 0x99000 8 1 tileState))
    let s := { s with turn := { s.turn with act := .node } }
    s.m.nodeReady 0 = true ∧ s.m.served = some 3 ∧ (((after (.graphNodeDispatch 0) s).m.inst 0).map (·.next)) = some 1 := by
  decide +kernel

/-- A packet's work in hand. -/
def aWork (i : Instr) (st : WState) : Work := ⟨.queue 3, 0, i, hdr0, 0, 0, 0, st, [], false, 0, none, 0⟩
def working (w : Work) (v : Nat) : State := withM (fun m => m.setWork 5 (some w)) (queued (.nop hdr0) (withMem 0x70000 8 v tileState))
/-- PacketEnds. -/
theorem witness_PacketEnds :
    let st := fun (x : WState) => after (.packetComplete 5) (working (aWork (.nop hdr0) x) 0)
    let w := aWork (.waitsig hdr0 ⟨0x70000, 0, 0, 0, 5, 0, 0, 0, 1⟩) .running
    let ev := fun (v : Nat) (t : Dword) => after (.waitsigEvaluation 5) (withM (fun m => { m with time := t }) (working w v))
    (working w 6).m.instOfWork 5 = none ∧ (working w 6).m.writesOut 5 = false ∧ ((st .running).m.work 5).isSome = true ∧
    ((st .done).m.work 5) = none ∧ ((st (.failed 9)).m.queue 3).errcode = 3 ∧ ((ev 5 0).m.work 5) = none ∧
    ((ev 6 1599).m.work 5).isSome = true ∧ ((ev 6 1600).m.queue 3).errcode = 3 ∧ ((ev (2 ^ 64 - 1) 0).m.queue 3).errcode = 3 := by
  decide +kernel
/-- PacketEnds: a WAITSIG that another, naming the signal of a SIGNOTE, goes before. -/
theorem witness_NoteBefore :
    let w := fun (n : Nat) => aWork (.waitsig hdr0 ⟨BitVec.ofNat 56 n, 0, 0, 0, 5, 0, 0, 0, 1⟩) .running
    let s := withM (fun m => { m.setWork 6 (some (w 0x70040)) with evalDue := [5, 6], noteFirst := [6] }) (working (w 0x70000) 0)
    s.m.noteBefore 5 = true ∧ s.m.noteBefore 6 = false ∧ ((after (.waitsigEvaluation 5) s).m.work 5).isSome = true ∧
    ((after (.waitsigEvaluation 6) s).m.work 6).isSome = false := by decide +kernel
theorem witness_LaunchConfirmed :
    let s := fun (tiles : NSet) => withM (fun m => m.setLaunch 1 (some { aLaunch with complete := true, conf := 0x70000, tiles := tiles }))
      (up (withMem 0x70000 8 1 tileState))
    Memory.read (after (.launchConfirmed 1) (s [])).m.mem 0x70000 8 = 0 ∧ Memory.read (after (.launchConfirmed 1) (s [0])).m.mem 0x70000 8 = 1 := by
  decide +kernel
/-- CopyRow: a copy of 64 bytes and a fill. -/
theorem witness_CopyRow :
    let b : CopyBody := ⟨false, 0x70000, 0x70040, 64, 1, 0, 0⟩
    let s := fun (b : CopyBody) => withM (fun m => ((m.setGrants 2 0 (masterCopy 0 0) 3).setWork 5 (some (aWork (.copy hdr0 b) .running))).modDie 0
      (fun y => { y with copies := [(0, [⟨5, 0, b, 0, 0, none, []⟩])] })) (withMem 0x7003C 4 0x11223344 (up tileState))
    (s b).m.translate (.die 0) 0 0x70040 64 .write true = .ok (.here 0x70040) true ∧ copyRows b = 1 ∧ (s b).m.quiet ∧
    grantOk ((s b).m.grants (paTarget 0x70040).1 (paTarget 0x70040).2 (masterCopy 0 0)) .write = true ∧
    Memory.read (after (.copyRowComplete 0 0) (s b)).m.mem 0x7007C 4 = 0x11223344 ∧
    (((after (.copyRowComplete 0 0) (s b)).m.work 5).map (·.state)) = some .done ∧
    Memory.read (after (.copyRowComplete 0 0) (s { b with fill := true, src := 0x0102030405060708 })).m.mem 0x7007C 4 = 0x01020304 := by
  unfold Mach.quiet; decide +kernel
/-- Acknowledgements: the last die; a member's values before the LAUNCH, as its, and others. -/
theorem witness_Acknowledgements :
    let w := { aWork (.iinvPacket hdr0 0 64 1 3) .running with acks := [1] }
    let g : LGroup := ⟨7, 2, 0, [0, 9], []⟩
    let s := withM (fun m => { m with groups := [(0, g)] }) (working (aWork (.nop hdr0) .running) 0)
    let l := withM (fun m => m.setLaunch 1 (some { aLaunch with lgid := 7, await := [9], work := 5, kobj := 0x90000 })) s
    (((after (.iinvAcknowledge 5 1) (working w 0)).m.work 5).map (·.state)) = some .done ∧ s.m.groupOf 7 = some (0, g) ∧
    ((tget LGroup.free (after (.launchGroupExchange 7 9 0x90000 0 1 1) s).m.groups 0).heard).length = 1 ∧
    (((after (.launchGroupExchange 7 9 0x90000 0 1 1) l).m.launch 1).map (·.await)) = some [] ∧
    ((after (.launchGroupExchange 7 9 0x90000 0 2 1) l).m.queue 3).errcode = 3 := by decide +kernel
/-- TeamRound: the next team of the die's counter, and a slot that takes no further one. -/
theorem witness_TeamRound :
    let s := fun (cl : Bool) => withT (fun th => { th with pull := .waiting 0 4, st := .waiting }) (withM (fun m =>
      (((m.setSlot 0 0 (some ⟨1, 0, [0], none, cl, []⟩)).modTile 0 (fun x => { x with bind := some { aBind with item := none } })).setLaunch 1
        (some { aLaunch with count := 3, first := 4, teamHi := 3, total := 3 })).modDie 0 (fun y => { y with tickets := [(0, some ⟨1, 1, 3⟩)] })) tileState)
    (s false).m.roundReady 0 0 ⟨1, 0, [0], none, false, []⟩ = true ∧ ((s false).m.die 0).ticketOf 1 = some (0, ⟨1, 1, 3⟩) ∧
    (s false).m.draining 0 = false ∧ (after (.tkpullRound 0 0) (s false)).self.pull = .given 4 5 ∧
    (after (.tkpullRound 0 0) (s true)).self.pull = .given 4 0xFFFFFFFFFFFFFFFF := by decide +kernel

/-- QueueCommands: a valid descriptor and one with LOG2N 3 or 17; each state of a queue. -/
theorem witness_QueueCommands :
    let s := fun (st : QState) (n : BitVec 5) => withM (fun m => m.modQueue 3 (fun q =>
      { q with state := st, base := 0x10000000, log2n := n, latch := 9 })) (up tileState)
    let st := fun (i : Instr) (x : QState) (n : BitVec 5) => ((after i (s x n)).m.queue 3).state
    (s .free 4).regOk 0 (descOff (s .free 4).m 0 3) true ∧ st (.create 0 3) .free 4 = .active ∧ st (.create 0 3) .free 16 = .active ∧
    ((after (.create 0 3) (s .free 3)).m.queue 3).errcode = 6 ∧ ((after (.create 0 3) (s .free 17)).m.queue 3).errcode = 6 ∧
    st (.create 0 3) .error 4 = .error ∧ st (.destroy 0 3) .active 4 = .retiring ∧ st (.destroy 0 3) .error 4 = .retiring ∧
    st (.reset 0 3) .error 4 = .active ∧ ((after (.reset 0 3) (s .error 4)).m.queue 3).cidx = 9 ∧ st (.reset 0 3) .active 4 = .active ∧
    st (.queueRetired 3) .retiring 4 = .free ∧ st (.queueRetired 3) .active 4 = .active := by unfold State.regOk; decide +kernel
/-- NotifyAndGating: a ring just full and one past; a smaller value; four bytes, a part of WIDX, CIDX, a page of no queue; a posted
write before; each state of arbitration, a cycle before its time and at it. -/
theorem witness_NotifyAndGating :
    let s := withM (fun m => m.modQueue 3 (fun q => { q with state := .active, latch := 2 })) (up tileState)
    let go := fun (n : BitVec 4) (v : Dword) => (after (.widxWrite 0 ⟨3, 0⟩ n v) s).m.queue 3
    let logs := fun (off : BitVec 12) (n : BitVec 4) => ((after (.widxWrite 0 ⟨3, off⟩ n 16) s).m.die 0).vlog.length
    let post := withM (fun m => m.modFunc 0 (fun x => { x with posted := [.notify 3 2] })) s
    let at_ := fun (t : Dword) (s : State) => withM (fun m => { m with time := t }) s
    s.hostUp = true ∧ s.m.queueAt 0 3 = some 3 ∧ (go 8 16).latch = 16 ∧ (go 8 16).state = .active ∧ (go 8 17).errcode = 8 ∧ (go 8 1).latch = 2 ∧
    (go 4 16).latch = 2 ∧ logs 0 4 = 1 ∧ logs 4 8 = 1 ∧ logs 8 8 = 0 ∧
    (withM (fun m => m.modFunc 1 (fun x => { x with bound := some 5 })) s).m.queueAt 1 0 = none ∧
    post.m.postedWaits 0 = true ∧ ((after (.widxWrite 0 ⟨3, 0⟩ 8 16) post).m.func 0).posted = [.notify 3 2, .notify 3 16] ∧
    ((after (.widxWrite 0 ⟨3, 0⟩ 8 16) post).m.queue 3).latch = 2 ∧ s.m.nothingToDo = false ∧ tileState.m.nothingToDo = true ∧
    (let c := after .arbitrationClockGate (at_ 160000 tileState)
     (after .arbitrationClockGate (at_ 159999 tileState)).m.arb = .running ∧ c.m.arb = .clockGated ∧
      (after .arbitrationPowerGate (at_ 16159999 c)).m.arb = .clockGated ∧ (after .arbitrationPowerGate (at_ 16160000 c)).m.arb = .powerGated ∧
      (after .arbitrationWake (withM (fun m => { m with arb := .clockGated }) s)).m.arb = .running) := by decide +kernel
/-- RegisterWrites: R20's bounds 1,200 and 2,800; FQTAIL at its bounds; aperture M by its size; an offset no register has. -/
theorem witness_RegisterWrites :
    let s := withM (fun m => m.modFq 2 (fun q => { q with head := 9, tail := 3 })) (up tileState)
    let cap := fun (w : BitVec 16) => (after (.powerCapWrite 0 w) s).pwr.capSet
    s.regOk 0 0xA00000 true ∧ s.regOk 0 (fqOff 2 0x4008) (s.m.seesPart 0 2) ∧ s.regOk 0 0xC20000 true ∧
    cap 1199 = 1200 ∧ cap 1200 = 1200 ∧ cap 1224 = 1200 ∧ cap 2800 = 2800 ∧ cap 2801 = 2800 ∧
    ((after (.fqtailWrite 0 2 9) s).m.fq 2).tail = 9 ∧ ((after (.fqtailWrite 0 2 10) s).m.fq 2).tail = 3 ∧
    ((after (.fqtailWrite 0 2 2) s).m.fq 2).tail = 3 ∧ ((after (.mBaseWrite 0 0 0x40000000) s).m.func 0).mbase = 0x40000000 ∧
    ((after (.mBaseWrite 0 0 0x40010000) s).m.func 0).mbase = 0 ∧ ((after (.mBaseWrite 0 1 0x40010000) s).m.func 1).mbase = 0x40010000 ∧
    ((after (.registerWrite 0 0x20 1) s).m.die 0).vlog.length = 1 ∧ ((after (.registerWrite 0 0x1000C0 0x123) s).m.queue 3).base = 0x123 ∧
    (after (.drselWrite 0 1027) s).m.drsel = 3 ∧ (after .dropRecordReady (after (.drselWrite 0 1027) s)).m.drsel = 0x8000000000000003 := by
  unfold State.regOk; decide +kernel
theorem witness_Invalidation :
    let s := after (.invctlGo 0 0) (up tileState)
    (s.m.fq 0).done = false ∧ s.m.accessesLeft 0 = false ∧ ((after (.invalidationDone 0) s).m.fq 0).done = true ∧
    (withT (fun th => { th with wbuf := [{ anEntry with va := 0 }] }) s).m.accessesLeft 0 = true ∧
    (let d := withM (fun m => (m.modFq 0 (fun x => { x with invva := 0x30000, invlen := 64 }))) (up (after (.ldd 1 2 0 0) loadState))
     tget [] d.m.tlbs (tlbCluster 0) ≠ [] ∧
       tget [] (after (.invalidationDone 0) (after (.invctlGo 0 0) d)).m.tlbs (tlbCluster 0) = []) := by decide +kernel
/-- FaultQueue: a record in a queue with 255 and with 256 posted; RETRY and ABORT of a thread and of a chain. -/
theorem witness_FaultQueue :
    let q := fun (n : Nat) => withM (fun m => m.modFq 0 (fun x => { x with head := n, tail := 0, held := [[1, 2]] })) (up tileState)
    let th := withM (fun m => m.modFq 0 (fun x => { x with head := 8, waits := [(7, .thread 0)] })) (withT (fun th =>
      { th with hold := some 7, st := .waiting, kepc := 0x500, kstat := 0x102 }) (up tileState))
    let ch := withM (fun m => (m.modFq 0 (fun x => { x with head := 8, waits := [(7, .chain 0 .vx)] })).modChain 0 .vx (fun x =>
      { x with st := .parked, pseq := 7, cause := 0x24, cur := 3 })) (up tileState)
    ((after (.faultRecordPost 0) (q 255)).m.fq 0).head = 256 ∧ ((after (.faultRecordPost 0) (q 256)).m.fq 0).head = 256 ∧
    (th.m.fq 0).waiting 7 = some (7, .thread 0) ∧ (th.m.fq 0).waiting 8 = none ∧ (after (.fqresRetry 0 0 7) th).self.pc = 0x500 ∧
    (after (.fqresRetry 0 0 7) th).self.hold = none ∧ ((after (.fqresAbort 0 0 7) th).self.sup.map (·.faulted)) = some true ∧
    (ch.m.ctx 0).parkedOn .vx 7 = true ∧ ((after (.fqresRetry 0 0 7) ch).m.ctx 0).vx.st = .running ∧
    ((after (.fqresRetry 0 0 7) ch).m.ctx 0).vx.cur = 3 ∧ ((after (.fqresAbort 0 0 7) ch).m.ctx 0).vx.st = .faulted := by decide +kernel

/-! ### Mailboxes, the host, power and boot -/

/-- Request `code` with these arguments in the Herder mailbox. -/
def ask (code : Byte) (args : List Dword) (s : State) : State := withM (fun m => { m with herderBox := { m.herderBox with
  state := 1, code := code, acted := none, rq := args.zipIdx.foldl (fun t x => tput 0 t x.2 x.1) [] } }) (up s)
/-- A level-1 image of tile 0's item with an empty context. -/
def anIm : Image := ⟨1, 1, 0, 0, 0, 0, aBind, true, false, Ctx.reset, { Thread.capture Thread.reset 0 with sup := some aSup, kepc := 0x500 }, 0⟩
/-- What firmware answers: its error code and results. -/
def acted (i : Instr) (s : State) : Option (Byte × List Dword) := (after i s).m.herderBox.acted
def moduleU (n : Byte) : UnitId := ⟨.module, 0, n⟩

/-- TableRequests: what each accepts at its bounds, and what it refuses. -/
theorem witness_TableRequests :
    let r := fun (s : State) (c : Byte) (l : List Dword) (i : Instr) => acted i (ask c l s)
    let s := tileState
    let bound := withM (fun m => m.modFunc 1 (fun x => { x with bound := some 2 })) s
    let held := withM (fun m => m.modQueue 3 (fun q => { q with state := .error, owner := 1 })) s
    (ask 1 [0x201] s).firmwareUp = true ∧ (ask 1 [0x201] s).m.herderBox.asks 1 [0x201] = true ∧
    r s 1 [0x201] (.bind 0x201) = some (0, []) ∧ r s 1 [0x200] (.bind 0x200) = some (2, []) ∧
    r bound 1 [0x201] (.bind 0x201) = some (3, []) ∧ r bound 1 [0x202] (.bind 0x202) = some (3, []) ∧
    r bound 2 [1] (.unbind 1) = some (0, []) ∧ r held 2 [1] (.unbind 1) = some (3, []) := by decide +kernel
theorem witness_TableRequests1 :
    let r := fun (s : State) (c : Byte) (l : List Dword) (i : Instr) => acted i (ask c l s)
    let s := tileState
    let spilled := withM (fun m => m.modPart 2 (fun x => { x with spilled := [(0, some anIm)] })) s
    r s 3 [2, 0x26000] (.ptroot 2 0x26000) = some (0, []) ∧ r s 3 [2, 0x26001] (.ptroot 2 0x26001) = some (2, []) ∧
    r s 4 [31, 0xFFFFF, 10000] (.cluster 31 0xFFFFF 10000) = some (0, []) ∧ r s 4 [31, 0, 10001] (.cluster 31 0 10001) = some (2, []) ∧
    r s 5 [3, 0, 0] (.lgroup 3 0 0) = some (0, []) ∧ r s 6 [2, 64, 2] (.imgarea 2 64 2) = some (0, []) ∧
    r spilled 6 [2, 64, 2] (.imgarea 2 64 2) = some (4, []) := by decide +kernel
theorem witness_TableRequests2 :
    let r := fun (s : State) (c : Byte) (l : List Dword) (i : Instr) => acted i (ask c l s)
    let s := tileState
    let u := unitNamed (kindOf 3) 5 2
    let mod := fun (x : UnitRec) => withM (fun m => m.modUnit u (fun _ => x)) s
    r s 9 [0, 49] (.rotation 0 49) = some (0, [50]) ∧ r s 9 [0, 60001] (.rotation 0 60001) = some (0, [60000]) ∧
    r s 9 [3, 10000] (.rotation 3 10000) = some (0, [10000]) ∧ unitExists u = true ∧
    freeLease (s.m.die (unitDie u)).leases 256 = some 0 ∧ r s 0xA [0x20530] (.lease 0x20530) = some (0, [0]) ∧
    r (mod { s.m.unit u with retired := true }) 0xA [0x20530] (.lease 0x20530) = some (3, []) ∧
    r (mod { s.m.unit u with lease := some 4 }) 0xA [0x20530] (.lease 0x20530) = some (4, []) ∧
    routeOk 0 = true ∧ r s 0xB [0xFFF, 0] (.route 0xFFF 0) = some (0, []) ∧
    r s 0xC [0xFFF, 0x7F] (.classMap 0xFFF 0x7F) = some (0, []) ∧
    r s 0xD [0x11F03, 7] (.diecount 0x11F03 7) = some (0, [0]) ∧
    tget 0 ((after (.diecount 0x11F03 7) (ask 0xD [0x11F03, 7] s)).m.die 3).dec 31 = 7 := by decide +kernel
/-- TableRequests: a launch group set, of the most members; its size and rank past their bounds, an id of 4,096, a table that is not
there; a counter's source that counts and one that does not. -/
theorem witness_TableRequests3 :
    let go := fun (b : Dword) (c : Dword) (s : State) => acted (.lgroup 0x70003 b c) (ask 5 [0x70003, b, c] s)
    let s := withMem 0x70000 4 0x0FFF0000 tileState
    go 0x10002 0x70000 s = some (0, []) ∧ go 0x20002 0x70000 s = some (2, []) ∧ go 0 0x70000 s = some (2, []) ∧
    go 0x1001 0x70000 s = some (2, []) ∧ go 0x10002 0x70000 (withMem 0x70000 4 0x10000000 tileState) = some (2, []) ∧
    go 1 0x00FFFFFFFFFFFFF0 s = some (5, []) ∧ ((s.m.argBytes 0x70000 4).map (fun x => x.1.length)) = some 4 ∧
    tget LGroup.free (after (.lgroup 0x70003 0x10002 0x70000) (ask 5 [0x70003, 0x10002, 0x70000] s)).m.groups 3 = ⟨7, 2, 1, [0, 4095], []⟩ ∧
    (let des := fun (v : Dword) => tget 0 ((after (.diecount 0x30203 v) (ask 0xD [0x30203, v] s)).m.die 3).des 2
     des 0x27 = 0x27 ∧ des 0x0E = 0x0E ∧ des 0x28 = 0) := by decide +kernel
/-- TableRequests: a routing entry that is refused. -/
theorem test_routeRefused : routeOk 0x10000000 = false ∨ routeOk 0xFFFFFFFF = false := by decide +kernel

def anImage (svn : Word) : FwImage := ⟨[1], [2], svn, 9, 0, 2 ^ 40⟩
/-- FirmwareRequests, where it is no matter what verifies: the state each begins in. -/
theorem witness_FirmwareRequests :
    let s := up tileState
    let w := { s.fw with staged := true, upd := .none, bank1 := ⟨some (anImage 0), false⟩ }
    let ready := { ask 0x0F [] tileState with fw := w }
    (ask 0xE [0x50000, 4] tileState).m.herderBox.asks 0xE [0x50000, 4] = true ∧ paRegion 0x50000 = 0 ∧ s.fw.upd = .none ∧
    (s.m.argBytes 0x50000 4).map (·.1) = some [0, 0, 0, 0] ∧ ready.firmwareUp = true ∧ w.inactive.img = some (anImage 0) ∧
    s.m.inExchange ((List.range 256).map (BitVec.ofNat 8)) = false ∧
    acted .update (ask 0x0F [] tileState) = some (3, []) ∧ acted (.extend 2 0x50000) (ask 0x10 [2, 0x50000] tileState) = some (3, []) ∧
    (s.m.argBytes 0x50000 64).map (fun x => x.1.length) = some 64 := by decide +kernel

/-- AccessAndCompletion: an HBM entry and one of the last register block; master 128; an unknown code; success and an error. -/
theorem witness_AccessAndCompletion :
    let box := fun (c : Byte) (l : List Dword) => withM (fun m => { m with accessBox := { m.accessBox with
      state := 1, code := c, acted := none, rq := l.zipIdx.foldl (fun t x => tput 0 t x.2 x.1) [] } }) (up tileState)
    let ans := fun (i : Instr) (s : State) => (after i s).m.accessBox.acted
    let done := fun (e : Byte) => (after (.mailboxCompletion .herder) (withM (fun m =>
      { m with herderBox := { m.herderBox with acted := some (e, [7, 8]), seq := 5 } }) (up tileState))).m.herderBox
    grantTarget 0x102 = some (2, 1) ∧ grantTarget 0x1FF03 = some (3, 511) ∧ grantTarget 0x20003 = none ∧
    (box 1 [0x102, 0x1C0]).m.accessBox.asks 1 [0x102, 0x1C0] = true ∧ ans (.grant 0x102 0x1C0) (box 1 [0x102, 0x1C0]) = some (0, []) ∧
    ans (.grant 0x102 0x180) (box 1 [0x102, 0x180]) = some (3, []) ∧ ans (.grant 0x102 0x380) (box 1 [0x102, 0x380]) = some (0, []) ∧
    (ans (.accessTableRead 2) (box 2 [2])).map (fun x => x.2.length) = some 8 ∧
    acted (.unknownRequestCode .herder 0x11) (ask 0x11 [] tileState) = some (1, []) ∧
    ans (.unknownRequestCode .access 3) (box 3 []) = some (1, []) ∧
    (done 0).state = 2 ∧ (done 0).dseq = 5 ∧ tget 0 (done 0).rs 1 = 8 ∧ (done 3).state = 3 ∧ (done 3).err = 3 ∧
    (let acc := fun (ie : Bool) => (after (.mailboxCompletion .access) (withM (fun m =>
       { m with accessBox := { m.accessBox with acted := some (0, [7]), seq := 6, ie := ie, vec := 4 } }) (up tileState))).m
     (acc false).accessBox.state = 2 ∧ (acc false).accessBox.dseq = 6 ∧ tget 0 (acc false).accessBox.rs 0 = 7 ∧
       (acc true) ≠ (acc false)) ∧ (up tileState).m.accessBox.acted = none := by decide +kernel
/-- ExportImport: a partition with an item on a tile, one with nothing and no image area, and one with a free place; a record whose
places are free and one that names a queue in use. -/
theorem witness_ExportImport :
    let area := fun (s : State) (p : PartId) => withM (fun m => m.modPart p (fun x => { x with imgBase := 0x200000, imgCount := 1 })) s
    let none_ : ExportRec := ⟨[], [], [], [], [], [], [], []⟩
    (up tileState).m.exportBusy 0 = true ∧ acted (.exportPart 0) (ask 7 [0] tileState) = none ∧
    (up tileState).m.exportBusy 2 = false ∧ acted (.exportPart 2) (ask 7 [2] tileState) = some (4, []) ∧
    (area (up tileState) 2).m.freePlace 2 = some 0 ∧ (up tileState).m.importRoom 2 none_ = true ∧
    (queued (.nop hdr0) tileState).m.importRoom 2 { none_ with queues := [(3, Queue.reset)] } = false ∧
    (ask 8 [2, 0x200000] tileState).m.herderBox.asks 8 [2, 0x200000] = true := by decide +kernel

/-- HostMemory: granted and not, poison, an address of no mapping, a function with no partition, a window of host memory. -/
theorem witness_HostMemory :
    let s := withMem 0x70000 4 0x12345678 (up tileState)
    let pois := withM (fun m => { m with poisS := [0x70000 / 64] }) s
    let bare := withM (fun m => { m with pfGranted := false }) s
    let ans := fun (s : State) (f : FuncId) (o : Dword) => (after (.hostMemoryRead f ⟨.m, o⟩ 4) s).m.answers.head?
    let vf := withM (fun m => m.modFunc 1 (fun x => { x with bound := some 0 })) s
    let nope := withM (fun m => m.modFunc 1 (fun x => { x with bound := some 5 })) s
    s.hostUp = true ∧ s.m.apertureM 0 0x70000 4 .read = some (.ok (.here 0x70000) false) ∧ ans s 0 0x70000 = some (.data [0x78, 0x56, 0x34, 0x12]) ∧
    ans pois 0 0x70000 = some .poisoned ∧ ans bare 0 0x70000 = some .unsupported ∧
    s.m.apertureM 1 0x70000 4 .write = none ∧ ans s 1 0x70000 = some (.data [0, 0, 0, 0]) ∧
    (match vf.m.apertureM 1 0x70000 4 .write with | some (.ok (.here a) _) => a == 0x70000 | _ => false) = true ∧
    (match nope.m.apertureM 1 0x70000 4 .read with | some (.bad _) => true | _ => false) = true ∧ ans nope 1 0x70000 = some .unsupported ∧
    Memory.read (after (.hostMemoryWrite 0 0x70000 [9, 8]) s).m.mem 0x70000 4 = 0x12340809 ∧
    Memory.read (after (.hostMemoryWrite 0 0x70000 [9, 8]) bare).m.mem 0x70000 4 = 0x12345678 ∧
    (let post := withM (fun m => m.modFunc 0 (fun x => { x with owed := 1 })) s
     post.m.postedWaits 0 = true ∧ ((after (.hostMemoryWrite 0 0x70000 [9, 8]) post).m.func 0).posted = [.mem 0x70000 [9, 8]] ∧
       Memory.read (after (.hostMemoryWrite 0 0x70000 [9, 8]) post).m.mem 0x70000 4 = 0x12345678) := by decide +kernel

/-- R44, R45, R49, R66: reads of apertures A and N: a register, an offset no register has, one that only the physical function
sees, CIDX, and the rest of a notify page. -/
theorem test_hostReads :
    let s := withM (fun m => m.modQueue 3 (fun q => { q with cidx := 9 })) (up tileState)
    let ans := fun (f : FuncId) (ap : Aperture) (o : Dword) => (after (.hostMemoryRead f ⟨ap, o⟩ 8) s).m.answers.head?
    ans 0 .a 0xA00000 = some (.data (toBytes 8 2800)) ∧ ans 0 .n 0x3008 = some (.data (toBytes 8 9)) ∧
    ans 0 .n 0x3000 = some (.data (toBytes 8 0)) ∧ ans 0 .a 0x20 = some (.data (toBytes 8 0)) ∧
    ((after (.hostMemoryRead 0 ⟨.a, 0x20⟩ 8) s).m.die 0).vlog.length = 1 ∧ ans 1 .a 0xA00000 = some .unsupported := by
  decide +kernel

/-- PowerAndTemperature: 114 and 115 degrees, 94 and 95; a window over the cap and one under it. -/
theorem witness_PowerAndTemperature :
    let s := up tileState
    let win := fun (st : BitVec 2) (h : Nat) (pavg proj : BitVec 16) (t : Byte) =>
      (after (.throttleWindowEnd pavg proj t) { s with pwr := { s.pwr with tstep := st, held := h } }).pwr.tstep
    s.pwr.tripped = false ∧ (after (.thermalTrip 0 114) s).pwr.tripped = false ∧ (after (.thermalTrip 0 115) s).pwr.tripped = true ∧
    (after .regulatorOvercurrent s).pwr.tstep = 3 ∧ (after (.junctionTempAlert 94) s).pwr.tstep = 0 ∧ (after (.junctionTempAlert 95) s).pwr.tstep = 2 ∧
    win 0 0 2801 0 50 = 1 ∧ win 1 0 2801 0 50 = 1 ∧ win 1 1 2801 0 50 = 2 ∧ win 3 9 2801 0 50 = 3 ∧ win 2 0 2800 2799 89 = 1 ∧
    win 2 0 2800 2800 89 = 2 ∧ win 2 0 2800 2799 90 = 2 ∧ win 0 0 2800 0 95 = 2 := by decide +kernel

/-- BootAndRecovery, where it is no matter what verifies. -/
theorem witness_BootAndRecovery :
    let s := up tileState
    let fw := fun (f : Firmware → Firmware) => { s with fw := f s.fw }
    let tr := fun (wr : Option Dword) (b : BootSt) => (after (.pcieConfigRequest ⟨63, .rebarSizes, wr⟩) (fw (fun w => { w with boot := b, pcieTrained := some (5, 4) }))).m.answers.head?
    (after (.perstDeassert 5 4) s).fw.pcieTrained = some (5, 4) ∧ tr (some 0) .ready = some .configDone ∧ tr none .booted = some .retryStatus ∧
    (s.m.cfgWrite 0 .rebarControl 0x1400).apertureSize 0 = 2 ^ 40 ∧ s.heard = true ∧ s.recovering = false ∧
    ({ State.reset with pwr := { Power.reset with tripped := true } }).recovering = s.fw.accepted.isNone ∧ imageFits (anImage 1) = true ∧
    State.reset.fw.boot = .rom ∧ State.reset.pwr.tripped = false ∧ (after .powerOnBoot State.reset).fw.boot = .recovery ∧
    (after .herderStop s).fw.alerts = [0x61] ∧ (after (.recoveryImage none (anImage 1)) s).m.answers.head? = some .notReady ∧
    (fw (fun w => { w with boot := .booted, running := some (anImage 1) })).fw.boot = .booted ∧
    s.m.onLease (moduleU 11) = false ∧ (tget Link.reset s.m.modules 11).st = .down := by decide +kernel
/-- R11: an image of 6 MiB with its signature fits a bank, and no longer one. -/
theorem witness_imageFits (n : Nat) : imageFits { anImage 1 with bytes := List.replicate n 0 } = decide (n ≤ 6291455) := by
  simp [imageFits, bankSize, anImage]; omega
/-- Resets. -/
theorem witness_Resets :
    let s := up tileState
    let fw := fun (f : Firmware → Firmware) => { s with fw := f s.fw }
    let run := fw (fun w => { w with running := some (anImage 1) })
    let vf := withM (fun m => (m.modQueue 3 (fun q => { q with owner := 1, state := .error })).modFunc 1 (fun x =>
      { x with bound := some 0, mbase := 7 })) s
    let flr := withM (fun m => { m with time := 144000000 }) (after (.functionLevelReset 1) vf)
    let late := after (.flrTimeout 1) (withM (fun m => m.modFunc 1 (fun x => { x with bound := some 5 })) flr)
    (after .warmReset run).m.launches = [] ∧ (after .warmReset run).fw.boot = .booted ∧ (after .warmReset s).m.answers.head? = some .notReady ∧
    ((after (.functionLevelReset 1) vf).m.func 1).mbase = 7 ∧ (late.m.func 1).mbase = 0 ∧ ((after (.functionLevelReset 1) vf).m.func 1).flr = some 0 ∧
    (let busy := withM (fun m => m.setWork 5 (some { aWork (.nop hdr0) .running with func := 1 })) flr
     busy.m.packetsOut 1 = true ∧ ((after (.flrTimeout 1) (withM (fun m => m.modFunc 1 (fun x => { x with bound := some 5 })) busy)).m.func 1).flr = some 0 ∧
       flr.m.packetsOut 1 = false) ∧
    ((after (.functionLevelReset 1) vf).m.queue 3).state = .retiring ∧ (late.m.func 1).flr = none ∧ flr.m.launchesOf 0 ≠ [] ∧
    ((after (.flrTimeout 1) (withM (fun m => { m with time := 143999999 }) flr)).m.func 1).flr = some 0 := by decide +kernel
/-- ManagementPort: its bounds; live data and none; a retired unit and one that is none. -/
theorem witness_ManagementPort :
    let s := up tileState
    let ans := fun (i : Instr) => (after i s).m.answers.head?
    let idle := { State.reset with fw := s.fw }
    let u : UnitId := ⟨.tile, 0, 9⟩
    let lost := withM (fun m => m.modUnit u (fun x => { x with retired := true })) s
    (after (.mgmtPowerCapSet 1249) s).pwr.capSet = 1225 ∧ (after (.mgmtPowerCapSet 2801) s).pwr.capSet = 2800 ∧ ans (.mgmtPowerCapSet 1) = some .done ∧
    grantOk (s.m.grants 3 0xC0 129) .read = true ∧ ans (.knownBadTableWrite ⟨3, 95, 3⟩ 15 0x8047) = some .done ∧
    ans (.knownBadTableWrite ⟨3, 95, 3⟩ 15 0x8048) = some .error ∧ ans (.knownBadTableWrite ⟨3, 96, 3⟩ 15 0x8047) = some .error ∧
    s.m.mailBusy [0x0B] = false ∧ (ask 0xB [] tileState).m.mailBusy [0x0B] = true ∧ ans (.routingTableRequest 9 0) = some .done ∧
    s.m.liveOn 0 = true ∧ ans (.maintenanceWindow ⟨0, 0, 0⟩ true) = some .error ∧ idle.m.liveOn 0 = false ∧ s.heard = true ∧
    (let i3c := { s with turn := { s.turn with via := .i3c } }
     i3c.turn.via ≠ .own ∧ (after (.classMap 9 5) i3c).m.answers.head? = some .done ∧ tget 0 (after (.classMap 9 5) i3c).m.classes 9 = 5 ∧
       (after (.grant 0x102 0x180) i3c).m.answers.head? = some .error ∧ i3c.m.accessBusy [1] = false ∧
       (ask 0xC [9, 5] tileState).m.mailBusy [0x0C] = true) ∧
    ({ s with turn := { s.turn with via := .vdm 1 } }).heard = false ∧ ans (.firmwareStaging (anImage 1)) ≠ none ∧
    (after (.firmwareStaging (anImage 1)) { s with turn := { s.turn with via := .vdm 1 } }).m.answers = s.m.answers ∧
    (after (.firmwareStaging (anImage 1)) { s with fw := { s.fw with boot := .recovery } }).m.answers.head? = some .notReady ∧
    (after (.maintenanceWindow ⟨0, 95, 3⟩ true) idle).m.answers.head? = some .done ∧ unitExists u = true ∧
    ans (.unitReturnRequest u) = some .error ∧ ((after (.unitReturnRequest u) lost).m.unit u).retired = false ∧
    ans (.getDropRecord 0) = some .error ∧ ans (.unknownAttestationCode 4 2) = some .error ∧
    (after .sensorRead { s with fw := { s.fw with boot := .recovery } }).m.answers.head? = some .notReady ∧
    (after (.mgmtPowerCapSet 1) { s with pwr := { s.pwr with tripped := true } }).m.answers.head? = some .notReady := by decide +kernel

/-! ### Links and messages -/

/-- Module 0 (dies 0 and 1), and port 3 of die 2 (a peer's port 4 of die 1 of package 9), ACTIVE. -/
def e0 : LinkEnd := ⟨false, 0, false⟩
def p3 : LinkEnd := portEnd 0x23
def linked (s : State) : State := withM (fun m => { m with
  modules := [(0, { Link.reset with st := .active })]
  ports := [(0x23, { Link.reset with st := .active, peerPkg := 9, peerDie := 1, peerPort := 4 })] }) (up s)
def withEnd (l : LinkEnd) (f : LEnd → LEnd) (s : State) : State := withM (fun m => m.modSide l f) s
def withLink (l : LinkEnd) (f : Link → Link) (s : State) : State := withM (fun m => m.modLink l f) s
def aFlit (seq : BitVec 10) (l : List Msg) : Flit := ⟨0, 0, 1, 2, true, 0, 0, seq, l, true⟩
def idleFlit (ak : BitVec 2) (aseq : BitVec 10) : Flit := ⟨0, 0, 0, 0, false, ak, aseq, 0, [], true⟩
/-- A write of 16 bytes at 0x70000 from die 1. -/
def aMsg : Msg := { blankMsg with op := 2, addr := 0x70000, sdie := 1, tag := 5, data := [0xABCD, 0xFFFF] }

/-- FlitsReceived: the expected number, a duplicate at the window's end and one past it, a bad flit, a reserved AK; an ACK of one
of two held flits, a NAK of it. -/
theorem witness_FlitsReceived :
    let s := withEnd e0 (fun x => { x with e := 7, held := [aFlit 3 [], aFlit 4 []] }) (linked tileState)
    let go := fun (f : Flit) => (after (if f.data then .dataFlitReceive e0 f else .idleFlitReceive e0 f)
      (withEnd e0.opposite (fun x => { x with wire := [f] }) s)).m.side e0
    e0.valid = true ∧ p3.valid = true ∧ (s.m.linkAt e0).live = true ∧ (go (aFlit 7 [aMsg])).buf = [aMsg] ∧ (go (aFlit 7 [aMsg])).e = 8 ∧
    (go (aFlit 967 [])).reports = [(1, 6)] ∧ (go (aFlit 966 [])).reports = [(2, 6)] ∧ (go { aFlit 7 [] with good := false }).reports = [(2, 6)] ∧
    (let n := withEnd e0 (fun x => { x with reports := [(2, 6)], nakPending := true }) (withEnd e0.opposite (fun x => { x with wire := [aFlit 967 []] }) s)
     ((after (.dataFlitReceive e0 (aFlit 967 [])) n).m.side e0).reports = [(2, 6), (1, 6)]) ∧
    (let n := withEnd e0 (fun x => { x with resuming := true }) (withEnd e0.opposite (fun x => { x with wire := [idleFlit 1 3] }) s)
     ((after (.idleFlitReceive e0 (idleFlit 1 3)) n).m.side e0).resend = [aFlit 4 []]) ∧
    (go (idleFlit 3 0)).reports = [(2, 6)] ∧ (go (idleFlit 0 0)).held.length = 2 ∧ (go (idleFlit 1 3)).held = [aFlit 4 []] ∧
    (go (idleFlit 2 3)).resend = [aFlit 4 []] ∧ (go (idleFlit 1 9)).held.length = 2 := by decide +kernel
/-- FlitsSent: nothing to send, a report, a new message, a replay; a timer at its end, at and below the limit. -/
theorem witness_FlitsSent :
    let s := linked tileState
    let msg := { aMsg with sdie := 0, ddie := 1 }
    let q := withM (fun m => m.modDie 0 (fun y => { y with outq := [msg] })) s
    let tx := fun (f : LEnd → LEnd) => (after (.flitTransmit e0) (withEnd e0 f s)).m.side e0
    let late := fun (n : Nat) => withM (fun m => { m with time := 256 }) (withEnd e0 (fun x => { x with held := [aFlit 3 []], replays := n }) s)
    (let rt := { msg with op := 0x39, data := [] }
     let r := fun (t : Dword) => withM (fun m => { m.modDie 0 (fun y => { y with outq := [rt], retireAt := [(rt, 0)] }) with time := t }) s
     isRetire rt = true ∧ (r 32).m.retireDue 0 rt = true ∧ (r 31).m.retireDue 0 rt = false ∧ (r 32).m.linkFor 0 rt = some e0 ∧
       (((after (.retireSendTimer e0) (r 32)).m.side e0).held.map (·.msgs)) = [[rt]] ∧ ((after (.retireSendTimer e0) (r 31)).m.side e0).held = [] ∧
       ((after (.flitTransmit e0) (r 32)).m.side e0).held = []) ∧
    q.m.linkFor 0 msg = some e0 ∧ msgSlots msg = 3 ∧ isRetire msg = false ∧ q.m.heldElsewhere 0 e0 msg = false ∧
    q.m.heldByPort 0 msg = false ∧ (((after (.flitTransmit e0) q).m.side e0).held.map (·.msgs)) = [[msg]] ∧
    (tx id).wire = [] ∧ (tx (fun x => { x with reports := [(1, 4)] })).wire = [idleFlit 1 4] ∧
    (tx (fun x => { x with resend := [aFlit 3 []] })).wire = [aFlit 3 []] ∧ ((after (.replayTimerExpiry e0) (late 3)).m.side e0).resend = [aFlit 3 []] ∧
    ((after (.replayTimerExpiry e0) (late 4)).m.linkAt e0).st = .retrain ∧
    ((after (.ackIdleTimer e0) (withEnd e0 (fun x => { x with reports := [(1, 4)] }) (late 0))).m.side e0).wire = [idleFlit 1 4] := by
  decide +kernel
/-- LinkStates: 3,200 cycles of retraining are the last that complete, and the first that time out. -/
theorem witness_LinkStates :
    let s := linked tileState
    let tr := fun (l : LinkEnd) (t : Dword) => withM (fun m => { m with time := t }) (withLink l (fun k => { k with st := .retrain, retrainAt := 0 }) s)
    let st := fun (l : LinkEnd) (i : Instr) (s : State) => ((after i s).m.linkAt l).st
    st p3 (.laneLossOfLock p3) s = .down ∧ st e0 (.laneLossOfLock e0) s = .retrain ∧ st e0 (.retrainComplete e0 false) (tr e0 3200) = .active ∧
    st e0 (.retrainTimeout e0) (tr e0 3200) = .down ∧ st e0 (.retrainComplete e0 false) (tr e0 3201) = .retrain ∧
    st e0 (.retrainTimeout e0) (tr e0 3199) = .retrain ∧ st p3 (.retrainComplete p3 false) (tr p3 1) = .down ∧
    st p3 (.fabricPortDown 0x23) s = .down ∧ s.m.onLease p3.unit = false ∧
    (let d := after (.fabricPortDown 0x23) (withEnd p3 (fun x => { x with e := 9, held := [aFlit 3 []] }) s)
     (d.m.side p3).sentReport = true ∧ (d.m.side p3).reported = false ∧ ((after (.fabricPortReturn 0x23) d).m.side p3).resuming = true ∧
      (let b := after (.retrainComplete e0 false) (withEnd e0 (fun x => { x with e := 9, held := [aFlit 3 []] }) (tr e0 1))
       (b.m.side e0).wire = [idleFlit 1 8] ∧ (b.m.side e0).resuming = true) ∧
      (let r := withEnd p3 (fun x => { x with reported := true }) d
       let gone := withM (fun m => m.dropReport 0x23) r
       r.m.reportLeft 0x23 = false ∧ ((after (.fabricPortReturn 0x23) r).m.side p3).e = 9 ∧ gone.m.reportLeft 0x23 = true ∧
        ((after (.fabricPortReturn 0x23) gone).m.side p3).e = 0)) := by decide +kernel
/-- ForwardsAndReports: to another die, to another package from this one and from a port; no route, no hops; a port's report. -/
theorem witness_ForwardsAndReports :
    let s := withM (fun m => m.modDie 0 (fun y => { y with routing := [(9, 0x80000000)] })) (linked tileState)
    let at_ := fun (l : LinkEnd) (x : Msg) => withEnd l (fun e => { e with buf := [x] }) s
    let far := { aMsg with dpkg := 9, spkg := 8 }
    let gone := fun (l : LinkEnd) (x : Msg) => ((after (.messageForward 0 x) (at_ l x)).m.die 0).outq
    let p0 := portEnd 0
    let rep := { blankMsg with op := 0x3B, ddie := 2, spkg := 9, sdie := 1, data := [0x90044] }
    let down := withEnd p3 (fun e => { e with buf := [rep], held := [aFlit 8 [aMsg], aFlit 9 [far]] }) (withLink p3 (fun k => { k with st := .down }) s)
    gone e0 { aMsg with ddie := 3 } = [{ aMsg with ddie := 3 }] ∧ s.m.routed 0 9 = true ∧ s.m.routed 0 8 = false ∧ gone e0 far = [far] ∧
    gone p0 far = [{ far with hops := 14 }] ∧ ((gone p0 { far with hops := 0 }).map (fun y => (y.op, y.addr))) = [(0x38, 5)] ∧
    ((gone e0 { far with dpkg := 8, spkg := 9 }).map (fun y => (y.op, y.addr))) = [(0x38, 4)] ∧ asksAnswer aMsg = true ∧
    asksAnswer rep = false ∧ (down.m.take 2 rep).isSome = true ∧ ((down.m.linkAt p3).parted (down.m.side p3)) = true ∧
    (let t := after (.linkStateReport rep) down
     (t.m.side p3).held = [] ∧ (t.m.side p3).reported = true ∧ (t.m.die 2).outq = [far]) := by decide +kernel

/-- `x` stands at the head of module 0's buffer on die 0; masters of die 1 may access gibibyte 0. -/
def arrived (x : Msg) (s : State) : State :=
  withEnd e0 (fun e => { e with buf := [x] }) (withM (fun m => m.setGrants 2 0 (m.masterOf x) 3) (linked (withMem 0x70000 8 0x1122 s)))
/-- RequestsPerformed: each operation; an unowned target, one not granted, poison; a write with no byte; a request done before. -/
theorem witness_RequestsPerformed :
    let m := fun (op : BitVec 6) (sz : Bool) (l : List Quad) => { blankMsg with op := op, addr := 0x70000, sdie := 1, tag := 5, sz := sz, data := l }
    let go := fun (i : Msg → Instr) (x : Msg) => after (i x) (arrived x tileState)
    let st := fun (s : State) => ((s.m.die 0).comp.map (fun c => (c.resp.getD blankMsg).addr))
    let at_ := fun (s : State) => Memory.read s.m.mem 0x70000 8
    let rd := m 1 false []
    st (go .readRequest rd) = [0] ∧ st (go .readRequest { rd with addr := 0x4000000000 }) = [4] ∧
    st (after (.readRequest rd) (withM (fun m => m.setGrants 2 0 (m.masterOf rd) 0) (arrived rd tileState))) = [2] ∧
    st (after (.readRequest rd) (withM (fun m => { m with poisS := [0x70000 / 64] }) (arrived rd tileState))) = [3] ∧
    at_ (go .writeRequest aMsg) = 0xABCD ∧ st (go .writeRequest { aMsg with data := [1, 0] }) = [0] ∧
    at_ (go .aqaddRequest (m 0x19 false [2])) = 0x1124 ∧ at_ (go .amoRequest (m 0x10 true [0x33])) = 0x33 ∧
    at_ (go .amoRequest (m 0x11 false [1])) = 0x1123 ∧ at_ (go .reduceElementRequest (m 0x1A false [0, 3])) = 0x1125 ∧
    reduceSize 4 = 4 ∧ reduceSize 2 = 16 ∧
    (let s := arrived rd tileState
     let d := withM (fun m => m.modDie 0 (fun y => { y with comp := [⟨0, 1, 5, some { blankMsg with op := 0x38, tag := 5 }, none⟩] })) s
     ((after (.readRequest rd) d).m.die 0).comp.length = 1) := by decide +kernel
/-- ResponsesAndRetires: an outstanding tag and none; a retire; its acknowledgement. -/
theorem witness_ResponsesAndRetires :
    let x := { blankMsg with op := 0x38, sdie := 1, tag := 5 }
    let g : TagRec := ⟨0, 1, 5, .thread 0, .here 0, false, 0, none, [], 0⟩
    let s := fun (op : BitVec 6) (l : List TagRec) => withM (fun m => m.modDie 0 (fun y => { y with tags := l, comp := [⟨0, 1, 5, none, none⟩] }))
      (arrived { x with op := op } tileState)
    (s 0x38 [g]).m.tagOf 0 x false = some g ∧ ((after (.response x) (s 0x38 [g])).m.die 0).tags.map (·.retiring) = [true] ∧
    ((after (.response x) (s 0x38 [])).m.die 0).vlog.length = 1 ∧ ((after (.tagRetire { x with op := 0x39 }) (s 0x39 [])).m.die 0).comp = [] ∧
    ((after (.retireAcknowledged { x with op := 0x3A }) (s 0x3A [{ g with retiring := true }])).m.die 0).tags = [] := by decide +kernel
/-- ReplicatedUpdates: the sequencer's stamp; a member's next stamp, an early one, an old one; the last answer. -/
theorem witness_ReplicatedUpdates :
    let x := { blankMsg with op := 0x30, addr := 0x70000, sdie := 1, tag := 5, data := [7, 0xABCD, 0xFFFF] }
    let r : RSet := ⟨true, 7, 0, 0, [(0, 2)], 40, []⟩
    let s := fun (x : Msg) (r : RSet) => withM (fun m => m.modDie 0 (fun y => { y with rsets := [(3, r)] })) (arrived x tileState)
    let upd := fun (n : Nat) => { x with op := 0x31, data := [BitVec.ofNat 128 (n * 2 ^ 32 + 7), 0xABCD, 0xFFFF] }
    let a := fun (n : Nat) => after (.sequencedUpdate (upd n)) (withM (fun m => { m with rmems := [(28, ⟨40, []⟩)] }) (s (upd n) r))
    let ap := { blankMsg with op := 0x32, sdie := 1, tag := 5 }
    let w := { aMsg with tag := 6 }
    let last := withM (fun m => m.modDie 0 (fun y => { y with tags := [⟨0, 1, 5, .update 7 39, .here 0, false, 0, none, [], 0⟩] }))
      (s ap { r with open_ := [(39, [(0, 1)], w, 0)] })
    (let alone := { r with members := [] }
     let at_ := { x with data := [7 + 2 ^ 16 + 1 * 2 ^ 18, 5] }
     let t := after (.replicatedPageUpdate at_) (s at_ alone)
     alone.replicas = [] ∧ updateSize (7 + 2 ^ 16 + 1 * 2 ^ 18) = 4 ∧ (tget RSet.reset (t.m.die 0).rsets 3) = { alone with stamp := 41 } ∧
       ((t.m.die 0).comp.map (fun c => (c.resp.getD blankMsg).data)) = [[0x1122]] ∧ Memory.read t.m.mem 0x70000 4 = 0x1127) ∧
    (tget RSet.reset ((after (.replicatedPageUpdate x) (s x { r with open_ := [(39 - 63, [(0, 2)], w, 0), (39, [(0, 2)], w, 0)] })).m.die 0).rsets 3).stamp = 40 ∧
    (tget RSet.reset ((after (.replicatedPageUpdate x) (s x { r with open_ := [(39 - 62, [(0, 2)], w, 0)] })).m.die 0).rsets 3).stamp = 41 ∧
    (s x r).m.rset 0 7 = some (3, r) ∧ (s x r).m.tagRoom 0 r.replicas = true ∧ hbmPa 0 (bits x.addr.toNat 37 0) = 0x70000 ∧
    (tget RSet.reset ((after (.replicatedPageUpdate x) (s x r)).m.die 0).rsets 3).stamp = 41 ∧
    Memory.read (after (.replicatedPageUpdate x) (s x r)).m.mem 0x70000 8 = 0xABCD ∧ (tget RMem.reset (after (.replicatedPageUpdate x) (s x r)).m.rmems 28).next = 41 ∧ tget RMem.reset (a 40).m.rmems 28 = ⟨41, []⟩ ∧
    Memory.read (a 40).m.mem 0x70000 8 = 0xABCD ∧ (tget RMem.reset (a 41).m.rmems 28).early.length = 1 ∧
    tget RMem.reset (a 39).m.rmems 28 = ⟨40, []⟩ ∧ (last.m.tagOf 0 ap false).isSome = true ∧
    (((after (.replicaApplied ap) last).m.die 0).comp.map (·.tag)) = [6] := by decide +kernel
/-- ArrivalsAndReports: an arrival for two entries left, one that no image takes, one of an exported partition; an end of a
reservation; a steal of half of five teams; a team another package gave up, and one it has. -/
theorem witness_ArrivalsAndReports :
    let h := fun (n : Nat) => BitVec.ofNat 64 (2 ^ 63 + 2 ^ 62 + 1 * 2 ^ 48 + 4 * 2 ^ 43 + 3 * 2 ^ 39 + n)
    let x := { blankMsg with op := 0x20, addr := BitVec.ofNat 56 (1 * 2 ^ 11), sdie := 1, tag := 5, data := [9] }
    let s := fun (n : Nat) => withM (fun m => m.modCtx 0 (fun c => { c with hnd := [(0, h n)], acfg := [(0, 0xC00007FC00000000)] })) (arrived x tileState)
    let l := { aLaunch with lgid := 7, count := 9, total := 9 }
    let g := fun (n : Nat) => withM (fun m => ({ m with groups := [(0, ⟨7, 2, 0, [0, 9], []⟩)], nextLid := 1 }.setLaunch 1 (some l)).modDie 2 (fun y =>
      { y with tickets := [(0, some ⟨1, 3, 3 + n⟩)] })) tileState
    landing (h 0) = true ∧ (s 2).m.glTarget x = some (.tile 0) ∧ ((after (.ganglineContribution x) (s 2)).m.ctx 0).handle 0 = h 1 ∧
    (tget AqEntry.zero ((after (.ganglineContribution x) (s 2)).m.ctx 0).acc 0).i = 9 ∧ (s 0).m.glTarget x = none ∧
    ((after (.reservationCompletion 0 0) (s 0)).m.ctx 0).sem 4 = 3 ∧ (g 5).m.groupLaunch 7 = some l ∧ (g 5).m.groupMember 7 9 = true ∧
    ((after (.stealRequest 7 9) (g 5)).m.die 2).ticketOf 1 = some (0, ⟨1, 3, 6⟩) ∧ (g 1).m.teamsLeft 1 2 = 1 ∧
    (let a := withM (fun m => m.setLaunch 1 (some { l with away := [4] })) (g 5)
     ((after (.remoteTeamRetired 1 4 false none) a).m.launch 1).map (fun l => (l.away, l.retired)) = some ([], 1) ∧
      ((after (.remoteTeamRetired 1 4 true none) (withM (fun m => m.setLaunch 1 (some { l with owed := [4] })) (g 5))).m.launch 1).map (·.owed) = some []) := by
  decide +kernel

/-! ### Pre-emption, leases, steps, ill-formed terms -/

/-- `tileState` with firmware running, partition 0 resident on cluster 0 since time 0 and partition 3 able to follow it. -/
def shared (s : State) : State := withM (fun m => ((m.setLaunch 2 (some { aLaunch with lid := 2, part := 3 })).modDie 0 (fun y => { y with tickets := [(0, some ⟨2, 0, 1⟩)] })).modClu 0 (fun c =>
  { c with resident := some 0, parts := 0x03, valid := 3, slice := 1, since := 0 })) (up s)
/-- The tiles of cluster 0 changed. -/
def onTiles (f : Tile → Tile) (s : State) : State := withM (fun m => (tilesOf 0).foldl (fun (m : Mach) t => m.modTile t f) m) s
def at_ (t : Dword) (s : State) : State := withM (fun m => { m with time := t }) s
/-- A lease of `u` in entry 2 of die 0, in state `st` for cause `c`. -/
def leasing (u : UnitId) (st c : Nat) (s : State) : State := withM (fun m => (m.modDie 0 (fun y => { y with leases :=
  [(2, ⟨BitVec.ofNat 64 (c * 2 ^ 16 + u.unit.toNat * 256 + kindCode u.kind * 16 + st), 0, 0, 0⟩)] })).modUnit u (fun x => { x with lease := some 2 })) (up s)

/-- Preemption: a slice's last cycle and its end; an order whose images are ready and none; a tile whose grace is over; a chain
between signals. -/
theorem witness_Preemption :
    let s := shared tileState
    let y := fun (t : Dword) (s : State) => (after (.sliceExpiry 0) (at_ t s)).m.clu 0
    let alone := withM (fun m => { m with launches := [] }) s
    let drain := at_ 320000 (leasing (tileUnit 0) 2 0 s)
    let ordered := withM (fun m => m.modClu 0 (fun c => { c with order := some 3 })) s
    s.orders = true ∧ (y 159999 s).order = none ∧ (y 160000 s).order = some 3 ∧ s.m.cluEmpty 0 = false ∧ (y 160000 alone).since = 160000 ∧
    ordered.m.imagesReady 0 3 = true ∧ ordered.m.slotsReady (ordered.m.busyTiles 0) (some 3) = true ∧
    ((after (.preempt (.cluster 0)) ordered).m.tile 7).halting = true ∧ ((after (.preempt (.cluster 0)) s).m.tile 0).halting = false ∧
    drain.m.graceOver 0 = true ∧ drain.m.draining 0 = true ∧ drain.m.fixedRound 0 = false ∧
    ((after (.preempt (.tile 0)) drain).m.tile 0).halting = true ∧
    ((after (.tileDrainGraceExpiry 0 2) drain).m.tile 0).halting = true ∧ ((after (.tileDrainGraceExpiry 0 2) (at_ 319999 drain)).m.tile 0).halting = false ∧
    (let h := onTiles (fun x => { x with halting := true }) s
     ((after (.unitHalted 0 none) h).m.tile 0).thrHalted = true ∧ ((after (.unitHalted 0 (some .vx)) h).m.ctx 0).vx.halted = true ∧
      ((after (.unitHalted 0 (some .vx)) (withM (fun m => m.modChain 0 .vx (fun x => { x with st := .running, phase := .signals })) h)).m.ctx 0).vx.halted = false ∧
      ((after (.unitHalted 0 (some .vx)) (withM (fun m => m.modChain 0 .vx (fun x => { x with st := .running, flight := [(3, [(2, 1)])] })) h)).m.ctx 0).vx.halted = false) := by
  decide +kernel
/-- ContextExchanges: tile 0 gives its item up, tile 1 takes an image of the ordered partition; then the end; a tile alone. -/
theorem witness_ContextExchanges :
    let only := withM (fun m => m.setLaunch 2 none) (shared tileState)
    let s := withM (fun m => (m.modClu 0 (fun c => { c with order := some 3 })).modTile 1 (fun x => { x with kennel := some { anIm with part := 3, tile := 1 } }))
      (onTiles (fun x => { x with halting := true, thrHalted := true }) (only))
    let t := after (.contextExchange (.cluster 0)) s
    let one := withM (fun m => m.modTile 0 (fun x => { x with halting := true, thrHalted := true })) (only)
    s.m.quiet ∧ ((tilesOf 0).all (fun u => s.m.allHalted u && !(s.m.tile u).exchanging)) = true ∧ s.m.underLease 1 = false ∧
    (t.m.tile 0).bind = none ∧ ((t.m.tile 0).kennel.map (·.level)) = some 1 ∧ (t.m.tile 1).bind = some { aBind with part := 3 } ∧
    (t.m.thr 1).pc = 0x500 ∧ (t.m.tile 2).exchanging = true ∧ ((after (.exchangeEnd (.cluster 0)) t).m.clu 0).resident = some 3 ∧
    one.m.allHalted 0 = true ∧ ((after (.contextExchange (.tile 0)) one).m.tile 0).kennel.isSome = true ∧
    ((after (.exchangeEnd (.tile 0)) (after (.contextExchange (.tile 0)) one)).m.tile 0).exchanging = false := by
  unfold Mach.quiet; decide +kernel
/-- `s` with an image in the slot of tile 3, and partition 0's image area. -/
def slotted (im : Image) (s : State) : State :=
  withM (fun m => (m.modPart 0 (fun x => { x with imgBase := 0x200000, imgCount := 1 })).modTile 3 (fun x => { x with kennel := some im })) s
/-- ContextExchanges: a tile's entry is saved; one of no tile keeps what the slot held; a tile clean since the restore is not saved. -/
theorem witness_SaveUnits :
    let e := fun (n : Int) => (⟨n, 0, false, false, 1⟩ : AqEntry)
    let s := fun (cfg : Dword) (old : Bool) => withM (fun m => m.modTile 0 (fun x => { x with
      halting := true, thrHalted := true, slotFrom := old, slotAcc := [(0, e 7), (5000, e 8)], ctx := { x.ctx with acfg := [(0, cfg)], acc := [(0, e 1), (5000, e 2)] } })) (shared tileState)
    let kept := fun (cfg : Dword) (old : Bool) (k : Nat) => ((after (.contextExchange (.tile 0)) (s cfg old)).m.tile 0).kennel.map (fun im =>
      (tget AqEntry.zero im.ctx.acc k).i)
    (s 0xC00007FC00000000 true).m.allHalted 0 = true ∧ kept 0xC00007FC00000000 true 0 = some 1 ∧ kept 0xC00007FC00000000 true 5000 = some 8 ∧
    kept 0x800007FC00000000 true 0 = some 7 ∧ kept 0x800007FC00000000 false 0 = some 1 := by decide +kernel
/-- ContextExchanges: what counts as completed at a halt: a pull that was given, an atomic that was sent; a load does not. -/
theorem witness_Captures :
    let o := fun (f : OFin) => some (⟨0x70000, .away 1 0, false, false, f, none, false⟩ : Outst)
    let th := { Thread.reset with pc := 0x600 }
    let given := { th with pull := .given 9 77 }.capture 0
    given.kepc = 0x604 ∧ tget 0 given.g 9 = 77 ∧ ({ th with out := o (.load 9 8 false) }.capture 0).kepc = 0x600 ∧
    ({ th with out := o (.load 9 8 false) }.capture 0).out = none ∧ ({ th with out := o .aqadd }.capture 0).kepc = 0x604 ∧
    (({ th with out := o .aqadd }.capture 0).out.map Outst.late) = some true ∧ ({ th with kstat := 0x100, kepc := 0x500 }.capture 0).kepc = 0x500 := by
  decide +kernel
/-- ImageMoves: the last write that waited; a spill to a free place. -/
theorem witness_ImageMoves :
    let kw := withM (fun m => m.modTile 3 (fun x => { x with kwrites := [⟨8, 0xF0, 0x55, false⟩] })) (slotted { anIm with complete := false } (shared tileState))
    let sp := withM (fun m => m.modPart 0 (fun x => { x with exported := true })) (slotted anIm (shared tileState))
    (((after (.kennelWriteApply 3) kw).m.tile 3).kennel.map (fun im => (im.complete, Memory.byte im.ctx.store 8))) = some (true, 0x50) ∧
    sp.m.freePlace 0 = some 0 ∧ sp.m.mustSpill 3 anIm = true := by decide +kernel
/-- ImageMoves: the return of a spilled image to the tile it claims, and to no other. -/
theorem witness_SpillReturn :
    let back := withM (fun m => m.modPart 0 (fun x => { x with spilled := [(0, some anIm)] })) (shared tileState)
    (.spill 0 0, 1) ∈ back.m.claims 0 0 ∧ ((after (.spillReturn 0 0 1) back).m.tile 1).kennel.isSome = true ∧
    ((after (.spillReturn 0 0 9) back).m.tile 9).kennel = none := by decide +kernel
/-- ImageMoves: a copy to the lowest idle tile with an empty slot. -/
theorem witness_SlotToSlotCopy :
    let cp := slotted { anIm with bind := { aBind with pos := 0 } } (shared tileState)
    (cp.m.parkedOn 0 0).map (·.2) = [.kennel 3] ∧ cp.m.claims 0 0 = [(.kennel 3, 1)] ∧ cp.m.mustSpill 3 anIm = false ∧
    ((after (.slotToSlotCopy 3 1) cp).m.tile 1).bind = some aBind := by decide +kernel
/-- ImageMoves: with no empty slot, an item stays parked until a tile becomes idle, and then takes the first of them. -/
theorem witness_ClaimsInTime :
    let full := fun (f : TileId → Dword) => withM (fun m => [1, 2, 3, 4, 5, 6, 7].foldl (fun (m : Mach) t => m.modTile t (fun x =>
      { x with idleAt := f t, kennel := some { anIm with part := 4, parkedAt := 9 } })) (m.modPart 0 (fun x => { x with spilled := [(0, some { anIm with parkedAt := 5 })] })))
      (shared tileState)
    (full (fun _ => 4)).m.parkedOn 0 0 = [(5, .spill 0 0)] ∧ (full (fun _ => 4)).m.claims 0 0 = [] ∧
    (full (fun t => if t = 3 ∨ t = 6 then 5 else 4)).m.claims 0 0 = [(.spill 0 0, 3)] := by decide +kernel
theorem shared_quiet : (shared tileState).m.quiet := by unfold Mach.quiet; decide +kernel

/-- LeasesBegin: a turn; a scheduled lease; a drained tile; a slice of a channel, its 500th and one more. -/
theorem witness_LeasesBegin :
    let s := up tileState
    let ch : UnitId := ⟨.channel, 0, 4⟩
    let sl := fun (n : Nat) => withM (fun m => m.modUnit ch (fun x => { x with slices := n, drainAt := 0 })) (at_ 160000 (leasing ch 2 0 s))
    let begun := fun (n : Nat) => (after (.hbmTestSliceStart 0 2) (sl n)).m.unit ch
    s.m.rotationTurn 0 .tile = some (tileUnit 0) ∧ s.m.leasePending (tileUnit 0) = false ∧
    ((after (.rotationDue (tileUnit 0)) s).m.unit (tileUnit 0)).lease = some 0 ∧ (leasing (tileUnit 9) 1 0 s).m.eligible (tileUnit 9) = true ∧
    leaseState ((after (.leaseDrainStart 0 2) (leasing (tileUnit 9) 1 0 s)).m.entry 0 2) = 2 ∧
    (leasing (tileUnit 9) 2 0 s).m.drained (tileUnit 9) = true ∧ (leasing (tileUnit 0) 2 0 s).m.drained (tileUnit 0) = false ∧
    (begun 0).slicing = true ∧
    (begun 499).slices = 500 ∧ (begun 500).slicing = false ∧ ((after (.hbmTestSliceStart 0 2) (at_ 159999 (sl 1))).m.unit ch).slicing = false ∧
    ((after (.hbmTestSliceEnd 0 2) (withM (fun m => m.modUnit ch (fun x => { x with slicing := true })) (leasing ch 3 0 s))).m.unit ch).slicing = false := by
  decide +kernel
/-- LeasesEnd: the last run passes; a marginal one below the threshold; under a confirmation lease; a failure; a commit. -/
theorem witness_LeasesEnd :
    let run := fun (c : Nat) (o : RunOutcome) => after (.patternRunComplete 2 2 o true) (leasing (tileUnit 9) 3 c tileState)
    let run0 := fun (c : Nat) (o : RunOutcome) => after (.patternRunComplete 0 2 o true) (leasing (tileUnit 9) 3 c tileState)
    let rec_ : DropRec := ⟨1025, toBytes 8 (8 * 2 ^ 48) ++ List.replicate 24 0 ++ toBytes 8 (2 * 2 ^ 24 + 9) ++ List.replicate 24 0⟩
    let back : DropRec := ⟨1026, toBytes 8 (7 * 2 ^ 48) ++ List.replicate 24 0 ++ toBytes 8 (2 * 2 ^ 24 + 9) ++ List.replicate 24 0⟩
    let held := fun (d : DropRec) => (fun (h : State) => { h with fw := { h.fw with dropsHeld := [d], retiredFlash := [9] } }) (leasing (tileUnit 9) 6 0 tileState)
    (run 0 .pass).m.unit (tileUnit 9) = (leasing (tileUnit 9) 3 0 tileState).m.unit (tileUnit 9) ∧ leaseState ((run0 0 .pass).m.entry 0 2) = 7 ∧
    ((run0 2 .pass).m.unit (tileUnit 9)).score = 128 ∧ ((run0 0 (.marginal 5)).m.unit (tileUnit 9)).score = 48 ∧
    leaseState ((run0 2 (.marginal 5)).m.entry 0 2) = 5 ∧ leaseState ((run0 0 (.fail 5)).m.entry 0 2) = 6 ∧
    ((run0 0 (.fail 5)).m.tile 9).service = .retired ∧
    (after .dropRecordCommit (held back)).fw.retiredFlash = [] ∧
    (let t := after .dropRecordCommit (held rec_)
     leaseState (t.m.entry 0 2) = 8 ∧ t.fw.dropsHeld = [] ∧ tget ⟨0, []⟩ t.fw.dropsFlash 1 = rec_ ∧ t.fw.retiredFlash = [9]) := by
  decide +kernel
/-- ScoresAndScrubber: a correctable word, a sector in error, a channel past the last; corrections written back. -/
theorem witness_ScoresAndScrubber :
    let w := SramWord.store 0 0
    let s := withM (fun m => { m with sram1 := [w], symErr := [(scrubSector 0 95 0, [(3, 1)])] }) tileState
    let q := fun (l : List Scrub) => after .scrubWriteback (withM (fun m => { m with scrubs := l }) s)
    s.m.scrubbed w = true ∧ (after (.sramScrubRead w) s).m.scrubs = [.word w] ∧ (after (.hbmScrubRead 0 95) s).m.scrubs = [.sector (scrubSector 0 95 0)] ∧
    (after (.hbmScrubRead 0 96) s).m.scrubs = [] ∧ tget 0 (after (.hbmScrubRead 0 94) s).m.scrubPos 94 = 1 ∧ (q [.word w]).m.sram1 = [] ∧
    (q [.sector (scrubSector 0 95 0)]).m.symErr = [] ∧
    (let e := fun (t : Dword) =>
       ((after (.rotationPeriodEnd .tile) (at_ t (withM (fun m => m.modUnit (tileUnit 9) (fun x => { x with score := 9 })) s))).m.unit (tileUnit 9)).score
     e 1600000000 = 4 ∧ e 1599999999 = 9) := by
  decide +kernel

/-- FlitsReceived and the rest of R10: each check refuses a term. -/
theorem illFormed_musher :
    [Instr.land false 3 0, .fenceX 0 0, .fenceX 6 0, .iinv 1 2 1, .iinv 1 2 6, .arrive 3 0 1, .arrive 2 8 1, .waitb 3 0, .waitb 2 8, .aqadd 1 3 0,
      .rcww 3 0, .rcwr 3 0, .rcwr 0 0, .layw 2 0, .layr 2 0, .layr 0 0, .muIllegal 0x05842800].all (fun i => !i.wellFormed) = true := by
  decide +kernel
theorem illFormed_records :
    [Instr.signal hdr0 ⟨0x70000, 1, 3⟩, .nop { hdr0 with csig := 0x60004 }, .vxAdd { fp2 with eng := 1 }, .vxAdd { fp2 with op3 := el 4 }].all (fun i => !i.wellFormed) = true := by
  decide +kernel
theorem illFormed_events :
    [Instr.flitTransmit ⟨false, 12, false⟩, .flitTransmit ⟨true, 12, false⟩, .ackIdleTimer ⟨true, 0, true⟩, .fabricPortReturn 15,
      .dataFlitReceive e0 (idleFlit 0 0), .idleFlitReceive e0 (aFlit 0 []), .hostMemoryRead 0 ⟨.m, 0⟩ 0, .hostMemoryRead 0 ⟨.m, 0⟩ 4097,
      .hostMemoryWrite 0 0 [], .perstDeassert 4 16, .perstDeassert 5 3, .functionLevelReset 0, .knownBadTableWrite ⟨0, 96, 0⟩ 0 0,
      .knownBadTableWrite ⟨0, 0, 0⟩ 0 72, .maintenanceWindow ⟨0, 96, 0⟩ true, .hbmScrubRead 0 96, .rotationDue ⟨.module, 0, 12⟩,
      .unitReturnRequest ⟨.channel, 0, 96⟩, .linkStateReport aMsg, .tkpullRound 0 64].all (fun i => !i.wellFormed) = true ∧
    (Instr.routingTableRequest 1 0x7FFFFFFF).wellFormed = false := by decide +kernel
/-- A term of each kind that the checks accept (MusherRoundTrip, RecordRoundTrips). -/
theorem wellFormed_terms :
    [Instr.fenceX 5 0, .iinv 1 2 5, .arrive 2 7 1, .layr 4 0, .muIllegal 0, .nop hdr1, .signal hdr0 ⟨0x70000, 1, 2⟩, .vxAdd fp2, .vxFma fp3,
      .flitTransmit ⟨true, 11, false⟩, .hostMemoryRead 0 ⟨.m, 0⟩ 4096, .perstDeassert 5 4, .rotationDue ⟨.channel, 3, 95⟩].all Instr.wellFormed = true := by
  decide +kernel

/-! ### Steps -/

/-- StepRunsDecoded: nothing stands between the thread and its fetch; a word and two words that it reads; a line its cache holds;
a fetch that the walk, the access table or poison refuses. -/
theorem witness_StepRunsDecoded :
    let s := State.reset.placeWord 0x05842800
    let s2 := withMem 0x10004 4 0x12345678 (State.reset.placeWord 0xF8C00000)
    let k := paTarget 0x10000
    let master := masterMusher 0
    let at_ := fun (pc : Dword) => (s.looked pc).xlate pc 4 .fetch
    let bare := withM (fun m => m.setGrants 2 0 master 0) s
    s.turn.act = .issue ∧ s.m.resting s.turn.thread = false ∧ s.self.ended = false ∧ s.self.asyncs = [] ∧ s.self.stepTrap = false ∧
    s.self.atExit = false ∧ s.self.breaks s.self.pc = false ∧ s.self.pc = 0x10000 ∧
    (match at_ 0x10000, at_ 0x10004 with | .ok (.here a) _, .ok (.here b) _ => a == 0x10000 && b == 0x10004 | _, _ => false) = true ∧
    ifind (s.m.core 0) 0 (0x10000 / 64) = none ∧ grantOk (s.m.grants k.1 k.2 master) .read = true ∧ s.m.poisoned 0x10000 64 = false ∧
    isTwoWord (BitVec.ofNat 32 (Memory.read s.m.mem 0x10000 4)) = false ∧ isTwoWord (BitVec.ofNat 32 (Memory.read s2.m.mem 0x10000 4)) = true ∧
    (match (s.looked 0x8000000000000000).xlate 0x8000000000000000 4 .fetch with | .bad _ => true | _ => false) = true ∧
    grantOk (bare.m.grants k.1 k.2 master) .read = false ∧
    (withM (fun m => { m with poisS := [0x10000 / 64] }) s).m.poisoned 0x10000 4 = true ∧
    (ifind ((withM (fun m => { m with cores := [(0, ⟨[], [⟨0, 0x10000 / 64, List.replicate 64 0, false⟩]⟩)] }) s).m.core 0) 0 (0x10000 / 64)).isSome = true := by
  decide +kernel
theorem witness_quiet : (State.reset.placeWord 0x05842800).m.quiet ∧ tileState.m.quiet := by unfold Mach.quiet; decide +kernel
/-- The next step, of whatever there is to run. -/
def ran (s : State) : State := match step s with
  | .next s' => s'
  | _ => s
/-- StepRunsOthers: a chain's latched block, one to latch; a held packet; an event; a single step, a breakpoint, an asynchronous trap. -/
theorem witness_StepRunsOthers :
    let chain := fun (s : State) => { s with turn := { s.turn with act := .chain, tile := 0, eng := .vx } }
    let ev := fun (i : Instr) (s : State) => { s with turn := { s.turn with act := .event i } }
    let blk := chain (stepping .vx (.vxAdd fp2) (withS [(0x1100, 4, 0x3F800000), (0x1200, 4, 0x40000000)] tileState))
    Memory.read ((ran blk).m.ctx 0).store 0x1000 4 = 0x40400000 ∧
    ((ran (chain (withM (fun m => m.modChain 0 .vx (fun x => { x with st := .running, latched := none })) tileState))).m.ctx 0).vx ≠
      (tileState.m.ctx 0).vx ∧
    ((ran (queued (.nop hdr0) tileState)).m.queue 3).held = none ∧ (Instr.regulatorOvercurrent).isEvent = true ∧
    (ran (ev .regulatorOvercurrent tileState)).pwr.tstep = 3 ∧ (Instr.add 1 2 3).isEvent = false ∧
    (withT (fun th => { th with stepTrap := true }) ready).self.stepTrap = true := by decide +kernel
/-- The invariants hold where every run begins. -/
theorem witness_Invariants : State.reset.pwr.capSet = 2800 ∧ State.reset.pwr.pcap = 2800 ∧ Memory.wf ready.m.mem ∧ Memory.wf ready.m.hostMem ∧
    State.reset.fw.boot ≠ .ready ∧
    (ran { ready with turn := { ready.turn with act := .event .bootComplete },
                      fw := { ready.fw with boot := .booted, running := some (anImage 1) } }).fw.boot = .ready ∧
    (ran { ready with turn := { ready.turn with act := .event .warmReset }, fw := { ready.fw with boot := .ready, running := some (anImage 1) } }).fw.boot = .booted ∧
    (ran { ready with turn := { ready.turn with act := .event .regulatorOvercurrent }, fw := { ready.fw with boot := .booted } }).m.herderB = false := by
  decide +kernel

end Sys2Proof.Tests
end

section
/-! PROOFS. The Musher's integer instructions (R217, R262, R264 to R269), branches, `jal` and `land` (R275, R276, R279), and scalar
FP32 (R213, R281, R282). First come the word operations as arithmetic of the integers that words stand for, for every width, and
the facts about values that scalar FP32 needs. Each claim is then a table: for each instruction the function that the model
applies, and the law by which that function is the one of the rule. -/
namespace Sys2Proof.Machine

section WordArithmetic
variable {w n : Nat}

/-! ### Sums, products and shifts -/

theorem add_eq_ofInt (x y : BitVec w) : x + y = BitVec.ofInt w (x.toInt + y.toInt) := by
  rw [BitVec.ofInt_add, BitVec.ofInt_toInt, BitVec.ofInt_toInt]

theorem sub_eq_ofInt (x y : BitVec w) : x - y = BitVec.ofInt w (x.toInt - y.toInt) := by
  rw [Int.sub_eq_add_neg, BitVec.ofInt_add, BitVec.ofInt_neg, BitVec.ofInt_toInt, BitVec.ofInt_toInt, BitVec.sub_eq_add_neg]

theorem mul_eq_ofInt (x y : BitVec w) : x * y = BitVec.ofInt w (x.toInt * y.toInt) := by
  rw [BitVec.ofInt_mul, BitVec.ofInt_toInt, BitVec.ofInt_toInt]

theorem shiftLeft_eq_ofNat (x : BitVec w) (k : Nat) : x <<< k = BitVec.ofNat w (x.toNat * 2 ^ k) := by
  rw [← Nat.shiftLeft_eq]; rfl

theorem ushiftRight_eq_ofNat (x : BitVec w) (k : Nat) : x >>> k = BitVec.ofNat w (x.toNat / 2 ^ k) := by
  rw [← Nat.shiftRight_eq_div_pow, ← BitVec.toNat_ushiftRight, BitVec.ofNat_toNat, BitVec.setWidth_eq]

theorem sshiftRight_eq_ofInt (x : BitVec w) (k : Nat) : x.sshiftRight k = BitVec.ofInt w (x.toInt / 2 ^ k) := by
  rw [BitVec.sshiftRight, Int.shiftRight_eq_div_pow]; push_cast; rfl

theorem shAmt_eq (y : Dword) : shAmt y = y.toNat % 64 := by
  rw [shAmt, BitVec.extractLsb'_toNat]; rfl

theorem shAmtW_eq (y : Word) : shAmtW y = y.toNat % 32 := by
  rw [shAmtW, BitVec.extractLsb'_toNat]; rfl

/-! ### Immediates -/

theorem setWidth_eq_ofNat (x : BitVec w) : x.setWidth n = BitVec.ofNat n x.toNat := (BitVec.ofNat_toNat _ _).symm

theorem add_signExtend (x : BitVec n) (y : BitVec w) : x + y.signExtend n = BitVec.ofInt n (x.toInt + y.toInt) := by
  rw [BitVec.ofInt_add, BitVec.ofInt_toInt]; rfl

theorem signExtend_shiftLeft (x : BitVec w) (k : Nat) :
    x.signExtend n <<< k = BitVec.ofInt n (x.toInt * 2 ^ k) := by
  have h : BitVec.ofInt n (2 ^ k) = BitVec.twoPow n k := by
    apply BitVec.eq_of_toNat_eq
    rw [BitVec.toNat_twoPow, ← BitVec.toNat_ofNat, ← BitVec.ofInt_natCast]; push_cast; rfl
  rw [BitVec.shiftLeft_eq_mul_twoPow, BitVec.ofInt_mul, h]; rfl

/-- A word-scaled offset reaches the address of the rule (R275, R276). -/
theorem add_words_eq (pc : Dword) (off : BitVec w) :
    pc + (off.signExtend 64 <<< 2) = BitVec.ofInt 64 (pc.toInt + 4 * off.toInt) := by
  rw [signExtend_shiftLeft, BitVec.ofInt_add, BitVec.ofInt_toInt, mul_comm]; rfl

/-- The high half replaced, the low half kept (R268). -/
theorem append_low_eq_ofNat (imm : BitVec 32) (x : Dword) :
    imm ++ x.extractLsb' 0 32 = BitVec.ofNat 64 (imm.toNat * 2 ^ 32 + x.toNat % 2 ^ 32) := by
  have hlow : (x.extractLsb' 0 32).toNat = x.toNat % 2 ^ 32 := BitVec.extractLsb'_toNat _ _ _
  have happ : (imm ++ x.extractLsb' 0 32).toNat = imm.toNat * 2 ^ 32 + x.toNat % 2 ^ 32 := by
    rw [BitVec.toNat_append, hlow, ← Nat.shiftLeft_add_eq_or_of_lt (Nat.mod_lt _ (by decide)), Nat.shiftLeft_eq]
  rw [← happ, BitVec.ofNat_toNat, BitVec.setWidth_eq]

/-! ### Comparisons -/

theorem beq_eq_decide_toInt (x y : BitVec w) : (x == y) = decide (x.toInt = y.toInt) := by
  rw [Bool.eq_iff_iff]; simp [BitVec.toInt_inj]

theorem bne_eq_decide_toInt (x y : BitVec w) : (x != y) = decide (x.toInt ≠ y.toInt) := by
  rw [Bool.eq_iff_iff]; simp [BitVec.toInt_inj]

theorem not_slt_eq_decide (x y : BitVec w) : (!x.slt y) = decide (y.toInt ≤ x.toInt) := by
  rw [Bool.eq_iff_iff]; simp [BitVec.slt_eq_decide]

theorem not_ult_eq_decide (x y : BitVec w) : (!x.ult y) = decide (y.toNat ≤ x.toNat) := by
  rw [Bool.eq_iff_iff]; simp [BitVec.ult_eq_decide]

theorem b2d_slt (x y : BitVec w) : b2d (x.slt y) = if x.toInt < y.toInt then 1 else 0 := by
  simp [b2d, BitVec.slt_eq_decide]

theorem b2d_ult (x y : BitVec w) : b2d (x.ult y) = if x.toNat < y.toNat then 1 else 0 := by
  simp [b2d, BitVec.ult_eq_decide]

theorem ite_slt_eq_min (x y : BitVec w) :
    (if x.slt y then x else y) = BitVec.ofInt w (Min.min x.toInt y.toInt) := by
  simp [BitVec.slt_eq_decide, min_def_lt, apply_ite (BitVec.ofInt w)]

theorem ite_slt_eq_max (x y : BitVec w) :
    (if x.slt y then y else x) = BitVec.ofInt w (Max.max x.toInt y.toInt) := by
  simp [BitVec.slt_eq_decide, max_def_lt, apply_ite (BitVec.ofInt w)]

theorem ite_ult_eq_min (x y : BitVec w) :
    (if x.ult y then x else y) = BitVec.ofNat w (Min.min x.toNat y.toNat) := by
  simp [BitVec.ult_eq_decide, min_def_lt, apply_ite (BitVec.ofNat w)]

theorem ite_ult_eq_max (x y : BitVec w) :
    (if x.ult y then y else x) = BitVec.ofNat w (Max.max x.toNat y.toNat) := by
  simp [BitVec.ult_eq_decide, max_def_lt, apply_ite (BitVec.ofNat w)]

/-! ### Division (R217) -/

/-- The one quotient that leaves the range of its operands is that of the least integer by −1. -/
theorem tdiv_mem_range {a b M : Int} (hlo : -M ≤ a) (hhi : a < M) (hne : ¬ (a = -M ∧ b = -1)) :
    -M ≤ a.tdiv b ∧ a.tdiv b < M := by
  have habs := Int.natAbs_tdiv_le_natAbs a b
  by_cases ha : a = -M
  · have hb : b ≠ -1 := fun hb => hne ⟨ha, hb⟩
    rcases lt_trichotomy b 0 with hneg | rfl | hpos
    · have h2 : a.natAbs / b.natAbs ≤ a.natAbs / 2 := Nat.div_le_div_left (by omega) (by omega)
      have hq : (a.tdiv b).natAbs = a.natAbs / b.natAbs := Int.natAbs_tdiv a b
      omega
    · rw [Int.tdiv_zero]; omega
    · have h0 : 0 ≤ (-a).tdiv b := Int.tdiv_nonneg (by omega) hpos.le
      rw [Int.neg_tdiv] at h0
      omega
  · omega

theorem intDiv_zero (a : Int) (signed : Bool) :
    intDiv a 0 w signed =
      if a < 0 then (if signed then -2 ^ (w - 1) else 0) else if a = 0 then 0
      else (if signed then 2 ^ (w - 1) - 1 else 2 ^ w - 1) := by
  simp [intDiv]

theorem intDiv_signed {a b : Int} (hb : b ≠ 0) (hlo : -2 ^ (w - 1) ≤ a) (hhi : a < 2 ^ (w - 1)) :
    intDiv a b w true = if a = -2 ^ (w - 1) ∧ b = -1 then 2 ^ (w - 1) - 1 else a.tdiv b := by
  simp only [intDiv, if_neg hb, if_true]
  split
  case isTrue h =>
    obtain ⟨rfl, rfl⟩ := h
    rw [Int.tdiv_neg, Int.tdiv_one]; omega
  case isFalse h =>
    obtain ⟨h1, h2⟩ := tdiv_mem_range hlo hhi h
    omega

/-- R217 for signed words of any width. -/
theorem sdiv_eq (x y : BitVec w) :
    sdiv x y =
      if y.toInt = 0 then
        (if x.toInt < 0 then BitVec.ofInt w (-2 ^ (w - 1)) else if x.toInt = 0 then 0
         else BitVec.ofInt w (2 ^ (w - 1) - 1))
      else if x.toInt = -2 ^ (w - 1) ∧ y.toInt = -1 then BitVec.ofInt w (2 ^ (w - 1) - 1)
      else BitVec.ofInt w (x.toInt.tdiv y.toInt) := by
  unfold sdiv
  split
  case isTrue hy => rw [hy, intDiv_zero]; simp [apply_ite (BitVec.ofInt w)]
  case isFalse hy =>
    rw [intDiv_signed hy (BitVec.le_toInt x) BitVec.toInt_lt]
    split <;> rfl

/-- R217 for unsigned words of any width. -/
theorem udivS_eq (x y : BitVec w) :
    udivS x y =
      if y.toNat = 0 then (if x.toNat = 0 then 0 else BitVec.ofInt w (2 ^ w - 1))
      else BitVec.ofNat w (x.toNat / y.toNat) := by
  unfold udivS
  split
  case isTrue hy =>
    rw [hy, Int.ofNat_zero, intDiv_zero, if_neg (by omega), apply_ite (BitVec.ofInt w)]
    exact if_congr Int.natCast_eq_zero (BitVec.ofInt_ofNat w 0) rfl
  case isFalse hy =>
    have hlt : (x.toNat : Int) / y.toNat < 2 ^ w := by
      have := Nat.lt_of_le_of_lt (Nat.div_le_self x.toNat y.toNat) x.isLt
      exact_mod_cast this
    have h0 : (0 : Int) ≤ (x.toNat : Int) / y.toNat := by positivity
    have hq : intDiv x.toNat y.toNat w false = ((x.toNat / y.toNat : Nat) : Int) := by
      simp only [intDiv, Int.natCast_eq_zero, if_neg hy, Bool.false_eq_true, if_false,
        Int.tdiv_eq_ediv_of_nonneg (Int.natCast_nonneg x.toNat), Int.natCast_ediv]
      omega
    rw [hq, BitVec.ofInt_natCast]

theorem intRem_eq_tmod (a b : Int) : intRem a b = a.tmod b := by
  unfold intRem
  split
  case isTrue h => rw [h, Int.tmod_zero]
  case isFalse => rw [Int.tmod_def]

theorem srem'_eq (x y : BitVec w) : srem' x y = BitVec.ofInt w (x.toInt.tmod y.toInt) := by
  rw [srem', intRem_eq_tmod]

theorem urem'_eq (x y : BitVec w) : urem' x y = BitVec.ofNat w (x.toNat % y.toNat) := by
  rw [urem', intRem_eq_tmod, Int.tmod_eq_emod_of_nonneg (Int.natCast_nonneg _), ← Int.natCast_emod, BitVec.ofInt_natCast]

/-! ### Bit fields (R269) -/

theorem getLsbD_sextLow (x : Dword) {k : Nat} (hw : w ≠ 0) (hk : k < 64) :
    (sextLow x w).getLsbD k = if k < w then x.getLsbD k else x.getLsbD (w - 1) := by
  have h : sextLow x w = (x.setWidth w).signExtend 64 := by rw [setWidth_eq_ofNat]; rfl
  rw [h, BitVec.getLsbD_signExtend, BitVec.msb_setWidth, BitVec.getLsbD_setWidth]
  simp only [hk, Nat.pos_of_ne_zero hw, decide_true, Bool.true_and]
  split
  case isTrue hlt => simp [hlt]
  case isFalse => rfl

theorem getLsbD_zextLow (x : Dword) {k : Nat} (hk : k < 64) :
    (zextLow x w).getLsbD k = (decide (k < w) && x.getLsbD k) := by
  rw [zextLow, BitVec.getLsbD_ofNat, Nat.testBit_mod_two_pow, BitVec.testBit_toNat]
  simp [hk]

/-- The bits of a pattern of which a field has been replaced (R255). -/
theorem getLsbD_setBits (y : Dword) {hi lo k : Nat} (v : Nat) (hk : k < 64) :
    (setBits y hi lo v).getLsbD k =
      if lo ≤ k ∧ k - lo < hi - lo + 1 then v.testBit (k - lo) else y.getLsbD k := by
  simp only [setBits, BitVec.getLsbD_or, BitVec.getLsbD_and, BitVec.getLsbD_not, BitVec.getLsbD_ofNat,
    Nat.testBit_mul_two_pow, Nat.testBit_two_pow_sub_one, hk, decide_true, Bool.true_and]
  by_cases h1 : lo ≤ k <;> by_cases h2 : k - lo < hi - lo + 1 <;> simp [h1, h2]

/-- `bfx` copies the field's bits and repeats its highest one (R269). -/
theorem getLsbD_bfx (x : Dword) {off wid : BitVec 7} {k : Nat} (hk : k < 64) :
    (if bfWidth off wid = 0 then 0 else sextLow (x >>> off.toNat) (bfWidth off wid) : Dword).getLsbD k =
      if bfWidth off wid = 0 then false
      else if k < bfWidth off wid then x.getLsbD (off.toNat + k) else x.getLsbD (off.toNat + bfWidth off wid - 1) := by
  split
  case isTrue => simp
  case isFalse h =>
    rw [getLsbD_sextLow _ h hk, BitVec.getLsbD_ushiftRight, BitVec.getLsbD_ushiftRight,
      Nat.add_sub_assoc (Nat.one_le_iff_ne_zero.mpr h)]

theorem getLsbD_bfxu (x : Dword) {off wid : BitVec 7} {k : Nat} (hk : k < 64) :
    (if bfWidth off wid = 0 then 0 else zextLow (x >>> off.toNat) (bfWidth off wid) : Dword).getLsbD k =
      (decide (k < bfWidth off wid) && x.getLsbD (off.toNat + k)) := by
  split
  case isTrue h => simp [h]
  case isFalse h => rw [getLsbD_zextLow _ hk, BitVec.getLsbD_ushiftRight]

theorem getLsbD_bfi (o x : Dword) {off wid : BitVec 7} {k : Nat} (hk : k < 64) :
    (if bfWidth off wid = 0 then o
      else setBits o (off.toNat + bfWidth off wid - 1) off.toNat (zextLow x (bfWidth off wid)).toNat).getLsbD k =
      if off.toNat ≤ k ∧ k < off.toNat + bfWidth off wid then x.getLsbD (k - off.toNat) else o.getLsbD k := by
  split
  case isTrue h => rw [if_neg (by omega)]
  case isFalse h =>
    rw [getLsbD_setBits o _ hk, BitVec.testBit_toNat, getLsbD_zextLow x (by omega)]
    by_cases hin : off.toNat ≤ k ∧ k < off.toNat + bfWidth off wid
    · rw [if_pos hin, if_pos (by omega), decide_eq_true (by omega), Bool.true_and]
    · rw [if_neg hin, if_neg (by omega)]

end WordArithmetic

/-! ### Values of scalar FP32 -/

/-- Is one of two values a NaN. -/
def eitherNan (x y : Val) : Bool := decide (x = .nan) || decide (y = .nan)

theorem eitherNan_iff {x y : Val} : eitherNan x y = true ↔ x = .nan ∨ y = .nan := by simp [eitherNan]

theorem fres_nan (fl : BitVec 16) : fres (.nan, fl) = 0x7FC00000 := rfl

/-- An operation that makes a NaN of every NaN operand (R211, R212). -/
def NanStrict (g : Val → Val → Val) : Prop := (∀ y, g .nan y = .nan) ∧ ∀ x, g x .nan = .nan

theorem nanStrict_valAdd (rm : BitVec 2) : NanStrict fun x y => (valAdd rm x y).1 :=
  ⟨fun _ => rfl, fun x => by cases x <;> rfl⟩

theorem nanStrict_valSub (rm : BitVec 2) : NanStrict fun x y => (valAdd rm x y.neg').1 :=
  ⟨fun _ => rfl, (nanStrict_valAdd rm).2⟩

theorem nanStrict_valMul : NanStrict fun x y => (valMul x y).1 := ⟨fun _ => rfl, fun x => by cases x <;> rfl⟩

theorem nanStrict_valMin : NanStrict valMin := ⟨fun _ => rfl, fun x => by cases x <;> rfl⟩

theorem nanStrict_valMax : NanStrict valMax := ⟨fun _ => rfl, fun x => by cases x <;> rfl⟩

/-- The FP32 result of such an operation is the canonical NaN where an operand is a NaN (R213). -/
theorem fres_of_nanStrict {g : Val → Val → Val × BitVec 16} (hg : NanStrict fun x y => (g x y).1) (x y : Val) :
    fres (g x y) = if eitherNan x y then 0x7FC00000 else BitVec.ofNat 64 (convertF fp32 (g x y).1 0 false).1 := by
  split
  case isTrue h =>
    have hr : (g x y).1 = .nan := by
      rcases eitherNan_iff.mp h with rfl | rfl
      · exact hg.1 y
      · exact hg.2 x
    rw [← fres_nan (g x y).2, ← hr]
  case isFalse => rfl

theorem fcmp_eq (rel : Val → Val → Bool) (x y : Dword) :
    fcmp rel x y = if !eitherNan (fval x) (fval y) && rel (fval x) (fval y) then 1 else 0 := by
  unfold fcmp
  cases fval x <;> cases fval y <;> simp [eitherNan, b2d]

theorem one_sub_fcmp (rel : Val → Val → Bool) (x y : Dword) :
    1 - fcmp rel x y = if eitherNan (fval x) (fval y) || !rel (fval x) (fval y) then 1 else 0 := by
  rw [fcmp_eq]
  cases eitherNan (fval x) (fval y) <;> cases rel (fval x) (fval y) <;> rfl

/-- Conversion to a signed 64-bit integer (R208, R282). -/
theorem convertI_num (neg : Bool) (m : Nat) (e : Int) :
    BitVec.ofInt 64 (convertI 64 true (.num neg m e) 0).1 =
      let r := signedInt neg (roundInt 0 neg m e).1
      if r < -2 ^ 63 then 0x8000000000000000 else if 2 ^ 63 - 1 < r then 0x7FFFFFFFFFFFFFFF else BitVec.ofInt 64 r := by
  simp only [convertI]
  split_ifs <;> rfl

/-! ### The laws of the remaining shapes -/

theorem gives_of_aluW {i : Instr} {s : State} {d a b : Reg} {v : Word} {f : Word → Word → Word}
    (h : exec i s = s.aluW d a b f) (hv : f ((s.self.rd a).setWidth 32) ((s.self.rd b).setWidth 32) = v) :
    Gives i s d (v.signExtend 64) (s.self.pc + 4) :=
  gives_of_alu h (congrArg _ hv)

theorem moves_of_branch {i : Instr} {s : State} {a b : Reg} {off : BitVec 16} {c : Dword → Dword → Bool} {p : Bool}
    (h : exec i s = s.branch a b off c) (hp : c (s.self.rd a) (s.self.rd b) = p) :
    Moves i s (if p then BitVec.ofInt 64 (s.self.pc.toInt + 4 * off.toInt) else s.self.pc + 4) := by
  refine ⟨_, h, onlySelf_onThread _ _, ?_, ?_⟩
  · rw [State.onThread_self, hp, add_words_eq]; exact completed_finish _ _
  · rw [State.onThread_self]; rfl

/-! ### Branches, `jal` and `land` -/

theorem branchResults : Claims.BranchResults := by
  intro s a b off x y tgt
  exact ⟨moves_of_branch (c := fun x y => x == y) rfl (beq_eq_decide_toInt x y),
    moves_of_branch (c := fun x y => x != y) rfl (bne_eq_decide_toInt x y),
    moves_of_branch (c := fun x y => x.slt y) rfl BitVec.slt_eq_decide,
    moves_of_branch (c := fun x y => !x.slt y) rfl (not_slt_eq_decide x y),
    moves_of_branch (c := fun x y => x.ult y) rfl BitVec.ult_eq_decide,
    moves_of_branch (c := fun x y => !x.ult y) rfl (not_ult_eq_decide x y)⟩

theorem jumpAndLand : Claims.JumpAndLand := by
  intro s d off t kind tag
  refine ⟨⟨_, rfl, onlySelf_onThread _ _, ?_, ?_⟩, moves_of_finish ?_⟩
  · rw [State.onThread_self, add_words_eq]; exact completed_wr_finish _ _ _ _
  · intro r; rw [State.onThread_self, Thread.finish_rd, Thread.rd_wr]
  · rfl

/-- Settles O3: the branches by the comparison each one makes, `jal` as a write of one register, `land` as a bare finish. -/
theorem branchesAndJumps : Obligations.BranchesAndJumps := ⟨branchResults, jumpAndLand⟩

/-! ### Integer results -/

theorem aluResults : Claims.AluResults := by
  intro s d a b x y pc
  exact ⟨gives_of_alu (f := fun x y => x + y) rfl (add_eq_ofInt x y),
    gives_of_alu (f := fun x y => x - y) rfl (sub_eq_ofInt x y),
    gives_of_alu (f := fun x y => x &&& y) rfl rfl,
    gives_of_alu (f := fun x y => x ||| y) rfl rfl,
    gives_of_alu (f := fun x y => x ^^^ y) rfl rfl,
    gives_of_alu (f := fun x y => x <<< shAmt y) rfl
      (by simp only [shAmt_eq, shiftLeft_eq_ofNat, x, y]),
    gives_of_alu (f := fun x y => x >>> shAmt y) rfl
      (by simp only [shAmt_eq, ushiftRight_eq_ofNat, x, y]),
    gives_of_alu (f := fun x y => x.sshiftRight (shAmt y)) rfl
      (by simp only [shAmt_eq, sshiftRight_eq_ofInt, x, y]),
    gives_of_alu (f := fun x y => b2d (x.slt y)) rfl (b2d_slt x y),
    gives_of_alu (f := fun x y => b2d (x.ult y)) rfl (b2d_ult x y),
    gives_of_alu (f := fun x y => if x.slt y then x else y) rfl (ite_slt_eq_min x y),
    gives_of_alu (f := fun x y => if x.slt y then y else x) rfl (ite_slt_eq_max x y),
    gives_of_alu (f := fun x y => if x.ult y then x else y) rfl (ite_ult_eq_min x y),
    gives_of_alu (f := fun x y => if x.ult y then y else x) rfl (ite_ult_eq_max x y),
    gives_of_alu (f := fun x y => x * y) rfl (mul_eq_ofInt x y),
    gives_of_alu (f := mulHiS) rfl rfl,
    gives_of_alu (f := mulHiU) rfl rfl⟩

theorem divisionResults : Claims.DivisionResults := by
  intro s d a b x y pc
  exact ⟨gives_of_alu rfl (sdiv_eq x y), gives_of_alu rfl (udivS_eq x y), gives_of_alu rfl (srem'_eq x y),
    gives_of_alu rfl (urem'_eq x y)⟩

theorem wordAluResults : Claims.WordAluResults := by
  intro s d a b x y pc out
  exact ⟨gives_of_aluW (f := fun x y => x + y) rfl (add_eq_ofInt x y),
    gives_of_aluW (f := fun x y => x - y) rfl (sub_eq_ofInt x y),
    gives_of_aluW (f := fun x y => x <<< shAmtW y) rfl
      (by simp only [shAmtW_eq, shiftLeft_eq_ofNat, x, y]),
    gives_of_aluW (f := fun x y => x >>> shAmtW y) rfl
      (by simp only [shAmtW_eq, ushiftRight_eq_ofNat, x, y]),
    gives_of_aluW (f := fun x y => x.sshiftRight (shAmtW y)) rfl
      (by simp only [shAmtW_eq, sshiftRight_eq_ofInt, x, y]),
    gives_of_aluW (f := fun x y => x * y) rfl (mul_eq_ofInt x y),
    gives_of_aluW (f := sdiv) rfl (sdiv_eq x y),
    gives_of_aluW (f := udivS) rfl (udivS_eq x y),
    gives_of_aluW (f := srem') rfl (srem'_eq x y),
    gives_of_aluW (f := urem') rfl (urem'_eq x y)⟩

theorem immediateResults : Claims.ImmediateResults := by
  intro s d a imm sh imm32 x pc pc2
  exact ⟨gives_of_alu1 (f := fun x => x + imm.signExtend 64) rfl (add_signExtend x imm),
    gives_of_alu1 (f := fun x => x &&& imm.setWidth 64) rfl (congrArg _ (setWidth_eq_ofNat imm)),
    gives_of_alu1 (f := fun x => x ||| imm.setWidth 64) rfl (congrArg _ (setWidth_eq_ofNat imm)),
    gives_of_alu1 (f := fun x => x ^^^ imm.setWidth 64) rfl (congrArg _ (setWidth_eq_ofNat imm)),
    gives_of_alu1 (f := fun x => b2d (x.slt (imm.signExtend 64))) rfl
      ((b2d_slt _ _).trans (by rw [BitVec.toInt_signExtend_of_le (by decide)])),
    gives_of_alu1 (f := fun x => b2d (x.ult (imm.setWidth 64))) rfl
      ((b2d_ult _ _).trans (by rw [BitVec.toNat_setWidth_of_le (by decide)])),
    gives_of_alu1 (f := fun x => x <<< sh.toNat) rfl (shiftLeft_eq_ofNat x _),
    gives_of_alu1 (f := fun x => x >>> sh.toNat) rfl (ushiftRight_eq_ofNat x _),
    gives_of_alu1 (f := fun x => x.sshiftRight sh.toNat) rfl (sshiftRight_eq_ofInt x _),
    gives_of_setReg (f := fun _ => imm.signExtend 64 <<< 16) rfl (signExtend_shiftLeft imm 16),
    gives_of_setReg (f := fun _ => imm32.signExtend 64) rfl rfl,
    gives_of_setReg (f := fun _ => imm32.setWidth 64) rfl (setWidth_eq_ofNat imm32),
    gives_of_setReg (f := fun th => imm32 ++ (th.rd d).extractLsb' 0 32) rfl (append_low_eq_ofNat imm32 _),
    gives_of_setReg (f := fun th => th.pc + imm32.signExtend 64) rfl (add_signExtend s.self.pc imm32)⟩

theorem bitFieldResults : Claims.BitFieldResults := by
  intro s d a wid off x o pc w
  exact ⟨_, _, _,
    gives_of_alu1 (f := fun x => if bfWidth off wid = 0 then 0 else sextLow (x >>> off.toNat) (bfWidth off wid)) rfl rfl,
    gives_of_alu1 (f := fun x => if bfWidth off wid = 0 then 0 else zextLow (x >>> off.toNat) (bfWidth off wid)) rfl rfl,
    gives_of_setReg (f := fun th => if bfWidth off wid = 0 then th.rd d
      else setBits (th.rd d) (off.toNat + bfWidth off wid - 1) off.toNat (zextLow (th.rd a) (bfWidth off wid)).toNat) rfl rfl,
    fun _ hk => ⟨getLsbD_bfx x hk, getLsbD_bfxu x hk, getLsbD_bfi o x hk⟩⟩

/-- Settles O1: each integer instruction by the law of its word operation. -/
theorem integerResults : Obligations.IntegerResults :=
  ⟨aluResults, divisionResults, wordAluResults, immediateResults, bitFieldResults⟩

/-! ### Scalar FP32 -/

/-- Settles O2: every operation makes a NaN of a NaN operand, so the two branches of a result agree with the model's one. -/
theorem scalarFpResults : Obligations.ScalarFpResults := by
  intro s d a b x y pc out nan
  exact ⟨gives_of_alu (f := fun x y => fres (valAdd 0 (fval x) (fval y))) rfl (fres_of_nanStrict (nanStrict_valAdd 0) x y),
    gives_of_alu (f := fun x y => fres (valAdd 0 (fval x) (fval y).neg')) rfl (fres_of_nanStrict (nanStrict_valSub 0) x y),
    gives_of_alu (f := fun x y => fres (valMul (fval x) (fval y))) rfl (fres_of_nanStrict nanStrict_valMul x y),
    gives_of_alu (f := fun x y => fres (valMin (fval x) (fval y), 0)) rfl
      (fres_of_nanStrict (g := fun x y => (valMin x y, 0)) nanStrict_valMin x y),
    gives_of_alu (f := fun x y => fres (valMax (fval x) (fval y), 0)) rfl
      (fres_of_nanStrict (g := fun x y => (valMax x y, 0)) nanStrict_valMax x y),
    gives_of_alu (f := fun x y => fcmp valEq x y) rfl (fcmp_eq valEq _ _),
    gives_of_alu (f := fun x y => fcmp valLt x y) rfl (fcmp_eq valLt _ _),
    gives_of_alu (f := fun x y => fcmp (fun a b => valLt a b || valEq a b) x y) rfl (fcmp_eq _ _ _),
    gives_of_alu (f := fun x y => 1 - fcmp valEq x y) rfl (one_sub_fcmp valEq _ _),
    gives_of_alu1 (f := fun x => fres (.num (x.toInt < 0) x.toInt.natAbs 0, 0)) rfl rfl,
    BitVec.ofInt 64 (convertI 64 true x 0).1,
    gives_of_alu1 (f := fun x => BitVec.ofInt 64 (convertI 64 true (fval x) 0).1) rfl rfl,
    fun h => by rw [h]; rfl, fun h => by rw [h]; rfl, fun h => by rw [h]; rfl,
    fun neg m e h => by rw [h]; exact convertI_num neg m e⟩

end Sys2Proof.Machine
end

section
/-! PROOFS. The words of the opcode map (R232, R235): the source forms that the manual assembles. -/
namespace Sys2Proof.Machine

/-- Settles O52: the decoder run on the words of the manual's tables (R316, R262, R235), first the forms of one word, then those
with a second word (R233). -/
theorem decodedWords : Obligations.DecodedWords := by
  unfold Obligations.DecodedWords
  refine ⟨?oneWord, ?twoWords⟩
  case oneWord => decide
  case twoWords => decide

end Sys2Proof.Machine
end
